-- ==== Sys2Proof/Word.lean ====
section
/-! DEFINITION. The words of the part: bytes, positions, and the small numbers it names things by. -/

namespace Sys2Proof

/-- One byte of the Local Port or one character of the line. -/
abbrev Byte := BitVec 8

/-- A signed 32-bit count in two's complement (R43, R44, R194). -/
abbrev Position := BitVec 32

/-- A station number 0..31 (R49, R195). -/
abbrev Station := Fin 32

/-- A frame's sequence number 0..15 (R118). -/
abbrev Seq := Fin 16

/-- A mark number 0..63 (R49). -/
abbrev Mark := Fin 64

/-- Periods of the 16 MHz clock, from which every timer is derived (00_scope.md). -/
abbrev Clocks := Nat

end Sys2Proof
end

