-- ==== Sys2Proof/Syntax.lean ====
section
/-! DEFINITION. The commands of the part: one constructor of Instr for each row of opcode_table.json. -/

namespace Sys2Proof

/-- The seven level inputs, in the order of their codes (R82, R197). -/
inductive Input where
  | home | limp | limn | estop | drvflt | in0 | in1
  deriving DecidableEq, Repr

/-- The straps as they read at a hard reset or a RESTART: the station number SN4..SN0 and the bit-rate
straps BR1, BR0 (R106, R158, R199). -/
structure Straps where
  number : Station
  rate : BitVec 2
  deriving DecidableEq, Repr

/-- A frame of another station as the receiver followed it to its declared end: its characters, header
first and check characters last; whether a stop bit was dominant; whether the three samples of some bit
disagreed (R108, R121). -/
structure RxFrame where
  chars : List Byte
  framing : Bool
  noise : Bool
  deriving DecidableEq, Repr

/-- One event at the part. Local Port commands carry their argument bytes as R199 lays them out (a
four-byte value is given as one 32-bit word, sent least significant byte first, R194). -/
inductive Instr where
  /-- HARD_RESET (R158), with the straps as they read then. -/
  | hardReset (straps : Straps)
  /-- TRANSACTION_BEGIN (R183). -/
  | transactionBegin
  /-- MALFORMED_TRANSACTION (R184). -/
  | malformedTransaction
  /-- WRITE_CONFIG (R188): the 23 bytes of the block. -/
  | writeConfig (block : List Byte)
  /-- JOIN (R155). -/
  | join
  /-- LEAVE (R157). -/
  | leave
  /-- REJOIN (R150). -/
  | rejoin
  /-- RESTART (R158), with the straps as they read then. -/
  | restart (straps : Straps)
  /-- APPEND_SEGMENT (R4): the segment bytes. -/
  | appendSegment (segment : List Byte)
  /-- FLUSH (R20). -/
  | flush
  /-- STOP (R91). -/
  | stop
  /-- ABORT (R91). -/
  | abort
  /-- ACKNOWLEDGE (R92). -/
  | acknowledge
  /-- RAISE_HALT (R95). -/
  | raiseHalt (reason kind : Byte)
  /-- LIFT_HALT (R96). -/
  | liftHalt
  /-- DISMISS (R102). -/
  | dismiss
  /-- EMIT_MARK (R55). -/
  | emitMark (mark choice : Byte) (value : Position)
  /-- SET_REACTION (R65). -/
  | setReaction (index source mark action parameter mode : Byte)
  /-- CLEAR_REACTION (R66). -/
  | clearReaction (index : Byte)
  /-- REARM (R67). -/
  | rearm (index : Byte)
  /-- SET_WATCH (R74). -/
  | setWatch (watch enable source condition : Byte) (value : Position) (mark cut : Byte)
  /-- SET_CAPTURE (R77). -/
  | setCapture (slot setup : Byte)
  /-- READ_CAPTURE (R79). -/
  | readCapture (slot : Byte)
  /-- POST_SEGMENT (R170). -/
  | postSegment (destination : Byte) (segment : List Byte)
  /-- READ_STATUS (R186). -/
  | readStatus
  /-- READ_ROSTER (R167). -/
  | readRoster (station : Byte)
  /-- READ_HALT_LIST (R98). -/
  | readHaltList
  /-- READ_NOTICE (R191). -/
  | readNotice
  /-- A command code that is not in the set of R199 (R185). -/
  | unknown (code : Byte)
  /-- INPUT_CHANGE (R82): the filtered level of an input becomes this electrical level, true for high. -/
  | inputChange (input : Input) (high : Bool)
  /-- ENCODER_EDGE (R44): the levels of ENCA and ENCB after the edge, true for high. -/
  | encoderEdge (a b : Bool)
  /-- STEP_PULSE (R25): the interval to the next pulse has passed. -/
  | stepPulse
  /-- DWELL_EXPIRY (R35). -/
  | dwellExpiry
  /-- FRAME_START_RECOGNISED (R109). -/
  | frameStartRecognised
  /-- LINE_ACTIVITY (R109): the level of the line changes outside a frame: to a dominant level that is no frame start, or
  back to recessive after it. -/
  | lineActivity
  /-- QUIET_PERIOD (R109). -/
  | quietPeriod
  /-- IDLE_ROUND (R113). -/
  | idleRound
  /-- DEFERRAL_GAP_REACHED (R114). -/
  | deferralGapReached
  /-- ECHO_FAULT (R115). -/
  | echoFault
  /-- ATTEMPT_END (R116): whether either bit of the reject window was dominant. -/
  | attemptEnd (rejected : Bool)
  /-- RECEIVED_FRAME_END (R144), with the frame followed. -/
  | receivedFrameEnd (frame : RxFrame)
  /-- FRAME_TRUNCATED (R110). -/
  | frameTruncated
  /-- FRAME_TAKEN (R123), with the frame followed. -/
  | frameTaken (frame : RxFrame)
  /-- LISTENING_TIMER_EXPIRY (R156). -/
  | listeningTimerExpiry
  /-- PRESENCE_TIMER_EXPIRY (R165). -/
  | presenceTimerExpiry
  /-- LAPSE_TIMER_EXPIRY (R164) of a station's roster entry. -/
  | lapseTimerExpiry (station : Station)
  /-- ANSWER_TIMER_EXPIRY (R171) of the Post Table entry with this destination and sequence. -/
  | answerTimerExpiry (destination : Station) (sequence : Seq)
  /-- TRANSACTION_END (R182). -/
  | transactionEnd
  deriving DecidableEq, Repr

end Sys2Proof
end

