-- ==== Sys2Proof/Decode.lean ====
section
/-! DEFINITION. Commands from table words. No row of opcode_table.json gives bits. -/

namespace Sys2Proof

/-- The command that a table word spells: none, since no row of the table has bits. Local Port commands come as byte
sequences (R199), which Syntax.lean carries as operands. -/
def decodeTableWord (_nbits _w : Nat) : Option Instr := none

end Sys2Proof
end

