-- ==== Sys2Proof/Config.lean ====
section
/-! DEFINITION. What the spec leaves open and the model leaves free: opaque constants without a body,
each applied to the counter State.free, so that a claim holds whatever they are. -/

namespace Sys2Proof.Config

/-- R140, R149, R156: when the Outbound Queue opens, the Halt Table's request and the Peer Roster's are
taken "in either order". True: the Halt Table's first. (Log 9.) -/
opaque haltRequestFirst : Nat → Bool

/-- R82 hands a change of IN0 or IN1 "at once to every block that uses that input" and names no order.
True: the capture slots take the edge before the gates and the SEEK. (Log 10.) -/
opaque captureFirst : Nat → Bool

/-- R166 and R167: the own summary of a Withdrawn station has a standing bit with the values Engaged and
Reticent only. True: the bit reads Reticent. (Log 11.) -/
opaque withdrawnStandingBit : Nat → Bool

/-- R132: a POST_SEGMENT that reaches the Outbound Queue in the same moment as the change that closes it is taken "in one
of two orders". True: its own check of the state was made before the change, and the queue it finds is closed. (Log
47.) -/
opaque checkedBeforeClosing : Nat → Bool

/-- R7, R176: a POST that has been handed on to the Segment Queue while a LEAVE or an entry into Conflict comes is taken
before it, or after it and then refused. True: the POST is taken first. (Log 50.) -/
opaque postTakenFirst : Nat → Bool

end Sys2Proof.Config
end

