-- ==== Sys2Proof/Machine/State.lean ====
section
/-! DEFINITION. The state of the part as plain data, the machine right after a hard reset, and the ways a
step could stop. -/

namespace Sys2Proof.Machine

/-! ### Shared names -/

/-- Direction of motion (R23). -/
inductive Dir where
  | plus | minus
  deriving DecidableEq, Repr

/-- The two kinds of stop (R83, R94; codes R195). -/
inductive StopKind where
  | decelerating | immediate
  deriving DecidableEq, Repr

/-! ### The configuration block (R187) -/

/-- Pulse mode (R25). -/
inductive PulseMode where
  | stepDirection | cwCcw
  deriving DecidableEq, Repr

/-- Encoder mode (R44). -/
inductive EncoderMode where
  | off | quadrature | upDown
  deriving DecidableEq, Repr

/-- The configuration block (R187). The presence period and the answer window are in units of 10 ms. Bit n of
activeHigh belongs to the input of code n and bit n of postMask to station n (R199). -/
structure ConfigBlock where
  presencePeriod : Byte
  answerWindow : Byte
  postMask : BitVec 32
  baseSpeed : BitVec 16
  stopRate : BitVec 16
  pulseMode : PulseMode
  encoder : EncoderMode
  hardStop : StopKind
  softStop : StopKind
  softEnabled : Bool
  autoRejoin : Bool
  gapLimit : BitVec 16
  softMin : Position
  softMax : Position
  activeHigh : BitVec 7
  propagate : BitVec 3
  deriving DecidableEq, Repr

/-- The defaults of R187. -/
def ConfigBlock.default : ConfigBlock :=
  { presencePeriod := 10, answerWindow := 20, postMask := 0, baseSpeed := 200, stopRate := 100
    pulseMode := .stepDirection, encoder := .off, hardStop := .immediate, softStop := .immediate
    softEnabled := false, autoRejoin := true, gapLimit := 0, softMin := 0, softMax := 0
    activeHigh := 0x7F, propagate := 0x7 }

/-! ### The Segment Queue (R1 to R15) -/

/-- The condition a segment waits on (R1, R10). -/
inductive Gate where
  | absent
  | tally (entry : Fin 24)
  | watch (watch : Fin 4)
  | input (input : Input) (active : Bool)
  deriving DecidableEq, Repr

/-- The speed fields of a motion segment: top speed in pps, acceleration and deceleration in units of
1000 pps/s (R1). -/
structure Ramp where
  top : Nat
  accel : Nat
  decel : Nat
  deriving DecidableEq, Repr

/-- A segment's kind with the fields that depend on it (R2). The DWELL time is in ms. -/
inductive SegmentBody where
  | moveRel (distance : Position) (ramp : Ramp)
  | moveAbs (target : Position) (ramp : Ramp)
  | run (dir : Dir) (ramp : Ramp)
  | seek (dir : Dir) (input : Input) (zero : Bool) (findStop : StopKind) (ramp : Ramp)
  | dwell (time : Nat)
  | setpos (target : Position)
  deriving DecidableEq, Repr

/-- The fields of a segment that its encoding carries (R1, R197). -/
structure Segment where
  tag : Byte
  chain : Bool
  gate : Gate
  startMark : Option Mark
  endMark : Option Mark
  body : SegmentBody
  deriving DecidableEq, Repr

/-- Where a segment came from (R1). -/
inductive Origin where
  | localPort
  | peer (station : Station) (sequence : Seq)
  deriving DecidableEq, Repr

/-- The entry states of R9 and R14. -/
inductive EntryState where
  | waiting | running | committed
  deriving DecidableEq, Repr

/-- One entry of the Segment Queue. consumed: its gate is marked as consumed (R15). -/
structure Entry where
  segment : Segment
  origin : Origin
  state : EntryState
  consumed : Bool
  deriving DecidableEq, Repr

/-- How a segment left the queue (R16). -/
inductive Retirement where
  | completed | cut | stopped | flushed
  deriving DecidableEq, Repr

/-! ### The Profile Generator (R23) -/

/-- The axis states. -/
inductive AxisState where
  | idle | gated | rampUp | cruise | rampDown | dwell | braking
  deriving DecidableEq, Repr

/-- Why the axis is BRAKING (R23). -/
inductive BrakeCause where
  | none | cut | stop
  deriving DecidableEq, Repr

/-- The two pulse outputs (R25). -/
inductive PulsePin where
  | stepCw | dirCcw
  deriving DecidableEq, Repr

/-- The state of the Profile Generator. Speeds are in units of 1/65,536 pps (R26), the blend speed in whole pps
(none: the plan is base speed), rates in pps/s. pulseMode is the mode of the motion segment started latest, in which the
two outputs stand (R25, R189). -/
structure Axis where
  state : AxisState
  speed : Nat
  dir : Dir
  pulseMode : PulseMode
  remaining : Nat
  blend : Option Nat
  committed : Bool
  braking : BrakeCause
  brakeRate : Nat
  found : Bool
  dwellTimer : Clocks
  pulseTimer : Clocks
  pulseOut : Option PulsePin
  deriving DecidableEq, Repr

/-! ### Watches and Captures (R70, R76) -/

/-- Which position a watch compares. -/
inductive WatchSource where
  | command | measured
  deriving DecidableEq, Repr

/-- The comparisons of R72. -/
inductive WatchCondition where
  | atOrAbove | below | crossUp | crossDown
  deriving DecidableEq, Repr

/-- The states of a watch. -/
inductive WatchState where
  | off | armed | hit
  deriving DecidableEq, Repr

/-- A watch record (R70). -/
structure Watch where
  source : WatchSource
  condition : WatchCondition
  value : Position
  mark : Option Mark
  cutOnHit : Bool
  state : WatchState
  previous : Position
  deriving DecidableEq, Repr

/-- A watch after hard reset (R81). -/
def Watch.cleared : Watch :=
  { source := .command, condition := .atOrAbove, value := 0, mark := none, cutOnHit := false
    state := .off, previous := 0 }

/-- The input trigger set-ups of R76, in the order of their codes (R199). -/
inductive CaptureSetup where
  | none | in0Rising | in0Falling | in1Rising | in1Falling
  deriving DecidableEq, Repr

/-- What filled a slot (R76). -/
inductive Trigger where
  | none
  | reaction (entry : Fin 24)
  | edge (setup : CaptureSetup)
  deriving DecidableEq, Repr

/-- A capture slot (R76). -/
structure Capture where
  valid : Bool
  missed : Bool
  command : Position
  measured : Position
  headTag : Option Byte
  trigger : Trigger
  setup : CaptureSetup
  deriving DecidableEq, Repr

/-- A slot after hard reset (R81). -/
def Capture.cleared : Capture :=
  { valid := false, missed := false, command := 0, measured := 0, headTag := none, trigger := .none
    setup := .none }

/-! ### The Reaction Table and the Mark Emitter (R49 to R57) -/

/-- The actions of R57. -/
inductive Action where
  | tally | cut
  | capture (slot : Fin 4)
  | emit (mark : Mark)
  | stopLocal
  deriving DecidableEq, Repr

/-- A reaction entry (R57). source none is Any; once is the mode; spent is the state. -/
structure Reaction where
  inUse : Bool
  source : Option Station
  mark : Mark
  action : Action
  once : Bool
  spent : Bool
  tally : Nat
  overflow : Bool
  deriving DecidableEq, Repr

/-- An entry after hard reset (R69). -/
def Reaction.cleared : Reaction :=
  { inUse := false, source := none, mark := 0, action := .tally, once := true, spent := false
    tally := 0, overflow := false }

/-- Who asked for an emission (R50). -/
inductive EmitOrigin where
  | start | finish | watch | reaction | command
  deriving DecidableEq, Repr

/-- A pending emission (R52); frame is the identity of its MARK frame. -/
structure Emission where
  mark : Mark
  stamp : Option Position
  origin : EmitOrigin
  index : Byte
  frame : Nat
  deriving DecidableEq, Repr

/-- An arrival at the Reaction Table (R49). -/
structure Arrival where
  source : Station
  mark : Mark
  stamp : Option Position
  deriving DecidableEq, Repr

/-- The request of an acting entry, step 2 of R59. -/
structure Request where
  entry : Fin 24
  action : Action
  source : Station
  mark : Mark
  deriving DecidableEq, Repr

/-- Events handed between blocks inside one command and not yet taken: position values that came up while the watches
compared another (R71), an evaluation of the head (R11), the requests of the arrival being taken (R59), own marks to be
looped back (R54). The model's own field; empty between commands. (Log 5.) -/
structure Handed where
  values : List (WatchSource × Position)
  evaluate : Bool
  requests : List Request
  loopBacks : List (Mark × Option Position)
  deriving DecidableEq, Repr

/-- A POST handed on to the Segment Queue: its poster, its sequence and the bytes of its segment (R7, R125). -/
structure HandedPost where
  source : Station
  sequence : Seq
  segment : List Byte
  deriving DecidableEq, Repr

/-- Nothing handed. -/
def Handed.empty : Handed := { values := [], evaluate := false, requests := [], loopBacks := [] }

/-! ### The Stop Supervisor and the Halt Table (R82 to R98) -/

/-- The three most recent samples of an input, true for high (R82). -/
structure Samples where
  newest : Bool
  middle : Bool
  oldest : Bool
  deriving DecidableEq, Repr

/-- The samples of the seven level inputs. -/
structure Inputs where
  home : Samples
  limp : Samples
  limn : Samples
  estop : Samples
  drvflt : Samples
  in0 : Samples
  in1 : Samples
  deriving DecidableEq, Repr

/-- The stop causes of R83, in the order of their codes (R202). -/
inductive Cause where
  | estop | drvflt | followingGap | limitPlus | limitMinus | softPlus | softMinus
  deriving DecidableEq, Repr

/-- The fault set: which causes are in it (R83). -/
structure FaultSet where
  estop : Bool
  drvflt : Bool
  followingGap : Bool
  limitPlus : Bool
  limitMinus : Bool
  softPlus : Bool
  softMinus : Bool
  deriving DecidableEq, Repr

/-- The empty fault set. -/
def FaultSet.empty : FaultSet :=
  { estop := false, drvflt := false, followingGap := false, limitPlus := false, limitMinus := false
    softPlus := false, softMinus := false }

/-- How the own halt was raised (R94). -/
inductive HaltHow where
  | cause | command
  deriving DecidableEq, Repr

/-- A frame the Halt Table must still ask for (R94, R97). -/
inductive Owed where
  | none | halt | lift
  deriving DecidableEq, Repr

/-- The own halt (R94). -/
structure OwnHalt where
  raised : Bool
  reason : Byte
  kind : StopKind
  how : HaltHow
  owed : Owed
  deriving DecidableEq, Repr

/-- The own halt, clear (R96, R105). The spec gives a cleared halt no stop kind and no way of being raised: the model
holds Decelerating and Cause (log 4). -/
def OwnHalt.clear : OwnHalt :=
  { raised := false, reason := 0, kind := .decelerating, how := .cause, owed := .none }

/-- How a halt-list entry was learned (R98). -/
inductive Learned where
  | frame | presence
  deriving DecidableEq, Repr

/-- A halt-list entry; its source is its place in the list (R98). -/
structure HaltEntry where
  reason : Byte
  kind : StopKind
  learned : Learned
  deriving DecidableEq, Repr

/-! ### Frames and the Outbound Queue (R107, R129) -/

/-- The six frame kinds, in the order of their codes (R195). -/
inductive FrameKind where
  | halt | lift | mark | answer | post | presence
  deriving DecidableEq, Repr

/-- Who is to act on a frame (R107). -/
inductive Dest where
  | broadcast
  | station (number : Station)
  deriving DecidableEq, Repr

/-- A received frame by its header fields and its payload (R107, R195). The retry flag has no part in the sequence law
(R107, R124). -/
structure RxHeader where
  kind : FrameKind
  source : Station
  dest : Dest
  retry : Bool
  sequence : Seq
  payload : List Byte
  deriving DecidableEq, Repr

/-- The reasons of R7 for refusing a POST. -/
inductive RefusalReason where
  | notPermitted | state | halted | full | invalid
  deriving DecidableEq, Repr

/-- What an ANSWER says (R172). -/
inductive AnswerKind where
  | taken
  | refused (reason : RefusalReason)
  | finished (outcome : Retirement)
  deriving DecidableEq, Repr

/-- The fields of a PRESENCE (R166), as a payload and as a roster summary. The axis state is its 3-bit code, which a
received frame may leave without meaning (R196). -/
structure Presence where
  period : Byte
  axis : BitVec 3
  reticent : Bool
  haltRaised : Bool
  faults : Bool
  halts : Bool
  depth : Byte
  reason : Byte
  deriving DecidableEq, Repr

/-- The payload of an own frame (R195). -/
inductive Payload where
  | halt (reason : Byte) (kind : StopKind)
  | lift
  | mark (mark : Mark) (stamp : Option Position)
  | answer (sequence : Seq) (kind : AnswerKind) (tag : Byte)
  | post (segment : List Byte)
  | presence (fields : Presence)
  deriving DecidableEq, Repr

/-- A frame record (R129). Its place in the list is its age; id is its identity. -/
structure OutFrame where
  id : Nat
  dest : Dest
  payload : Payload
  sequence : Seq
  attempts : Nat
  inFlight : Bool
  held : Option Presence
  deriving DecidableEq, Repr

/-! ### The Line Interface (chapter 6) -/

/-- The bit rates of R106. -/
inductive BitRate where
  | k125 | k250 | k500 | k1000
  deriving DecidableEq, Repr

/-- The receiver states. -/
inductive Receiver where
  | off | hunting | following | trailing
  deriving DecidableEq, Repr

/-- The transmitter states. -/
inductive Transmitter where
  | silent | waiting | sending | listeningBack
  deriving DecidableEq, Repr

/-- The picked frame with the deferral gap noted at the pick (R113). -/
structure Pick where
  frame : Nat
  gap : Nat
  deriving DecidableEq, Repr

/-- The frame in flight and the whole bit times sent of it. -/
structure Flight where
  frame : Nat
  bits : Nat
  deriving DecidableEq, Repr

/-- The reception in progress. afterEcho: it follows an echo fault of an own frame (R115). -/
structure Reception where
  chars : Nat
  noisy : Bool
  fault : Bool
  afterEcho : Bool
  deriving DecidableEq, Repr

/-- The state of the Line Interface. dominant: the level that stands on the line is dominant, outside a frame that the
receiver follows (R109; log 46). -/
structure Lif where
  dominant : Bool
  receiver : Receiver
  transmitter : Transmitter
  idle : Nat
  roundDone : Bool
  quiet : Nat
  picked : Option Pick
  flight : Option Flight
  yielding : Bool
  sequence : Seq
  reception : Option Reception
  rejectDriven : Bool
  deriving DecidableEq, Repr

/-- The Line Interface after hard reset (R128), on a recessive line (log 4). -/
def Lif.cleared : Lif :=
  { dominant := false, receiver := .off, transmitter := .silent, idle := 0, roundDone := false, quiet := 0, picked := none
    flight := none, yielding := false, sequence := 0, reception := none, rejectDriven := false }

/-! ### Line Standing, the Peer Roster and the Post Table (R142, R153, R161, R169) -/

/-- The standings of R142, in the order of their codes (R201). -/
inductive Standing where
  | engaged | reticent | withdrawn
  deriving DecidableEq, Repr

/-- The causes of R151, in the order of their codes (R201). -/
inductive StandingCause where
  | transmit | receive | recovery | rejoin | lifecycle
  deriving DecidableEq, Repr

/-- The lifecycle states of R153. -/
inductive Lifecycle where
  | unconfigured | configured | listening | online | conflict
  deriving DecidableEq, Repr

/-- The states of a roster entry (R161), in the order of their codes (R199). -/
inductive PeerState where
  | absent | present | lapsed | self
  deriving DecidableEq, Repr

/-- A roster entry (R161). The lapse timer is 0 when stopped. postRetry is the retry that may still come of a POST received clean
from this source, so that no POST is taken twice (R177; log 51). -/
structure RosterEntry where
  state : PeerState
  lastSequence : Option Seq
  postRetry : Option RxHeader
  period : Option Byte
  lapse : Clocks
  summary : Option Presence
  deriving DecidableEq, Repr

/-- A roster entry with nothing held (R168). -/
def RosterEntry.blank (state : PeerState) : RosterEntry :=
  { state, lastSequence := none, postRetry := none, period := none, lapse := 0, summary := none }

/-- The states of a Post Table entry (R169). -/
inductive PostState where
  | awaitingTake | taken
  deriving DecidableEq, Repr

/-- A Post Table entry (R169). frame is the identity of its POST while that is held in the Outbound Queue; the
answer timer is 0 when stopped. -/
structure PostEntry where
  dest : Station
  sequence : Seq
  tag : Byte
  state : PostState
  timer : Clocks
  frame : Option Nat
  deriving DecidableEq, Repr

/-! ### The Local Port (R182 to R192) -/

/-- The reasons of POST_LOST (R181), in the order of their codes (R201). -/
inductive LostReason where
  | unanswered | lapsed | withdrawn | left
  deriving DecidableEq, Repr

/-- The reasons of MARK_NOT_SENT (R51), in the order of their codes (R201). -/
inductive NotSentReason where
  | refused | notOnline | withdrawn | dropped
  deriving DecidableEq, Repr

/-- The ways a halt-list entry is cleared, in the order of their codes (R201). -/
inductive ClearedWay where
  | lift | presence | dismissed
  deriving DecidableEq, Repr

/-- The notices of chapter 11, in the order of their kinds (R201). -/
inductive Notice where
  | segmentRetired (tag : Byte) (origin : Origin) (outcome : Retirement) (position : Position)
  | postRefused (dest : Station) (sequence : Seq) (tag : Byte) (reason : RefusalReason)
  | postFinished (dest : Station) (sequence : Seq) (tag : Byte) (outcome : Retirement)
  | postLost (dest : Station) (sequence : Seq) (tag : Byte) (reason : LostReason)
  | lateAnswer (source : Station) (sequence : Seq) (kind : BitVec 2) (tag : Byte)
  | answerDropped (tag : Byte) (station : Station) (sequence : Seq) (kind : AnswerKind)
  | peerJoined (station : Station) (kind : FrameKind)
  | peerLapsed (station : Station) (time : Nat)
  | peerReturned (station : Station) (kind : FrameKind)
  | haltEntered (source : Station) (reason : Byte) (kind : StopKind) (learned : Learned)
  | haltCleared (source : Station) (way : ClearedWay)
  | fault (cause : Cause) (position : Position)
  | stoppedByReaction (entry : Fin 24) (source : Station) (mark : Mark)
  | standingChanged (before after : Standing) (score : Nat) (cause : StandingCause)
  | frameAbandoned (kind : FrameKind) (dest : Dest) (sequence : Seq) (echo : Bool)
  | markNotSent (mark : Mark) (reason : NotSentReason) (origin : EmitOrigin) (index : Byte)
  | watchHit (watch : Fin 4) (headTag : Option Byte)
  | captureTaken (slot : Fin 4) (trigger : Trigger)
  | conflict (kind : FrameKind) (sequence : Seq) (lifecycle : Lifecycle) (standing : Standing)
  deriving DecidableEq, Repr

/-- The transaction in progress and the malformed flag (R182 to R184). status and result are what SDO returns. -/
structure Port where
  selected : Bool
  taken : Bool
  status : Byte
  result : List Byte
  malformed : Bool
  deriving DecidableEq, Repr

/-- The Local Port after hard reset (R193). -/
def Port.cleared : Port :=
  { selected := false, taken := false, status := 0, result := [], malformed := false }

/-! ### The whole state -/

/-- The state of the part. -/
structure State where
  config : ConfigBlock
  station : Station
  bitRate : BitRate
  lifecycle : Lifecycle
  listenTimer : Clocks
  presenceTimer : Clocks
  roster : List RosterEntry
  queue : List Entry
  axis : Axis
  command : Position
  measured : Position
  encA : Bool
  encB : Bool
  watches : List Watch
  captures : List Capture
  reactions : List Reaction
  emissions : List Emission
  inputs : Inputs
  faults : FaultSet
  ownHalt : OwnHalt
  halts : List (Option HaltEntry)
  lif : Lif
  outbound : List OutFrame
  nextFrame : Nat
  score : Nat
  standing : Standing
  recovery : Nat
  posts : List PostEntry
  /-- The POSTs handed on to the Segment Queue and not yet taken, oldest first (R7, R176; log 50). -/
  posted : List HandedPost
  port : Port
  notices : List Notice
  lost : Nat
  bitPhase : Nat
  /-- The model's own: the Outbound Queue has closed in this period of the clock (R132; log 47). -/
  closing : Bool
  /-- The commands that wait, first in, first out. -/
  pending : List Instr
  /-- The model's own: events handed and not yet taken (log 5). -/
  handed : Handed
  /-- The model's own: how many free values have been used (log 9). -/
  free : Nat
  deriving DecidableEq, Repr

/-- The Profile Generator after hard reset (R48), its outputs in the default pulse mode (R187). -/
def Axis.cleared : Axis :=
  { state := .idle, speed := 0, dir := .plus, pulseMode := .stepDirection, remaining := 0, blend := none
    committed := false, braking := .none, brakeRate := 0, found := false, dwellTimer := 0, pulseTimer := 0
    pulseOut := none }

/-- Three samples of a low input, the preset of R82. -/
def Samples.low : Samples := { newest := false, middle := false, oldest := false }

/-- The preset of the seven inputs (R82). -/
def Inputs.low : Inputs :=
  { home := .low, limp := .low, limn := .low, estop := .low, drvflt := .low, in0 := .low, in1 := .low }

/-- The roster with nothing heard and the Self entry at the own number (R161, R168). -/
def rosterOf (station : Station) : List RosterEntry :=
  (List.range 32).map (fun n => RosterEntry.blank (if n = station.val then .self else .absent))

/-- The part right after a hard reset with all straps low (log 3): station 0 at 125 kbit/s, Unconfigured,
every block at its hard-reset value (R21, R48, R56, R69, R81, R104, R105, R128, R141, R152, R168, R180, R193). -/
def State.reset : State :=
  { config := .default, station := 0, bitRate := .k125, lifecycle := .unconfigured
    listenTimer := 0, presenceTimer := 0, roster := rosterOf 0, queue := [], axis := .cleared
    command := 0, measured := 0, encA := false, encB := false
    watches := List.replicate 4 .cleared, captures := List.replicate 4 .cleared
    reactions := List.replicate 24 .cleared, emissions := [], inputs := .low, faults := .empty
    ownHalt := .clear, halts := List.replicate 32 none, lif := .cleared, outbound := [], nextFrame := 0
    score := 0, standing := .engaged, recovery := 0, posts := [], posted := [], port := .cleared, notices := [], lost := 0
    bitPhase := 0, closing := false, pending := [], handed := .empty, free := 0 }

/-! ### How a step could stop -/

/-- The faults of the part: none. The spec gives no command on which the part stops; what it calls a fault is a cause
in the fault set (R83) or a faulty frame (R121), and both are next states. The type is empty, so every claim that a
step does not fault is true by the type alone. Nothing raises it. -/
inductive Fault where
  deriving DecidableEq, Repr

/-- The refusals of the model. -/
inductive Refusal where
  /-- A command whose meaning is not written yet; raised by the arm of exec that names it. Safe: the model stops where
  the part goes on. No arm raises it now. -/
  | notModelled (mnemonic : String)
  deriving DecidableEq, Repr

end Sys2Proof.Machine
end

