-- ==== Sys2Proof/Machine/Operands.lean ====
section
/-! DEFINITION. Operand forms: the byte layouts of chapter 12 read and written. A reader answers none where the
layout gives a value no meaning (R198, R200). -/

namespace Sys2Proof.Machine

/-! ### Bytes and words (R194) -/

/-- Byte k of a word, byte 0 the least significant. -/
def byteOf {w : Nat} (x : BitVec w) (k : Nat) : Byte := x.extractLsb' (8 * k) 8

/-- The n bytes of a word, least significant first. -/
def bytesOf (n : Nat) {w : Nat} (x : BitVec w) : List Byte := (List.range n).map (byteOf x)

/-- The number that bytes spell, least significant first. -/
def natOfBytes : List Byte → Nat
  | [] => 0
  | b :: bs => b.toNat + 256 * natOfBytes bs

/-- The word that n bytes from place k on spell, least significant first. -/
def wordAt (w : Nat) (bytes : List Byte) (k n : Nat) : BitVec w :=
  BitVec.ofNat w (natOfBytes ((bytes.drop k).take n))

/-- The byte at place k, 0 beyond the end. -/
def byteAt (bytes : List Byte) (k : Nat) : Byte := bytes.getD k 0

/-- The n bits of a byte from bit k on, as a number. -/
def field (b : Byte) (k n : Nat) : Nat := (b.toNat >>> k) % 2 ^ n

/-- One bit of a byte. -/
def bit (b : Byte) (k : Nat) : Bool := b.getLsbD k

/-- A number below k. -/
def toFin? (k n : Nat) : Option (Fin k) := if h : n < k then some ⟨n, h⟩ else none

/-- A flag as a byte. The spec gives the flags of the result data and of WATCH_HIT (valid, missed, overflow, tag present,
summary held) no codes: the model writes 1 for set and 0 for clear (log 41). -/
def byteOfBool (b : Bool) : Byte := if b then 1 else 0

/-- A Bool as bit k of a byte. -/
def bitByte (b : Bool) (k : Nat) : Byte := if b then 1#8 <<< k else 0

/-- A flag byte: 0 or 1 (R200). -/
def boolOfByte (b : Byte) : Option Bool :=
  if b = 0 then some false else if b = 1 then some true else none

/-! ### Codes (R195, R197, R199, R201, R202) -/

/-- Input codes (R197). -/
def inputOfCode : Nat → Option Input
  | 0 => some .home | 1 => some .limp | 2 => some .limn | 3 => some .estop | 4 => some .drvflt
  | 5 => some .in0 | 6 => some .in1 | _ => none

/-- The code of an input (R197). -/
def inputCode : Input → Nat
  | .home => 0 | .limp => 1 | .limn => 2 | .estop => 3 | .drvflt => 4 | .in0 => 5 | .in1 => 6

/-- All inputs, by ascending code. -/
def allInputs : List Input := [.home, .limp, .limn, .estop, .drvflt, .in0, .in1]

/-- The inputs an Input gate or a SEEK may name (R5). -/
def gateableInput : Input → Bool
  | .estop | .drvflt => false
  | _ => true

/-- Stop kind codes: 0 Decelerating, 1 Immediate (R195). -/
def StopKind.code : StopKind → Byte
  | .decelerating => 0 | .immediate => 1

/-- The stop kind of a bit. -/
def StopKind.ofBit (immediate : Bool) : StopKind := if immediate then .immediate else .decelerating

/-- The stop kind of an argument byte (R95). -/
def StopKind.ofByte (b : Byte) : Option StopKind := (boolOfByte b).map .ofBit

/-- Axis state codes (R195). -/
def AxisState.code : AxisState → BitVec 3
  | .idle => 0 | .gated => 1 | .rampUp => 2 | .cruise => 3 | .rampDown => 4 | .dwell => 5 | .braking => 6

/-- Direction codes (R197, R199). -/
def Dir.code : Dir → Byte
  | .plus => 0 | .minus => 1

/-- The direction of a bit (R197). -/
def Dir.ofBit (minus : Bool) : Dir := if minus then .minus else .plus

/-- Outcome codes (R202). -/
def Retirement.code : Retirement → Byte
  | .completed => 0 | .cut => 1 | .stopped => 2 | .flushed => 3

/-- The outcome of a code (R202). -/
def Retirement.ofCode : Nat → Option Retirement
  | 0 => some .completed | 1 => some .cut | 2 => some .stopped | 3 => some .flushed | _ => none

/-- Refusal reason codes (R202). -/
def RefusalReason.code : RefusalReason → Byte
  | .notPermitted => 1 | .state => 2 | .halted => 3 | .full => 4 | .invalid => 5

/-- The refusal reason of a code (R202). -/
def RefusalReason.ofCode : Nat → Option RefusalReason
  | 1 => some .notPermitted | 2 => some .state | 3 => some .halted | 4 => some .full | 5 => some .invalid
  | _ => none

/-- Cause codes (R202). -/
def Cause.code : Cause → Byte
  | .estop => 1 | .drvflt => 2 | .followingGap => 3 | .limitPlus => 4 | .limitMinus => 5 | .softPlus => 6
  | .softMinus => 7

/-- Frame kind codes (R195). -/
def FrameKind.code : FrameKind → Byte
  | .halt => 0 | .lift => 1 | .mark => 2 | .answer => 3 | .post => 4 | .presence => 5

/-- The frame kind of a code; 6 and 7 are unused (R195). -/
def FrameKind.ofCode : Nat → Option FrameKind
  | 0 => some .halt | 1 => some .lift | 2 => some .mark | 3 => some .answer | 4 => some .post
  | 5 => some .presence | _ => none

/-- The class of a frame kind (R107). -/
def FrameKind.cls : FrameKind → Nat
  | .halt | .lift => 0
  | .mark | .answer => 1
  | .post => 2
  | .presence => 3

/-- Answer kind codes (R195). -/
def AnswerKind.code : AnswerKind → Byte
  | .taken => 0 | .refused _ => 1 | .finished _ => 2

/-- Standing codes (R201). -/
def Standing.code : Standing → Byte
  | .engaged => 0 | .reticent => 1 | .withdrawn => 2

/-- The codes of the causes of STANDING_CHANGED (R201). -/
def StandingCause.code : StandingCause → Byte
  | .transmit => 0 | .receive => 1 | .recovery => 2 | .rejoin => 3 | .lifecycle => 4

/-- Roster state codes (R199). -/
def PeerState.code : PeerState → Byte
  | .absent => 0 | .present => 1 | .lapsed => 2 | .self => 3

/-- Watch state codes (R199). -/
def WatchState.code : WatchState → Byte
  | .off => 0 | .armed => 1 | .hit => 2

/-- Learned codes (R199). -/
def Learned.code : Learned → Byte
  | .frame => 0 | .presence => 1

/-- POST_LOST reason codes (R201). -/
def LostReason.code : LostReason → Byte
  | .unanswered => 0 | .lapsed => 1 | .withdrawn => 2 | .left => 3

/-- MARK_NOT_SENT reason codes (R201). -/
def NotSentReason.code : NotSentReason → Byte
  | .refused => 0 | .notOnline => 1 | .withdrawn => 2 | .dropped => 3

/-- The codes of an emission's origin (R201). -/
def EmitOrigin.code : EmitOrigin → Byte
  | .start => 0 | .finish => 1 | .watch => 2 | .reaction => 3 | .command => 4

/-- HALT_CLEARED way codes (R201). -/
def ClearedWay.code : ClearedWay → Byte
  | .lift => 0 | .presence => 1 | .dismissed => 2

/-- Capture set-up codes (R199). -/
def CaptureSetup.code : CaptureSetup → Byte
  | .none => 0 | .in0Rising => 1 | .in0Falling => 2 | .in1Rising => 3 | .in1Falling => 4

/-- The capture set-up of a code (R199). -/
def CaptureSetup.ofCode : Nat → Option CaptureSetup
  | 0 => some .none | 1 => some .in0Rising | 2 => some .in0Falling | 3 => some .in1Rising
  | 4 => some .in1Falling | _ => Option.none

/-- The trigger byte (R199). -/
def Trigger.code : Trigger → Byte
  | .none => 0xFF
  | .reaction e => BitVec.ofNat 8 e.val
  | .edge c => 0x80 + c.code

/-- A destination as the header and the notices carry it: a station, or 63 (R107, R201). -/
def Dest.code : Dest → Byte
  | .broadcast => 63
  | .station n => BitVec.ofNat 8 n.val

/-- The bit rate of the straps BR1, BR0 (R199). -/
def BitRate.ofStraps (br : BitVec 2) : BitRate :=
  if br = 0 then .k125 else if br = 1 then .k250 else if br = 2 then .k500 else .k1000

/-- Clock periods of one bit time (R106). -/
def BitRate.periods : BitRate → Nat
  | .k125 => 128 | .k250 => 64 | .k500 => 32 | .k1000 => 16

/-! ### Segments (R197, R198) -/

/-- A mark byte: bit 7 present, bits 0 to 6 the number, which is 0 when absent (R197, R198). -/
def markOfByte (b : Byte) : Option (Option Mark) :=
  if bit b 7 then (toFin? 64 (field b 0 7)).map some
  else if field b 0 7 = 0 then some none else none

/-- The gate of byte 2 of a segment (R197, R198). -/
def gateOfByte (b : Byte) : Option Gate :=
  let p := field b 3 5
  match field b 1 2 with
  | 0 => if p = 0 then some .absent else none
  | 1 => (toFin? 24 p).map .tally
  | 2 => (toFin? 4 p).map .watch
  | _ =>
    if p < 16 then
      match inputOfCode (p % 8) with
      | some i => if gateableInput i then some (.input i (p < 8)) else none
      | none => none
    else none

/-- The speed fields from place k on (R197, R198). -/
def rampAt (bytes : List Byte) (k : Nat) : Option Ramp :=
  let top := natOfBytes ((bytes.drop k).take 3)
  let accel := natOfBytes ((bytes.drop (k + 3)).take 2)
  let decel := natOfBytes ((bytes.drop (k + 5)).take 2)
  if 1 ≤ top ∧ top ≤ 4000000 ∧ 1 ≤ accel then some { top, accel, decel } else none

/-- The declared length of a segment's bytes (R197). -/
def declaredLength (bytes : List Byte) : Nat := field (byteAt bytes 0) 0 5

/-- How many segment bytes the port takes: the declared length, or 16 when that lies outside 4..16 (R182). -/
def takenLength (bytes : List Byte) : Nat :=
  let n := declaredLength bytes
  if 4 ≤ n ∧ n ≤ 16 then n else 16

/-- The declared length of each kind code (R197). -/
def lengthOfKind : Nat → Option Nat
  | 0 | 1 => some 16
  | 2 | 3 => some 13
  | 4 => some 7
  | 5 => some 9
  | _ => none

/-- The kind-dependent bytes of a segment (R197, R198). -/
def bodyOfBytes (kind : Nat) (bytes : List Byte) : Option SegmentBody :=
  let b5 := byteAt bytes 5
  let w := wordAt 32 bytes 5 4
  match kind with
  | 0 => if w = 0 ∨ w = 0x80000000 then none else (rampAt bytes 9).map (.moveRel w)
  | 1 => (rampAt bytes 9).map (.moveAbs w)
  | 2 => if field b5 1 7 = 0 then (rampAt bytes 6).map (.run (.ofBit (bit b5 0))) else none
  | 3 =>
    if field b5 6 2 = 0 then
      match inputOfCode (field b5 1 3) with
      | some i =>
        if gateableInput i then
          (rampAt bytes 6).map (.seek (.ofBit (bit b5 0)) i (bit b5 4) (.ofBit (bit b5 5)))
        else none
      | none => none
    else none
  | 4 =>
    let t := natOfBytes ((bytes.drop 5).take 2)
    if t = 0 then none else some (.dwell t)
  | 5 => some (.setpos w)
  | _ => none

/-- Whether a kind may carry the chain flag (R2). -/
def SegmentBody.mayChain : SegmentBody → Bool
  | .moveRel .. | .moveAbs .. | .run .. => true
  | _ => false

/-- The segment that bytes spell, or none where R198 or R5 makes it invalid. The bytes are all the sender gave, so
a POST whose frame length differs from the declared length is invalid here. -/
def segmentOfBytes (bytes : List Byte) : Option Segment := do
  let kind := field (byteAt bytes 0) 5 3
  let n ← lengthOfKind kind
  if declaredLength bytes = n ∧ bytes.length = n then
    let gate ← gateOfByte (byteAt bytes 2)
    let startMark ← markOfByte (byteAt bytes 3)
    let endMark ← markOfByte (byteAt bytes 4)
    let body ← bodyOfBytes kind bytes
    let chain := bit (byteAt bytes 2) 0
    if chain && !body.mayChain then none
    else some { tag := byteAt bytes 1, chain, gate, startMark, endMark, body }
  else none

/-! ### Segments written (R197) -/

/-- The gate in byte 2 of a segment (R197). -/
def Gate.bits : Gate → Byte
  | .absent => 0
  | .tally e => 2 ||| (BitVec.ofNat 8 e.val <<< 3)
  | .watch w => 4 ||| (BitVec.ofNat 8 w.val <<< 3)
  | .input i active => 6 ||| (BitVec.ofNat 8 (inputCode i) <<< 3) ||| bitByte (!active) 6

/-- A mark byte (R197). -/
def markByte : Option Mark → Byte
  | none => 0
  | some m => 0x80#8 ||| BitVec.ofNat 8 m.val

/-- The seven bytes of the speed fields (R197). -/
def Ramp.bytes (r : Ramp) : List Byte :=
  bytesOf 3 (BitVec.ofNat 24 r.top) ++ bytesOf 2 (BitVec.ofNat 16 r.accel) ++ bytesOf 2 (BitVec.ofNat 16 r.decel)

/-- The kind code of a segment (R197). -/
def SegmentBody.kindCode : SegmentBody → Byte
  | .moveRel .. => 0 | .moveAbs .. => 1 | .run .. => 2 | .seek .. => 3 | .dwell .. => 4 | .setpos .. => 5

/-- The bytes from 5 on, by kind (R197). -/
def SegmentBody.bytes : SegmentBody → List Byte
  | .moveRel w r | .moveAbs w r => bytesOf 4 w ++ r.bytes
  | .run d r => d.code :: r.bytes
  | .seek d i zero k r =>
    (d.code ||| (BitVec.ofNat 8 (inputCode i) <<< 1) ||| bitByte zero 4 ||| (k.code <<< 5)) :: r.bytes
  | .dwell t => bytesOf 2 (BitVec.ofNat 16 t)
  | .setpos w => bytesOf 4 w

/-- The bytes of a segment (R197). -/
def Segment.bytes (g : Segment) : List Byte :=
  [BitVec.ofNat 8 (5 + g.body.bytes.length) ||| (g.body.kindCode <<< 5), g.tag, g.gate.bits ||| bitByte g.chain 0,
   markByte g.startMark, markByte g.endMark] ++ g.body.bytes

/-! ### Field checks (R5, R6) -/

/-- R6: a MOVE_ABS target outside enabled software limits makes an append invalid. -/
def targetAllowed (c : ConfigBlock) (g : Segment) : Bool :=
  match g.body with
  | .moveAbs target _ => !c.softEnabled || (c.softMin.sle target && target.sle c.softMax)
  | _ => true

/-- An append's field check, R5 and R6: the segment, when every field is valid. -/
def validSegment (c : ConfigBlock) (bytes : List Byte) : Option Segment :=
  match segmentOfBytes bytes with
  | some g => if targetAllowed c g then some g else none
  | none => none

/-! ### The configuration block (R187, R199) -/

/-- The block that 23 bytes spell, or none where a field lies outside its range or has no meaning (R188, R200). -/
def configOfBytes (bytes : List Byte) : Option ConfigBlock :=
  let flags := byteAt bytes 10
  let encoder : Option EncoderMode :=
    match field flags 1 2 with
    | 0 => some .off | 1 => some .quadrature | 2 => some .upDown | _ => none
  let c : Option ConfigBlock := encoder.map fun e =>
    { presencePeriod := byteAt bytes 0, answerWindow := byteAt bytes 1, postMask := wordAt 32 bytes 2 4
      baseSpeed := wordAt 16 bytes 6 2, stopRate := wordAt 16 bytes 8 2
      pulseMode := if bit flags 0 then .cwCcw else .stepDirection
      encoder := e, hardStop := .ofBit (bit flags 3), softStop := .ofBit (bit flags 4)
      softEnabled := bit flags 5, autoRejoin := bit flags 6, gapLimit := wordAt 16 bytes 11 2
      softMin := wordAt 32 bytes 13 4, softMax := wordAt 32 bytes 17 4
      activeHigh := (byteAt bytes 21).truncate 7, propagate := (byteAt bytes 22).truncate 3 }
  match c with
  | none => none
  | some c =>
    if bytes.length = 23 ∧ bit flags 7 = false ∧ 2 ≤ c.presencePeriod.toNat ∧ 1 ≤ c.answerWindow.toNat ∧
        1 ≤ c.baseSpeed.toNat ∧ 1 ≤ c.stopRate.toNat ∧ bit (byteAt bytes 21) 7 = false ∧
        field (byteAt bytes 22) 3 5 = 0 ∧ (c.softEnabled = true → c.softMin.sle c.softMax = true)
    then some c else none

/-- The code of an encoder mode (R199). -/
def EncoderMode.code : EncoderMode → Byte
  | .off => 0 | .quadrature => 1 | .upDown => 2

/-- Byte 10 of the block (R199). -/
def ConfigBlock.flags (c : ConfigBlock) : Byte :=
  bitByte (c.pulseMode = .cwCcw) 0 ||| (c.encoder.code <<< 1) ||| bitByte (c.hardStop = .immediate) 3 |||
    bitByte (c.softStop = .immediate) 4 ||| bitByte c.softEnabled 5 ||| bitByte c.autoRejoin 6

/-- The 23 bytes of the block (R199). -/
def ConfigBlock.bytes (c : ConfigBlock) : List Byte :=
  [c.presencePeriod, c.answerWindow] ++ bytesOf 4 c.postMask ++ bytesOf 2 c.baseSpeed ++ bytesOf 2 c.stopRate ++
    [c.flags] ++ bytesOf 2 c.gapLimit ++ bytesOf 4 c.softMin ++ bytesOf 4 c.softMax ++
    [c.activeHigh.zeroExtend 8, c.propagate.zeroExtend 8]

/-! ### Own frames on the line (R107, R126, R195) -/

/-- The four bytes of a PRESENCE (R195). -/
def Presence.bytes (p : Presence) : List Byte :=
  [p.period,
   p.axis.zeroExtend 8 ||| bitByte p.reticent 3 ||| bitByte p.haltRaised 4 ||| bitByte p.faults 5 |||
     bitByte p.halts 6,
   p.depth, p.reason]

/-- The bytes of a mark's payload (R195). -/
def markBytes (m : Mark) : Option Position → List Byte
  | none => [BitVec.ofNat 8 m.val]
  | some p => (BitVec.ofNat 8 m.val ||| 0x40#8) :: bytesOf 4 p

/-- Byte 1 of an ANSWER (R195). -/
def AnswerKind.detail : AnswerKind → Byte
  | .taken => 0 | .refused r => r.code | .finished o => o.code

/-- The kind of a payload. -/
def Payload.kind : Payload → FrameKind
  | .halt .. => .halt
  | .lift => .lift
  | .mark .. => .mark
  | .answer .. => .answer
  | .post .. => .post
  | .presence .. => .presence

/-- The payload bytes (R195). -/
def Payload.bytes : Payload → List Byte
  | .halt reason kind => [reason, kind.code]
  | .lift => []
  | .mark m stamp => markBytes m stamp
  | .answer q kind tag => [BitVec.ofNat 8 q.val ||| (kind.code <<< 4), kind.detail, tag]
  | .post segment => segment
  | .presence p => p.bytes

/-- The class of a frame record (R129). -/
def OutFrame.cls (f : OutFrame) : Nat := f.payload.kind.cls

/-- The retry flag of a frame's next attempt: clear in the first (R107, R129). -/
def OutFrame.retry (f : OutFrame) : Bool := f.attempts != 0

/-- The three header characters (R195). -/
def headerBytes (source : Station) (f : OutFrame) : List Byte :=
  let len := f.payload.bytes.length
  [f.payload.kind.code ||| (BitVec.ofNat 8 source.val <<< 3),
   f.dest.code ||| bitByte f.retry 6 ||| bitByte (16 ≤ len) 7,
   BitVec.ofNat 8 f.sequence.val ||| (BitVec.ofNat 8 (len % 16) <<< 4)]

/-- One bit into the check register (R126, step 3). -/
def crcBit (r : BitVec 16) (b : Bool) : BitVec 16 :=
  if r.msb = b then r <<< 1 else (r <<< 1) ^^^ 0x1021#16

/-- One character into the check register, most significant bit first (R126, step 2). -/
def crcByte (r : BitVec 16) (c : Byte) : BitVec 16 :=
  [7, 6, 5, 4, 3, 2, 1, 0].foldl (fun r k => crcBit r (c.getLsbD k)) r

/-- The check of characters (R126). -/
def crc16 (chars : List Byte) : BitVec 16 := chars.foldl crcByte 0xFFFF#16

/-- The two check characters, high byte first (R126). -/
def checkBytes (chars : List Byte) : List Byte := [byteOf (crc16 chars) 1, byteOf (crc16 chars) 0]

/-- The characters of a frame's next attempt, header to check (R107, R119). -/
def frameChars (source : Station) (f : OutFrame) : List Byte :=
  let body := headerBytes source f ++ f.payload.bytes
  body ++ checkBytes body

/-! ### Received frames (R121, R195, R196) -/

/-- The length field of a header (R195). -/
def headerLength (chars : List Byte) : Nat :=
  field (byteAt chars 2) 4 4 + if bit (byteAt chars 1) 7 then 16 else 0

/-- The payload lengths allowed for a kind (R107). -/
def lengthAllowed : FrameKind → Nat → Bool
  | .halt, n => n == 2
  | .lift, n => n == 0
  | .mark, n => n == 1 || n == 5
  | .answer, n => n == 3
  | .post, n => decide (4 ≤ n ∧ n ≤ 16)
  | .presence, n => n == 4

/-- Whether the destination field suits the kind: 63 for HALT, LIFT, MARK and PRESENCE, another station than the source
for ANSWER and POST (R121). -/
def destAllowed (k : FrameKind) (source dest : Nat) : Bool :=
  match k with
  | .answer | .post => decide (dest < 32 ∧ dest ≠ source)
  | _ => dest == 63

/-- The error kinds of R121 other than truncation while the line is recessive. -/
inductive RxError where
  | framing | noise | truncation | check | form
  deriving DecidableEq, Repr

/-- Form of R121: kind, length and destination of the header as received. -/
def formOk (chars : List Byte) : Bool :=
  match FrameKind.ofCode (field (byteAt chars 0) 0 3) with
  | none => false
  | some k =>
    lengthAllowed k (headerLength chars) &&
      destAllowed k (field (byteAt chars 0) 3 5) (field (byteAt chars 1) 0 6)

/-- Check of R121: the check characters against the header and payload received (R126). -/
def checkOk (chars : List Byte) : Bool :=
  let n := 3 + headerLength chars
  chars.drop n == checkBytes (chars.take n)

/-- Every error of R121 found in a followed frame. A list of characters shorter or longer than the declared frame is
one that never reached its declared end. -/
def rxErrors (f : RxFrame) : List RxError :=
  (if f.framing then [.framing] else []) ++ (if f.noise then [.noise] else []) ++
    (if f.chars.length = 5 + headerLength f.chars then [] else [.truncation]) ++
    (if checkOk f.chars then [] else [.check]) ++ (if formOk f.chars then [] else [.form])

/-- A frame that passes every check is clean; any other is faulty, once (R121). -/
def rxClean (f : RxFrame) : Bool := (rxErrors f).isEmpty

/-- The header of a clean frame (R195). -/
def rxHeader (f : RxFrame) : Option RxHeader := do
  let k ← FrameKind.ofCode (field (byteAt f.chars 0) 0 3)
  let source ← toFin? 32 (field (byteAt f.chars 0) 3 5)
  let sequence ← toFin? 16 (field (byteAt f.chars 2) 0 4)
  let d := field (byteAt f.chars 1) 0 6
  let dest := match toFin? 32 d with
    | some n => Dest.station n
    | none => .broadcast
  some { kind := k, source, dest, retry := bit (byteAt f.chars 1) 6, sequence, payload := (f.chars.drop 3).take (headerLength f.chars) }

/-- The stop kind of a received HALT: any value but 0 is Immediate (R99, R196). -/
def rxStopKind (b : Byte) : StopKind := if b = 0 then .decelerating else .immediate

/-- The mark number and stamp of a received MARK; the length decides whether there is a stamp (R196). -/
def rxMark (payload : List Byte) : Option (Mark × Option Position) :=
  (toFin? 64 (field (byteAt payload 0) 0 6)).map fun m =>
    (m, if payload.length = 5 then some (wordAt 32 payload 1 4) else none)

/-- The summary of a received PRESENCE (R163, R196, R203): a period of 0 or 1 is taken as 2, and the reason is not read
while the halt-raised flag is clear. (Log 13.) -/
def rxPresence (payload : List Byte) : Presence :=
  let b := byteAt payload 1
  { period := if (byteAt payload 0).toNat < 2 then 2 else byteAt payload 0
    axis := b.truncate 3, reticent := bit b 3, haltRaised := bit b 4, faults := bit b 5, halts := bit b 6
    depth := byteAt payload 2, reason := if bit b 4 then byteAt payload 3 else 0 }

/-- What a received ANSWER says, or none where its kind, reason or outcome has no meaning (R196). -/
def rxAnswer (payload : List Byte) : Option AnswerKind :=
  match field (byteAt payload 0) 4 2 with
  | 0 => some .taken
  | 1 => (RefusalReason.ofCode (byteAt payload 1).toNat).map .refused
  | 2 => (Retirement.ofCode (byteAt payload 1).toNat).map .finished
  | _ => none

/-! ### Table commands (R199, R200) -/

/-- The action and parameter of SET_REACTION (R65, R200). -/
def actionOfBytes (action parameter : Byte) : Option Action :=
  match action.toNat with
  | 0 => if parameter = 0 then some .tally else none
  | 1 => if parameter = 0 then some .cut else none
  | 2 => (toFin? 4 parameter.toNat).map .capture
  | 3 => (toFin? 64 parameter.toNat).map .emit
  | 4 => if parameter = 0 then some .stopLocal else none
  | _ => none

/-- The source of SET_REACTION: 0..31, or 32 for Any (R199). -/
def reactionSource (b : Byte) : Option (Option Station) :=
  if b = 32 then some none else (toFin? 32 b.toNat).map some

/-- The entry that SET_REACTION writes: in use and Armed with tally 0 (R65). -/
def reactionOfBytes (source mark action parameter mode : Byte) : Option Reaction := do
  let source ← reactionSource source
  let mark ← toFin? 64 mark.toNat
  let action ← actionOfBytes action parameter
  let every ← boolOfByte mode
  some { inUse := true, source, mark, action, once := !every, spent := false, tally := 0, overflow := false }

/-- The source of SET_WATCH (R199). -/
def watchSourceOf (b : Byte) : Option WatchSource :=
  (boolOfByte b).map fun m => if m then .measured else .command

/-- The condition of SET_WATCH (R199). -/
def watchConditionOf (b : Byte) : Option WatchCondition :=
  match b.toNat with
  | 0 => some .atOrAbove | 1 => some .below | 2 => some .crossUp | 3 => some .crossDown | _ => none

/-- The mark of SET_WATCH; with enable Off its byte is not judged (R200), and one that names no mark is kept as
absent. (Log 32.) -/
def watchMarkOf (arm : Bool) (b : Byte) : Option (Option Mark) :=
  match markOfByte b with
  | some m => some m
  | none => if arm then none else some none

/-- The record that SET_WATCH writes, before arming, with whether it arms (R74). R199 lists no codes for the cut-on-hit
byte: 0 is clear, 1 set, and every other value is taken as one without a meaning (log 41). -/
def watchOfBytes (enable source condition : Byte) (value : Position) (mark cut : Byte) : Option (Watch × Bool) := do
  let arm ← boolOfByte enable
  let source ← watchSourceOf source
  let condition ← watchConditionOf condition
  let mark ← watchMarkOf arm mark
  let cutOnHit ← boolOfByte cut
  some ({ source, condition, value, mark, cutOnHit, state := .off, previous := 0 }, arm)

/-- The stamp choice of EMIT_MARK (R55). -/
def stampOf (choice : Byte) (command value : Position) : Option (Option Position) :=
  match choice.toNat with
  | 0 => some none
  | 1 => some (some command)
  | 2 => some (some value)
  | _ => none

/-! ### Result codes (R199) -/

/-- The result codes of R185. -/
inductive ResultCode where
  | ok | state | full | invalid | absent | halted | unknown
  deriving DecidableEq, Repr

/-- The byte of a result code (R199). -/
def ResultCode.byte : ResultCode → Byte
  | .ok => 0 | .state => 1 | .full => 2 | .invalid => 3 | .absent => 4 | .halted => 5 | .unknown => 6

/-- The command codes of R199. -/
def commandCodes : List Byte :=
  [0x10, 0x11, 0x12, 0x13, 0x14, 0x20, 0x21, 0x22, 0x23, 0x24, 0x30, 0x31, 0x32, 0x40, 0x41, 0x42, 0x43,
   0x50, 0x51, 0x52, 0x60, 0x70, 0x71, 0x72, 0x73]

/-! ### Notice records (R201) -/

/-- A number as a byte. -/
def byteOfNat (n : Nat) : Byte := BitVec.ofNat 8 n

/-- A station as a byte (R194). -/
def stationByte (n : Station) : Byte := byteOfNat n.val

/-- The origin byte (R201). -/
def Origin.byte : Origin → Byte
  | .localPort => 0
  | .peer n _ => 0x80#8 ||| stationByte n

/-- The POST sequence bits of an origin (R201). For a Local origin, which has none, the model writes 0 (log 42). -/
def Origin.sequence : Origin → Nat
  | .localPort => 0
  | .peer _ q => q.val

/-- The line state code of the status byte (R199). -/
def lineStateCode (l : Lifecycle) (st : Standing) : Byte :=
  match l, st with
  | .unconfigured, _ => 0
  | .configured, _ => 1
  | .listening, .withdrawn => 3
  | .listening, _ => 2
  | .online, .engaged => 4
  | .online, .reticent => 5
  | .online, .withdrawn => 6
  | .conflict, .withdrawn => 8
  | .conflict, _ => 7

/-- A tag that may be absent, as the bytes tag present and tag (R199, R201). The tag byte of an absent one is not given:
the model writes 0 (log 42). -/
def tagBytes : Option Byte → List Byte
  | none => [0, 0]
  | some t => [1, t]

/-- The outcome bits of ANSWER_DROPPED (R201). For a Taken or Refused answer, which has no outcome, the model writes 0
(log 42). -/
def AnswerKind.outcomeBits : AnswerKind → Byte
  | .finished o => o.code <<< 4
  | _ => 0

/-- The kind byte and the four parameter bytes of a notice (R201). -/
def Notice.record : Notice → List Byte
  | .segmentRetired tag origin o _ =>
    [1, tag, origin.byte, o.code ||| (byteOfNat origin.sequence <<< 2), 0]
  | .postRefused d q tag r => [2, stationByte d, byteOfNat q.val, tag, r.code]
  | .postFinished d q tag o => [3, stationByte d, byteOfNat q.val, tag, o.code]
  | .postLost d q tag r => [4, stationByte d, byteOfNat q.val, tag, r.code]
  | .lateAnswer n q k tag => [5, stationByte n, byteOfNat q.val, k.zeroExtend 8, tag]
  | .answerDropped tag n q k => [6, tag, stationByte n, byteOfNat q.val, k.code ||| k.outcomeBits]
  | .peerJoined n k => [7, stationByte n, k.code, 0, 0]
  | .peerLapsed n t => [8, stationByte n, byteOfNat (t % 256), byteOfNat (t / 256), 0]
  | .peerReturned n k => [9, stationByte n, k.code, 0, 0]
  | .haltEntered n r k l => [10, stationByte n, r, k.code, l.code]
  | .haltCleared n w => [11, stationByte n, w.code, 0, 0]
  | .fault c _ => [12, c.code, 0, 0, 0]
  | .stoppedByReaction e n m => [13, byteOfNat e.val, stationByte n, byteOfNat m.val, 0]
  | .standingChanged b a sc c => [14, b.code, a.code, byteOfNat sc, c.code]
  | .frameAbandoned k d q e => [15, k.code, d.code, byteOfNat q.val, byteOfBool e]
  | .markNotSent m r o i => [16, byteOfNat m.val, r.code, o.code, i]
  | .watchHit w tag => [17, byteOfNat w.val] ++ tagBytes tag ++ [0]
  | .captureTaken n t => [18, byteOfNat n.val, t.code, 0, 0]
  | .conflict k q l st => [19, k.code, byteOfNat q.val, lineStateCode l st, 0]

/-- The position that READ_NOTICE returns with a notice (R201). -/
def Notice.position : Notice → Position
  | .segmentRetired _ _ _ p => p
  | .fault _ p => p
  | _ => 0

end Sys2Proof.Machine
end

