-- ==== Sys2Proof/Machine/Flags.lean ====
section
/-! DEFINITION. Flags and conditions computed from the state: the fault set, the input levels, the halts, the start
conditions, the status byte, the PRESENCE summary and the outputs. -/

namespace Sys2Proof.Machine

/-! ### The fault set (R83) -/

/-- Whether a cause is in the set. -/
def FaultSet.has (f : FaultSet) : Cause → Bool
  | .estop => f.estop
  | .drvflt => f.drvflt
  | .followingGap => f.followingGap
  | .limitPlus => f.limitPlus
  | .limitMinus => f.limitMinus
  | .softPlus => f.softPlus
  | .softMinus => f.softMinus

/-- The set with a cause in it or not. -/
def FaultSet.put (f : FaultSet) (c : Cause) (b : Bool) : FaultSet :=
  match c with
  | .estop => { f with estop := b }
  | .drvflt => { f with drvflt := b }
  | .followingGap => { f with followingGap := b }
  | .limitPlus => { f with limitPlus := b }
  | .limitMinus => { f with limitMinus := b }
  | .softPlus => { f with softPlus := b }
  | .softMinus => { f with softMinus := b }

/-- Whether the set holds any cause. -/
def FaultSet.nonempty (f : FaultSet) : Bool :=
  f.estop || f.drvflt || f.followingGap || f.limitPlus || f.limitMinus || f.softPlus || f.softMinus

/-- The fault set byte: bit n - 1 for the cause of code n (R199). -/
def FaultSet.byte (f : FaultSet) : Byte :=
  bitByte f.estop 0 ||| bitByte f.drvflt 1 ||| bitByte f.followingGap 2 ||| bitByte f.limitPlus 3 |||
    bitByte f.limitMinus 4 ||| bitByte f.softPlus 5 ||| bitByte f.softMinus 6

/-- Whether a cause is set in the propagate mask; only three causes have a flag there (R84, R199). -/
def propagates (c : ConfigBlock) : Cause → Bool
  | .estop => c.propagate.getLsbD 0
  | .drvflt => c.propagate.getLsbD 1
  | .followingGap => c.propagate.getLsbD 2
  | _ => false

/-- The first propagating cause the fault set holds, in the order ESTOP, DRVFLT, FOLLOWING_GAP (R96). -/
def State.propagatingCause (s : State) : Option Cause :=
  [Cause.estop, .drvflt, .followingGap].find? fun c => s.faults.has c && propagates s.config c

/-- The kind of stop a cause orders (R83). -/
def stopKindOf (c : ConfigBlock) : Cause → StopKind
  | .estop | .drvflt | .followingGap => .immediate
  | .limitPlus | .limitMinus => c.hardStop
  | .softPlus | .softMinus => c.softStop

/-! ### The level inputs (R82) -/

/-- The samples of one input. -/
def Inputs.get (v : Inputs) : Input → Samples
  | .home => v.home
  | .limp => v.limp
  | .limn => v.limn
  | .estop => v.estop
  | .drvflt => v.drvflt
  | .in0 => v.in0
  | .in1 => v.in1

/-- The inputs with new samples of one. -/
def Inputs.set (v : Inputs) (i : Input) (x : Samples) : Inputs :=
  match i with
  | .home => { v with home := x }
  | .limp => { v with limp := x }
  | .limn => { v with limn := x }
  | .estop => { v with estop := x }
  | .drvflt => { v with drvflt := x }
  | .in0 => { v with in0 := x }
  | .in1 => { v with in1 := x }

/-- The level that at least two of the three samples show (R82). -/
def Samples.level (x : Samples) : Bool :=
  (x.newest && x.middle) || (x.newest && x.oldest) || (x.middle && x.oldest)

/-- The samples after two successive samples of one level (R82; log 17). -/
def Samples.taken (x : Samples) (high : Bool) : Samples := { newest := high, middle := high, oldest := x.newest }

/-- The electrical level set as active for an input (R187, R199). -/
def activeLevel (c : ConfigBlock) (i : Input) : Bool := c.activeHigh.getLsbD (inputCode i)

/-- Whether an input is Active: its filtered level equals its active level (R82). -/
def State.inputActive (s : State) (i : Input) : Bool := (s.inputs.get i).level == activeLevel s.config i

/-- The hard limit input of a direction (R86). -/
def limitInput : Dir → Input
  | .plus => .limp
  | .minus => .limn

/-- The hard limit cause of a direction (R86). -/
def limitCause : Dir → Cause
  | .plus => .limitPlus
  | .minus => .limitMinus

/-- The software limit cause of a direction (R87). -/
def softCause : Dir → Cause
  | .plus => .softPlus
  | .minus => .softMinus

/-! ### Halts and start conditions -/

/-- Whether the halt list is nonempty (R98). -/
def State.haltListed (s : State) : Bool := s.halts.any Option.isSome

/-- The number of halt-list entries (R186). -/
def State.haltCount (s : State) : Nat := s.halts.countP Option.isSome

/-- The any-halt flag (R183). -/
def State.anyHalt (s : State) : Bool := s.ownHalt.raised || s.haltListed

/-- The condition of check 2 of R4: the fault set, the own halt or the halt list is nonempty. -/
def State.halted (s : State) : Bool := s.faults.nonempty || s.anyHalt

/-- The start conditions of R12. -/
def State.mayStart (s : State) : Bool := !s.halted && s.lifecycle == .online

/-- Whether the Outbound Queue is open and own frames are picked: Online and not Withdrawn (R113, R132). -/
def State.canSend (s : State) : Bool := s.lifecycle == .online && s.standing != .withdrawn

/-- Whether a gate is open, from the present value of what it names (R10). -/
def State.gateOpen (s : State) : Gate → Bool
  | .absent => true
  | .tally e => (s.reactions.getD e.val .cleared).tally != 0
  | .watch w => (s.watches.getD w.val .cleared).state == .hit
  | .input i active => s.inputActive i == active

/-! ### The queue and the axis -/

/-- The tag of the head, Waiting or Running (R3, R73). -/
def State.headTag (s : State) : Option Byte := s.queue.head?.map fun e => e.segment.tag

/-- The running head (R3, R9). -/
def State.runningHead (s : State) : Option Entry :=
  match s.queue with
  | e :: _ => if e.state = .running then some e else none
  | [] => none

/-- Whether an axis state is one of motion (R24, R25). -/
def AxisState.moving : AxisState → Bool
  | .rampUp | .cruise | .rampDown | .braking => true
  | _ => false

/-- Base speed in units of 1/65,536 pps (R26). -/
def State.baseUnits (s : State) : Nat := s.config.baseSpeed.toNat * 65536

/-! ### The Local Port's views -/

/-- The IRQ output, true when asserted low (R192). -/
def State.irq (s : State) : Bool := !s.notices.isEmpty

/-- The status byte (R183, R199). -/
def State.statusByte (s : State) : Byte :=
  lineStateCode s.lifecycle s.standing ||| bitByte s.irq 4 ||| bitByte s.faults.nonempty 5 |||
    bitByte s.anyHalt 6 ||| bitByte s.port.malformed 7

/-- The own-halt state byte (R199). -/
def State.ownHaltByte (s : State) : Byte :=
  bitByte s.ownHalt.raised 0 ||| bitByte (s.ownHalt.raised && decide (s.ownHalt.how = .command)) 1

/-- The PRESENCE fields formed from the present state (R166). The standing bit of a Withdrawn station is a free value
(log 11). -/
def State.summary (s : State) : Presence :=
  { period := s.config.presencePeriod
    axis := s.axis.state.code
    reticent :=
      match s.standing with
      | .engaged => false
      | .reticent => true
      | .withdrawn => Config.withdrawnStandingBit s.free
    haltRaised := s.ownHalt.raised
    faults := s.faults.nonempty
    halts := s.haltListed
    depth := byteOfNat s.queue.length
    reason := if s.ownHalt.raised then s.ownHalt.reason else 0 }

/-- Byte k that SDO returns in the transaction in progress, in which the command has so many argument bytes: the status
byte in the command byte, 0 in the argument bytes, then the result, and 0 beyond it. Released while SEL is high (R182), and
after a hard reset within a transaction until the next fall of SEL (R193; log 52). -/
def State.sdo (s : State) (arguments k : Nat) : Option Byte :=
  if s.port.selected then some (byteAt (s.port.status :: (List.replicate arguments 0 ++ s.port.result)) k) else none

/-- R182: whether the bytes that come in are a command's: SEL is low, and the transaction has taken none yet. -/
def State.awaitsCommand (s : State) : Bool := s.port.selected && !s.port.taken

/-- The level of DIR/CCW outside its pulses, true for high: the direction in step/direction mode, inactive in the other
(R25). The mode is that of the motion segment started latest (R189), and the direction stands from its start on. -/
def State.directionHigh (s : State) : Bool := s.axis.pulseMode == .stepDirection && s.axis.dir == .plus

/-! ### Timers -/

/-- Milliseconds in periods of the 16 MHz clock. -/
def ms (n : Nat) : Clocks := 16000 * n

/-- The lapse time of an entry in units of 10 ms: three times its period, or three times the own one (R161). -/
def State.lapseUnits (s : State) (e : RosterEntry) : Nat :=
  3 * (e.period.getD s.config.presencePeriod).toNat

/-- The lapse time of an entry in periods of the clock: what a refresh sets its lapse timer to (R162). -/
def State.lapseTime (s : State) (e : RosterEntry) : Clocks := ms (10 * s.lapseUnits e)

/-- What remains of a timer in units of 10 ms, rounded up (R167). -/
def tensLeft (t : Clocks) : Nat := (t + (ms 10 - 1)) / ms 10

/-! ### Standing (R142) -/

/-- The standing of an Online station that is not Withdrawn (R142, R145). -/
def standingFor (score : Nat) : Standing := if 96 ≤ score then .reticent else .engaged

end Sys2Proof.Machine
end

