-- ==== Sys2Proof/Machine/Ops.lean ====
section
/-! DEFINITION. The shared operations of the blocks: notices, admission and departure of frames, picks, the halt
announcement, emission requests, retirement and flushing, stops, entry into the fault set, the standing and the
emptying of the Outbound Queue up to the events it hands on. Each is one operation of the spec, State to State. -/

namespace Sys2Proof.Machine

/-! ### Notices and results -/

/-- R190: a notice joins the tail, or is dropped and counted when 16 are held. -/
def notify (n : Notice) (s : State) : State :=
  if s.notices.length < 16 then { s with notices := s.notices ++ [n] }
  else { s with lost := min 255 (s.lost + 1) }

/-- R182: a command takes effect where the port awaits one. Its bytes are not read while SEL is high, and are no second
command of a transaction that has taken one: then it has no effect (R193 after a hard reset). -/
def onPort (f : State → Host.Outcome State Fault Refusal) (s : State) : Host.Outcome State Fault Refusal :=
  if s.awaitsCommand then f s else .next s

/-- R182: the command takes effect and its result is what the transaction returns next. -/
def respond (code : ResultCode) (data : List Byte) (s : State) : State :=
  { s with port := { s.port with taken := true, result := code.byte :: data } }

/-! ### Events handed on (log 5) -/

/-- An evaluation of the head is due (R11). -/
def handEvaluate (s : State) : State := { s with handed := { s.handed with evaluate := true } }

/-- An own mark is handed to the own Reaction Table (R54), to be taken after the operation at hand. -/
def handLoopBack (m : Mark) (stamp : Option Position) (s : State) : State :=
  { s with handed := { s.handed with loopBacks := s.handed.loopBacks ++ [(m, stamp)] } }

/-- Whether the head is Waiting with a gate, not yet consumed, that satisfies p. -/
def headWaitsOn (p : Gate → Bool) (s : State) : Bool :=
  match s.queue with
  | e :: _ => e.state == .waiting && !e.consumed && p e.segment.gate
  | [] => false

/-- A change of what a gate names is handed to the Segment Queue, which evaluates a Waiting head on it (R11). -/
def handGateChange (p : Gate → Bool) (s : State) : State := if headWaitsOn p s then handEvaluate s else s

/-- A change of a tally (R60). -/
def handTally (e : Fin 24) (s : State) : State := handGateChange (fun g => g == .tally e) s

/-- A change of a watch's state (R73, R74). -/
def handWatch (w : Fin 4) (s : State) : State := handGateChange (fun g => g == .watch w) s

/-- A change of an input (R82). -/
def handInput (i : Input) (s : State) : State :=
  handGateChange (fun g => match g with | .input j _ => j == i | _ => false) s

/-! ### The pick (R111, R113) -/

/-- R134: the oldest frame of the lowest class present. -/
def firstFrame (frames : List OutFrame) : Option OutFrame :=
  [0, 1, 2, 3].findSome? fun c => frames.find? fun f => f.cls == c

/-- R111: the deferral gap of a frame. -/
def State.gapOf (s : State) (f : OutFrame) : Nat :=
  8 + 64 * f.cls + s.station.val + (if s.lif.yielding then 32 else 0) +
    (if s.standing = .reticent then 256 else 0)

/-- R113: the transmitter picks the first frame and notes its gap. Without a frame, or while it may not send, it is Silent.
A frame in flight is not displaced. -/
def pick (s : State) : State :=
  match s.lif.transmitter with
  | .sending | .listeningBack => s
  | _ =>
    match s.canSend, firstFrame s.outbound with
    | true, some f =>
      { s with lif := { s.lif with transmitter := .waiting, picked := some { frame := f.id, gap := s.gapOf f } } }
    | _, _ => { s with lif := { s.lif with transmitter := .silent, picked := none } }

/-- R130 step 4: a Silent transmitter picks at once. -/
def pickIfSilent (s : State) : State := if s.lif.transmitter = .silent then pick s else s

/-- R113, R137: when a departed frame was the picked one, the transmitter picks again. -/
def repick (id : Nat) (s : State) : State :=
  match s.lif.picked with
  | some p => if p.frame = id then pick s else s
  | none => s

/-- R109: the idle reference is set with this many bit times of idle line already gone, whole bit times count from it,
and the transmitter picks (R113). The line is recessive at a reference. -/
def setReference (gone : Nat) (s : State) : State :=
  pick { s with lif := { s.lif with dominant := false, idle := gone, quiet := gone, roundDone := false }, bitPhase := 0 }

/-! ### Admission (R118, R130) -/

/-- R130: whether the Outbound Queue has room for a frame of a class. -/
def State.hasRoom (s : State) (cls : Nat) : Bool :=
  if cls = 0 then s.outbound.length < 12 else s.outbound.length < 10

/-- R118, R130, R132: the frame is admitted with the next sequence number at the youngest place, or refused with none. -/
def admission (dest : Dest) (p : Payload) (s : State) : Option State :=
  if s.canSend && s.hasRoom p.kind.cls then
    let f : OutFrame :=
      { id := s.nextFrame, dest, payload := p, sequence := s.lif.sequence, attempts := 0, inFlight := false
        held := none }
    some (pickIfSilent
      { s with
        outbound := s.outbound ++ [f]
        nextFrame := s.nextFrame + 1
        lif := { s.lif with sequence := s.lif.sequence + 1 } })
  else none

/-! ### The own halt on the line (R97, R133) -/

/-- The frame that an owed frame names. -/
def owedPayload (h : OwnHalt) : Option Payload :=
  match h.owed with
  | .none => none
  | .halt => some (.halt h.reason h.kind)
  | .lift => some .lift

/-- R97 step 3: the owed frame is asked for; where none may be sent, nothing stays owed. -/
def askOwed (s : State) : State :=
  match owedPayload s.ownHalt with
  | none => s
  | some p =>
    if s.canSend then
      match admission .broadcast p s with
      | some t => { t with ownHalt := { t.ownHalt with owed := .none } }
      | none => s
    else { s with ownHalt := { s.ownHalt with owed := .none } }

/-- R137: a departed frame is handed to the Halt Table and to the Line Interface. -/
def departed (id : Nat) (s : State) : State := repick id (askOwed s)

/-- Whether a frame record is a PRESENCE. -/
def OutFrame.isPresence (f : OutFrame) : Bool := f.payload.kind == .presence

/-- The frame list with one record replaced. -/
def replaceFrame (frames : List OutFrame) (g : OutFrame) (id : Nat) : List OutFrame :=
  frames.map fun f => if f.id = id then g else f

/-- R133: a PRESENCE that has been attempted and is not in flight is superseded by one with the new payload, a new
sequence, attempt count 0 and the removed frame's age. -/
def supersede (f : OutFrame) (p : Presence) (s : State) : State :=
  let g : OutFrame :=
    { id := s.nextFrame, dest := f.dest, payload := .presence p, sequence := s.lif.sequence, attempts := 0
      inFlight := false, held := none }
  departed f.id
    { s with
      outbound := replaceFrame s.outbound g f.id
      nextFrame := s.nextFrame + 1
      lif := { s.lif with sequence := s.lif.sequence + 1 } }

/-- R133: an update of the held PRESENCE, in place, by supersession or held while in flight. Nothing without one. -/
def updatePresence (change : Presence → Presence) (s : State) : State :=
  match s.outbound.find? OutFrame.isPresence with
  | some f =>
    match f.payload with
    | .presence p =>
      if f.inFlight then
        { s with outbound := replaceFrame s.outbound { f with held := some (change (f.held.getD p)) } f.id }
      else if f.attempts = 0 then
        { s with outbound := replaceFrame s.outbound { f with payload := .presence (change p) } f.id }
      else supersede f (change p) s
    | _ => s
  | none => s

/-- The halt fields of a PRESENCE as the own halt now stands (R97 step 1). -/
def OwnHalt.into (h : OwnHalt) (p : Presence) : Presence :=
  { p with haltRaised := h.raised, reason := if h.raised then h.reason else 0 }

/-- R97: a change of the own halt is announced: the held PRESENCE, the owed frame, the request. -/
def announceHalt (s : State) : State :=
  let s := updatePresence s.ownHalt.into s
  askOwed { s with ownHalt := { s.ownHalt with owed := if s.ownHalt.raised then .halt else .lift } }

/-- R165: the roster asks for a PRESENCE with the present summary: an update of the one held, an admission, or nothing
when it is refused. -/
def requestPresence (s : State) : State :=
  if s.canSend then
    if s.outbound.any OutFrame.isPresence then updatePresence (fun _ => s.summary) s
    else
      match admission .broadcast (.presence s.summary) s with
      | some t => t
      | none => s
  else s

/-- R165: the presence timer starts at the full period. -/
def startPresenceTimer (s : State) : State :=
  { s with presenceTimer := ms (10 * s.config.presencePeriod.toNat) }

/-- R140, R149, R156: the Halt Table's request when the queue opens: a raised own halt is announced anew, and an owed
frame is asked for. -/
def openHaltRequest (s : State) : State := if s.ownHalt.raised then announceHalt s else askOwed s

/-- R140, R149, R156, R165: the Peer Roster's request when the queue opens; it restarts the presence timer. -/
def openPresenceRequest (s : State) : State := startPresenceTimer (requestPresence s)

/-- R140: both requests when the queue opens, in either order: where both ask, a free value decides (log 9). -/
def openOutbound (s : State) : State :=
  if s.ownHalt.raised || s.ownHalt.owed != .none then
    let t := { s with free := s.free + 1 }
    if Config.haltRequestFirst s.free then openPresenceRequest (openHaltRequest t)
    else openHaltRequest (openPresenceRequest t)
  else openPresenceRequest s

/-! ### The Mark Emitter (R51 to R54) -/

/-- R51, R53: an emission that is not sent: the notice, then the arrival. -/
def notSent (reason : NotSentReason) (m : Mark) (stamp : Option Position) (origin : EmitOrigin) (index : Byte)
    (s : State) : State :=
  handLoopBack m stamp (notify (.markNotSent m reason origin index) s)

/-- R51: an emission request is admitted as a MARK frame and becomes pending, or is looped back at once. -/
def requestMark (m : Mark) (stamp : Option Position) (origin : EmitOrigin) (index : Byte) (s : State) : State :=
  if s.canSend then
    match admission .broadcast (.mark m stamp) s with
    | some t => { t with emissions := t.emissions ++ [{ mark := m, stamp, origin, index, frame := s.nextFrame }] }
    | none => notSent .refused m stamp origin index s
  else notSent (if s.lifecycle = .online then .withdrawn else .notOnline) m stamp origin index s

/-- A request for a mark that may be absent, stamped with the command position (R50). -/
def requestMark? (m : Option Mark) (origin : EmitOrigin) (index : Byte) (s : State) : State :=
  match m with
  | some m => requestMark m (some s.command) origin index s
  | none => s

/-! ### Answers (R7, R18, R131, R176) -/

/-- An ANSWER to a peer is admitted, or ANSWER_DROPPED is queued in its place. -/
def answerPeer (peer : Station) (q : Seq) (kind : AnswerKind) (tag : Byte) (s : State) : State :=
  match admission (.station peer) (.answer q kind tag) s with
  | some t => t
  | none => notify (.answerDropped tag peer q kind) s

/-! ### Retirement and flushing (R16 to R20) -/

/-- R17 steps 2 to 4, for an entry already removed: end mark, notice, Finished answer. -/
def retireEffects (e : Entry) (o : Retirement) (s : State) : State :=
  let s :=
    match o with
    | .completed | .cut => requestMark? e.segment.endMark .finish e.segment.tag s
    | _ => s
  let s := notify (.segmentRetired e.segment.tag e.origin o s.command) s
  match e.origin with
  | .localPort => s
  | .peer n q => answerPeer n q (.finished o) e.segment.tag s

/-- Entries that a flush has removed retire Flushed in queue order. -/
def flushEntries (es : List Entry) (s : State) : State :=
  es.foldl (fun s e => retireEffects e .flushed s) s

/-- The axis with its motion or dwell ended (R42, R48): no speed, no pulses due, no plan. -/
def Axis.ended (a : Axis) : Axis :=
  { a with
    speed := 0, remaining := 0, blend := none, committed := false, braking := .none, brakeRate := 0
    found := false, dwellTimer := 0, pulseTimer := 0 }

/-- The axis state of an axis at rest: GATED with a head, IDLE without (R24 "next"). -/
def restState (queue : List Entry) : AxisState := if queue.isEmpty then .idle else .gated

/-- A successor that was Committed returns to Waiting with its gate marked as consumed (R15). -/
def Entry.uncommit (e : Entry) : Entry :=
  if e.state = .committed then { e with state := .waiting, consumed := true } else e

/-- R17 for the running head: it leaves the queue, the axis comes to rest, and the new head is to be evaluated. -/
def retireHead (o : Retirement) (s : State) : State :=
  match s.queue with
  | e :: rest =>
    let rest := rest.map Entry.uncommit
    handEvaluate (retireEffects e o
      { s with queue := rest, axis := { s.axis.ended with state := restState rest } })
  | [] => s

/-- The queue is emptied of everything behind the running head, or of everything when none runs; those removed retire
Flushed (R19). -/
def flushBehind (s : State) : State :=
  match s.queue with
  | e :: rest =>
    if e.state = .running then flushEntries rest { s with queue := [e] }
    else flushEntries s.queue { s with queue := [], axis := { s.axis with state := .idle } }
  | [] => s

/-! ### Stops (R41, R42, R88 to R90) -/

/-- The speed fields of a motion segment. -/
def SegmentBody.ramp : SegmentBody → Option Ramp
  | .moveRel _ r | .moveAbs _ r | .run _ r | .seek _ _ _ _ r => some r
  | .dwell _ | .setpos _ => none

/-- The acceleration in pps/s (R26). -/
def Ramp.accelRate (r : Ramp) : Nat := 1000 * r.accel

/-- The deceleration in pps/s: the acceleration when the field is 0 (R26). -/
def Ramp.decelRate (r : Ramp) : Nat := 1000 * (if r.decel = 0 then r.accel else r.decel)

/-- The deceleration rate of an entry, 0 without speed fields. -/
def Entry.decelRate (e : Entry) : Nat :=
  match e.segment.body.ramp with
  | some r => r.decelRate
  | none => 0

/-- R41: the braking rate of a stop. -/
def State.stopRateOf (s : State) (e : Entry) : Nat := max e.decelRate (1000 * s.config.stopRate.toNat)

/-- Whether a segment is a RUN. -/
def SegmentBody.isRun : SegmentBody → Bool
  | .run .. => true
  | _ => false

/-- Whether a segment has pulses remaining to count: MOVE_REL and MOVE_ABS (R28). -/
def SegmentBody.isMove : SegmentBody → Bool
  | .moveRel .. | .moveAbs .. => true
  | _ => false

/-- The outcome of a braking that ends: Stopped for a stop; for a cut, Completed for a RUN and Cut otherwise (R40). -/
def brakeOutcome (cause : BrakeCause) (e : Entry) : Retirement :=
  match cause with
  | .cut => if e.segment.body.isRun then .completed else .cut
  | _ => .stopped

/-- R40, R41: braking from the current speed, or the end at once when that is at or below base speed. -/
def brake (cause : BrakeCause) (rate : Nat) (e : Entry) (s : State) : State :=
  if s.axis.speed ≤ s.baseUnits then retireHead (brakeOutcome cause e) s
  else
    { s with
      axis := { s.axis with
        state := .braking, braking := cause, brakeRate := rate, blend := none, committed := true, found := false } }

/-- What a decelerating stop does to a running head, once the rest of the queue is flushed (R88, R90). -/
def decelerateHead (e : Entry) (s : State) : State :=
  match s.axis.state with
  | .braking => { s with axis := { s.axis with braking := .stop } }
  | .rampUp | .cruise | .rampDown => brake .stop (s.stopRateOf e) e s
  | _ => retireHead .stopped s

/-- A stop with the Segment Queue's stop-flush (R19, R41, R42, R88 to R90). A decelerating stop flushes the entries behind
the head before it ends a head at or below base speed, or a running DWELL (log 8). -/
def orderStop (kind : StopKind) (s : State) : State :=
  match s.runningHead, kind with
  | none, _ => flushBehind s
  | some _, .immediate => flushBehind (retireHead .stopped s)
  | some e, .decelerating => decelerateHead e (flushBehind s)

/-! ### The fault set (R84, R94) -/

/-- R94: a propagating cause raises a clear own halt, and the halt is announced. -/
def raiseByCause (c : Cause) (s : State) : State :=
  if propagates s.config c && !s.ownHalt.raised then
    announceHalt
      { s with
        ownHalt := { s.ownHalt with raised := true, reason := c.code, kind := .immediate, how := .cause } }
  else s

/-- R84: entry of a cause into the fault set. A cause already present changes nothing. -/
def raiseCause (c : Cause) (s : State) : State :=
  if s.faults.has c then s
  else
    raiseByCause c
      (orderStop (stopKindOf s.config c)
        (notify (.fault c s.command) { s with faults := s.faults.put c true }))

/-- R45: the following-gap check. -/
def gapExceeds (s : State) : Bool :=
  decide (s.config.encoder ≠ .off) && decide (0 < s.config.gapLimit.toNat) &&
    decide (s.config.gapLimit.toNat < (s.command - s.measured).toInt.natAbs)

/-- R45: FOLLOWING_GAP is raised when the gap's magnitude exceeds the limit. -/
def checkGap (s : State) : State := if gapExceeds s then raiseCause .followingGap s else s

/-! ### Captures (R78) -/

/-- R78: a trigger at a slot: the fill with its notice, or missed. -/
def trigger (slot : Fin 4) (t : Trigger) (s : State) : State :=
  let c := s.captures.getD slot.val .cleared
  if c.valid then { s with captures := s.captures.set slot.val { c with missed := true } }
  else
    notify (.captureTaken slot t)
      { s with
        captures := s.captures.set slot.val
          { c with
            valid := true, missed := false, command := s.command, measured := s.measured
            headTag := s.headTag, trigger := t } }

/-! ### Tallies (R60) -/

/-- The entry with its tally replaced. -/
def setTally (e : Fin 24) (n : Nat) (s : State) : State :=
  { s with reactions := s.reactions.set e.val { s.reactions.getD e.val .cleared with tally := n } }

/-- R12 step 1, R13, R60: a gate is consumed. A Tally gate takes one count, or none when the tally is 0; the other gates
consume nothing. -/
def consumeGate (g : Gate) (s : State) : Option State :=
  match g with
  | .tally e =>
    let n := (s.reactions.getD e.val .cleared).tally
    if n = 0 then none else some (setTally e (n - 1) s)
  | _ => some s

/-! ### Standing (R145, R151) -/

/-- A change of the standing with its notice; nothing when it stays. -/
def setStanding (st : Standing) (cause : StandingCause) (s : State) : State :=
  if st = s.standing then s
  else notify (.standingChanged s.standing st s.score cause) { s with standing := st }

/-! ### The Line Interface off the line (R120, R127, R128) -/

/-- The transmitter drops a pick and becomes Silent; a frame in flight is left. -/
def dropPick (s : State) : State :=
  match s.lif.transmitter with
  | .waiting => { s with lif := { s.lif with transmitter := .silent, picked := none } }
  | _ => s

/-- R120, R128: an attempt in flight ends with no result, the transmitter is Silent, the receiver Off and the counts
are 0. -/
def lineOff (s : State) : State :=
  { s with
    lif := { s.lif with
      receiver := .off, transmitter := .silent, idle := 0, roundDone := false, quiet := 0, picked := none
      flight := none, reception := none, rejectDriven := false }
    outbound := s.outbound.map fun f => { f with inFlight := false } }

/-- The line is not driven in a reject window (R122). -/
def noReject (s : State) : State := { s with lif := { s.lif with rejectDriven := false } }

/-! ### The Post Table (R169 to R175) -/

/-- The Post Table entries that satisfy p are removed, each with POST_LOST (R175, R180). The entries have no order: the model
queues the notices of several in the order of admission (log 49). -/
def losePosts (p : PostEntry → Bool) (reason : LostReason) (s : State) : State :=
  (s.posts.filter p).foldl (fun s e => notify (.postLost e.dest e.sequence e.tag reason) s)
    { s with posts := s.posts.filter fun e => !p e }

/-- A POST frame has left the Outbound Queue: the frame-held field of its entry becomes no (R175). -/
def releasePost (id : Nat) (s : State) : State :=
  { s with posts := s.posts.map fun e => if e.frame = some id then { e with frame := none } else e }

end Sys2Proof.Machine
end

