-- ==== Sys2Proof/Machine/Plan.lean ====
section
/-! DEFINITION. The Profile Generator's plan: directions and speeds of a segment, the chain plan and its commitment, the
blend junction, and cuts (R26 to R29, R36 to R40). -/

namespace Sys2Proof.Machine

/-! ### Directions, distances, speeds -/

/-- The direction from one position to another, none when they are equal. -/
def dirTo (source target : Int) : Option Dir :=
  if source < target then some .plus else if target < source then some .minus else none

/-- A number of counts in a direction. -/
def Dir.counts (d : Dir) (n : Nat) : Int :=
  match d with
  | .plus => n
  | .minus => -n

/-- R27: the direction of a motion segment that starts at a position; none for a MOVE_ABS already there, a DWELL and a
SETPOS. -/
def SegmentBody.dirAt (b : SegmentBody) (p : Position) : Option Dir :=
  match b with
  | .moveRel d _ => some (if d.msb then .minus else .plus)
  | .moveAbs t _ => dirTo p.toInt t.toInt
  | .run d _ => some d
  | .seek d _ _ _ _ => some d
  | .dwell _ | .setpos _ => none

/-- R27: the pulses remaining of a segment that starts at a position. -/
def SegmentBody.pulsesAt (b : SegmentBody) (p : Position) : Nat :=
  match b with
  | .moveRel d _ => d.toInt.natAbs
  | .moveAbs t _ => (t.toInt - p.toInt).natAbs
  | _ => 0

/-- The axis state and speed, in units, at which a segment starts from a speed (R27, R37). From standstill the speed is
base speed. A top speed at or below base speed runs in CRUISE at the top speed. -/
def startSpeed (top base units : Nat) : AxisState × Nat :=
  if top * 65536 ≤ base then (.cruise, top * 65536)
  else
    let v := max units base
    (if v = top * 65536 then .cruise else .rampUp, v)

/-- The interval to the next pulse in clock periods: one second over the speed, to the nearest period, a half rounding
up (R25). -/
def interval (units : Nat) : Clocks :=
  if units = 0 then 0 else (2 * (16000000 * 65536) + units) / (2 * units)

/-- R26: the change of a speed by a rate over one pulse, in units, rounded down. -/
def speedStep (rate units : Nat) : Nat := rate * 65536 * 65536 / units

/-! ### The chain plan (R29, R36, R37) -/

/-- R29: the ramp floor in units, the greater of the planned exit speed and base speed. -/
def State.floorUnits (s : State) : Nat := max (s.axis.blend.getD 0 * 65536) s.baseUnits

/-- R36: the position from which the successor's direction is judged: the end position of S, or for a RUN the command
position. -/
def endPosition (e : Entry) (s : State) : Int :=
  if e.segment.body.isRun then s.command.toInt else s.command.toInt + s.axis.dir.counts s.axis.remaining

/-- R36: the direction in which the successor would move. -/
def successorDir (e n : Entry) (s : State) : Option Dir :=
  match n.segment.body with
  | .moveAbs t _ => dirTo (endPosition e s) t.toInt
  | b => b.dirAt s.command

/-- Whether a segment may be blended into: MOVE_REL, MOVE_ABS or RUN (R36). -/
def SegmentBody.blendable (b : SegmentBody) : Bool := b.mayChain

/-- R36: whether S may blend into N. -/
def blendsInto (e n : Entry) (s : State) : Bool :=
  e.segment.chain && n.state == .waiting && n.segment.body.blendable &&
    successorDir e n s == some s.axis.dir && (n.consumed || s.gateOpen n.segment.gate)

/-- R36: the planned exit speed: a blend speed in pps, or none for base speed. -/
def planOf (s : State) : Option Nat :=
  match s.queue with
  | e :: n :: _ =>
    match e.segment.body.ramp, n.segment.body.ramp with
    | some re, some rn => if blendsInto e n s then some (min re.top rn.top) else none
    | _, _ => none
  | _ => none

/-- R36: the plan is re-evaluated while it is Open. -/
def replan (s : State) : State :=
  if s.axis.committed then s else { s with axis := { s.axis with blend := planOf s } }

/-- The second entry becomes Committed (R14). -/
def commitSecond (s : State) : State :=
  match s.queue with
  | e :: n :: rest => { s with queue := e :: { n with state := .committed, consumed := false } :: rest }
  | _ => s

/-- The gate of the second entry is consumed, unless it is marked as consumed already (R14, R15). -/
def consumeSecond (s : State) : Option State :=
  match s.queue with
  | _ :: n :: _ => if n.consumed then some s else consumeGate n.segment.gate s
  | _ => none

/-- R37: an Open plan becomes Committed. A blend needs its successor's gate consumed; when that finds no count the plan
becomes base speed. -/
def commitPlan (s : State) : State :=
  if s.axis.committed then s
  else
    match s.axis.blend with
    | none => { s with axis := { s.axis with committed := true } }
    | some _ =>
      match consumeSecond s with
      | some t => commitSecond { t with axis := { t.axis with committed := true } }
      | none => { s with axis := { s.axis with blend := none, committed := true } }

/-- Whether a blend has been committed. -/
def State.blendCommitted (s : State) : Bool := s.axis.committed && s.axis.blend.isSome

/-- R29: the pulses that a ramp down from v to the floor takes, rounded up. Speeds in units, d in pps/s. -/
def rampPulses (v floor d : Nat) : Nat :=
  let den := 2 * d * (65536 * 65536)
  (v * v - floor * floor + (den - 1)) / den

/-- R29: whether the deceleration point is reached before this pulse. -/
def atDecelerationPoint (e : Entry) (s : State) : Bool :=
  e.segment.body.isMove && (s.axis.state == .rampUp || s.axis.state == .cruise) &&
    decide (s.floorUnits < s.axis.speed) &&
    decide (s.axis.remaining ≤ rampPulses s.axis.speed s.floorUnits e.decelRate)

/-- R29: the deceleration point: the plan is Committed and the axis enters RAMP_DOWN. -/
def decelerationPoint (e : Entry) (s : State) : State :=
  if atDecelerationPoint e s then
    let s := commitPlan s
    { s with axis := { s.axis with state := .rampDown } }
  else s

/-! ### The junction (R14, R37) -/

/-- The periods of the clock since the latest pulse of a motion: those of its interval that are over (R25). -/
def Axis.sincePulse (a : Axis) : Clocks := interval a.speed - a.pulseTimer

/-- R37: the successor takes over at the junction: its direction, pulses and starting speed, an Open plan at base speed,
its first pulse one interval at that speed after the latest pulse of S. Where that interval is over at a cut, the pulse
comes in the next period of the clock (log 45). -/
def takeOver (n : Entry) (r : Ramp) (d : Dir) (s : State) : State :=
  let (st, v) := startSpeed r.top s.baseUnits s.axis.speed
  { s with
    axis := { s.axis with
      state := st, speed := v, dir := d, remaining := n.segment.body.pulsesAt s.command, blend := none
      committed := false, braking := .none, brakeRate := 0, found := false, dwellTimer := 0
      pulseTimer := max 1 (interval v - s.axis.sincePulse) } }

/-- R14, R37: S ends at the planned exit speed. The Committed successor starts at once, unless its direction has changed
or its target is reached: then S ends as after a lost blend and N waits with its gate marked as consumed. -/
def junction (s : State) : State :=
  match s.queue with
  | e :: n :: rest =>
    match n.segment.body.ramp, n.segment.body.dirAt s.command with
    | some r, some d =>
      if d = s.axis.dir then
        let n' := { n with state := .running, consumed := false }
        let t := retireEffects e .completed { s with queue := n' :: rest }
        requestMark? n.segment.startMark .start n.segment.tag (takeOver n r d t)
      else retireHead .completed s
    | _, _ => retireHead .completed s
  | _ => retireHead .completed s

/-! ### Cuts (R39, R40) -/

/-- R40: an ordinary cut of a running motion segment. A Committed entry returns to Waiting at the cut, before the braking
has ended, as R40's table gives the effects of a cut; a FLUSH during the braking then removes it (log 38). -/
def cutBrake (e : Entry) (s : State) : State :=
  brake .cut e.decelRate e { s with queue := (s.queue.take 1) ++ (s.queue.drop 1).map Entry.uncommit }

/-- R39: the cut of a chained RUN whose plan is Open is taken as its commitment. The plan is judged at the cut (log 7). -/
def cutChainedRun (e : Entry) (s : State) : State :=
  let s := commitPlan (replan s)
  if s.blendCommitted then
    if s.floorUnits < s.axis.speed then { s with axis := { s.axis with state := .rampDown } }
    else junction s
  else cutBrake e s

/-- R39, R40: a cut as the Profile Generator takes it, by the state it finds. -/
def takeCut (s : State) : State :=
  match s.runningHead with
  | none => s
  | some e =>
    match s.axis.state with
    | .dwell => retireHead .cut s
    | .rampUp | .cruise | .rampDown =>
      if s.axis.found then s
      else if e.segment.body.isRun && e.segment.chain && !s.axis.committed then cutChainedRun e s
      else cutBrake e s
    | _ => s

end Sys2Proof.Machine
end

