-- ==== Sys2Proof/Machine/Profile.lean ====
section
/-! DEFINITION. The Profile Generator at work: the step check, pulses, the ends of segments, SEEK finds and dwells (R25 to
R35, R46). -/

namespace Sys2Proof.Machine

/-! ### The step check (R46, R87) -/

/-- The command position one step further in a direction. -/
def stepTo (d : Dir) (p : Position) : Position :=
  match d with
  | .plus => p + 1
  | .minus => p - 1

/-- R46: whether the software limits are compared for a step: while enabled, but for a braking's steps while the cause
of that direction stands in the fault set. -/
def softCompared (d : Dir) (s : State) : Bool :=
  s.config.softEnabled && !(s.axis.state == .braking && s.faults.has (softCause d))

/-- R46: whether the next step in a direction is refused, by a range end or by a software limit. -/
def stepRefused (d : Dir) (s : State) : Bool :=
  match d with
  | .plus =>
    decide (2147483647 ≤ s.command.toInt) ||
      (softCompared d s && decide (s.config.softMax.toInt < s.command.toInt + 1))
  | .minus =>
    decide (s.command.toInt ≤ -2147483648) ||
      (softCompared d s && decide (s.command.toInt - 1 < s.config.softMin.toInt))

/-! ### New positions (R43, R44, R71) -/

/-- How the values that an operation gives the positions reach Watches and Captures, in the order they arise: compared at
once or held until the comparison at hand is over (watchNow, watchLater). -/
abbrev WatchTake := List (WatchSource × Position) → State → State

/-- R43, R44: a new command position is set; with the encoder Off the measured position changes with it. -/
def setCommand (p : Position) (s : State) : State :=
  { s with command := p, measured := if s.config.encoder = .off then p else s.measured }

/-- R71: the values that a new command position makes; with the encoder Off the measured position changes with it and comes
second. -/
def State.commandValues (s : State) : List (WatchSource × Position) :=
  (.command, s.command) :: if s.config.encoder = .off then [(.measured, s.command)] else []

/-- R30, R33: both positions are set to given values, and the watches take the command value and then the measured one. R71
gives that order for the encoder Off; with the encoder on it is the model's choice (log 48). -/
def jumpPositions (watch : WatchTake) (command measured : Position) (s : State) : State :=
  watch [(.command, command), (.measured, measured)] { s with command, measured }

/-! ### Refused steps (R46, R87) -/

/-- A motion that goes on after a refused step makes its next step one interval later (log 30). -/
def rearmPulse (s : State) : State :=
  if s.axis.state.moving then { s with axis := { s.axis with pulseTimer := interval s.axis.speed } } else s

/-- R46, R87: a refused step raises its cause. One refused while BRAKING first ends the braking at once, Stopped. -/
def refuseStep (s : State) : State :=
  let c := softCause s.axis.dir
  if s.axis.state = .braking then raiseCause c (retireHead .stopped s) else rearmPulse (raiseCause c s)

/-! ### One pulse (R25, R26) -/

/-- R26: the axis state and speed after a pulse. -/
def speedAfter (e : Entry) (s : State) : AxisState × Nat :=
  let v := s.axis.speed
  match s.axis.state with
  | .rampUp =>
    match e.segment.body.ramp with
    | some r =>
      let u := v + speedStep r.accelRate v
      if r.top * 65536 ≤ u then (.cruise, r.top * 65536) else (.rampUp, u)
    | none => (.rampUp, v)
  | .rampDown =>
    (.rampDown, if v ≤ s.floorUnits then v else max s.floorUnits (v - speedStep e.decelRate v))
  | .braking => (.braking, v - speedStep s.axis.brakeRate v)
  | st => (st, v)

/-- R25: the output on which a pulse appears, in the mode of the segment started latest (R189). -/
def pulsePin (m : PulseMode) (d : Dir) : PulsePin :=
  match m, d with
  | .cwCcw, .minus => .dirCcw
  | _, _ => .stepCw

/-- R25 steps 4 to 6: the pulse is emitted, the command position moves one count, the pulses remaining of a MOVE_REL or
MOVE_ABS fall by 1 and the speed is updated. -/
def emitPulse (e : Entry) (s : State) : State :=
  let (st, v) := speedAfter e s
  setCommand (stepTo s.axis.dir s.command)
    { s with
      axis := { s.axis with
        state := st, speed := v
        remaining := if e.segment.body.isMove then s.axis.remaining - 1 else s.axis.remaining
        pulseTimer := interval v
        pulseOut := some (pulsePin s.axis.pulseMode s.axis.dir) } }

/-- R28, R36, R37: the end of the last pulse of a MOVE_REL or MOVE_ABS. -/
def endMove (s : State) : State :=
  let s := commitPlan (replan s)
  if s.blendCommitted then junction s else retireHead .completed s

/-- Whether the running motion of a segment has come to its end, and how (R28, R33, R39 to R41). -/
def endMotion (s : State) : State :=
  match s.runningHead with
  | none => s
  | some e =>
    let spent := e.segment.body.isMove && s.axis.remaining == 0
    match s.axis.state with
    | .braking =>
      if spent || decide (s.axis.speed ≤ s.baseUnits) then retireHead (brakeOutcome s.axis.braking e) s else s
    | .rampUp | .cruise => if spent then endMove s else s
    | .rampDown =>
      if spent then endMove s
      else if s.axis.found then
        if s.axis.speed ≤ s.baseUnits then retireHead .completed s else s
      else if e.segment.body.isRun && s.blendCommitted && decide (s.axis.speed ≤ s.floorUnits) then junction s
      else s
    | _ => s

/-- R25: one pulse of the running segment: the plan, the deceleration point, the step check, the pulse; then what the new
position brings (R71, R45), and the end of the motion. (Log 6, log 29.) -/
def pulse (watch : WatchTake) (s : State) : State :=
  match s.runningHead with
  | none => s
  | some e =>
    if s.axis.state.moving then
      let s := decelerationPoint e (replan s)
      if stepRefused s.axis.dir s then refuseStep s
      else
        let s := emitPulse e s
        endMotion (checkGap (watch s.commandValues s))
    else s

/-! ### SEEK finds (R32 to R34) -/

/-- R33 step 1: the zeroing, when its flag is set; each position less itself is 0. -/
def zeroAtFind (watch : WatchTake) (zero : Bool) (s : State) : State :=
  if zero then jumpPositions watch 0 0 s else s

/-- R33 steps 2 and 3: at the find the axis stops at once, or ramps down to base speed. A find at standstill, or at or
below base speed, stops there. -/
def stopAtFind (standstill : Bool) (k : StopKind) (s : State) : State :=
  if standstill || k == .immediate || decide (s.axis.speed ≤ s.baseUnits) then retireHead .completed s
  else { s with axis := { s.axis with state := .rampDown, blend := none, committed := true } }

/-- R33: the find of a running SEEK, in motion or at standstill. -/
def seekFind (watch : WatchTake) (standstill : Bool) (s : State) : State :=
  match s.runningHead with
  | some e =>
    match e.segment.body with
    | .seek _ _ zero findStop _ =>
      stopAtFind standstill findStop (zeroAtFind watch zero { s with axis := { s.axis with found := true } })
    | _ => s
  | none => s

/-- R32: a change of an input to Active during a SEEK on it, in RAMP_UP or CRUISE, is its find. -/
def seekInputChange (watch : WatchTake) (i : Input) (s : State) : State :=
  match s.runningHead with
  | some e =>
    match e.segment.body with
    | .seek _ j _ _ _ =>
      if j == i && s.inputActive i && (s.axis.state == .rampUp || s.axis.state == .cruise) && !s.axis.found then
        seekFind watch false s
      else s
    | _ => s
  | none => s

/-! ### Dwells (R35) -/

/-- R35: the dwell timer of the running DWELL expires. -/
def dwellDone (s : State) : State :=
  match s.runningHead with
  | some _ => if s.axis.state = .dwell then retireHead .completed s else s
  | none => s

end Sys2Proof.Machine
end

