-- ==== Sys2Proof/Machine/Start.lean ====
section
/-! DEFINITION. The starts: evaluation of the head, consumption, start check, start mark and the run (R11, R12, R27, R30,
R32, R35). A start is one operation. -/

namespace Sys2Proof.Machine

/-! ### The start check (R12, R27) -/

/-- R34: whether a segment treats the hard limit of its direction as its find. -/
def SegmentBody.exemptLimit (b : SegmentBody) (d : Dir) : Bool :=
  match b with
  | .seek sd i _ _ _ => sd == d && i == limitInput d
  | _ => false

/-- R27: the start check of a motion segment in its direction: the cause that refuses it. Where the hard limit and the
first step both refuse, the spec does not say whether both causes enter: the hard limit's enters alone (log 39). -/
def startRefusal (b : SegmentBody) (d : Dir) (s : State) : Option Cause :=
  if s.inputActive (limitInput d) && !b.exemptLimit d then some (limitCause d)
  else if stepRefused d s then some (softCause d)
  else none

/-! ### The run (R12 steps 3 to 5, R27, R30, R32, R35) -/

/-- Whether a SEEK finds its input already active at its start (R32). -/
def findsAtStart (b : SegmentBody) (s : State) : Bool :=
  match b with
  | .seek _ i _ _ _ => s.inputActive i
  | _ => false

/-- R25, R27, R32: a motion segment starts from standstill: direction and its output, pulses and speed; the start check; the
start mark; then a SEEK whose input is active finds at standstill, and any other motion emits its first pulse. -/
def startMotion (watch : WatchTake) (g : Segment) (r : Ramp) (d : Dir) (s : State) : State :=
  let (st, v) := startSpeed r.top s.baseUnits s.baseUnits
  let s :=
    { s with
      axis := { s.axis with
        state := st, speed := v, dir := d, pulseMode := s.config.pulseMode
        remaining := g.body.pulsesAt s.command, blend := none, committed := false, braking := .none, brakeRate := 0
        found := false, dwellTimer := 0, pulseTimer := 0 } }
  match startRefusal g.body d s with
  | some c => raiseCause c s
  | none =>
    let s := requestMark? g.startMark .start g.tag s
    if findsAtStart g.body s then seekFind watch true s else pulse watch s

/-- R12 steps 3 to 5: the Profile Generator takes the head, which is Running. A SETPOS sets its position and completes, and a
MOVE_ABS of distance 0 completes, at once (R30). -/
def runHead (watch : WatchTake) (g : Segment) (s : State) : State :=
  match g.body with
  | .dwell time =>
    let s := requestMark? g.startMark .start g.tag s
    { s with axis := { s.axis.ended with state := .dwell, dwellTimer := ms time } }
  | .setpos t =>
    retireHead .completed (checkGap (jumpPositions watch t t (requestMark? g.startMark .start g.tag s)))
  | b =>
    match b.ramp, b.dirAt s.command with
    | some r, some d => startMotion watch g r d s
    | _, _ => retireHead .completed (requestMark? g.startMark .start g.tag s)

/-! ### The evaluation (R11, R12) -/

/-- R12: the start of the Waiting head e, as one operation: the consumption, state Running, the run. -/
def startHead (watch : WatchTake) (e : Entry) (rest : List Entry) (s : State) : State :=
  match if e.consumed then some s else consumeGate e.segment.gate s with
  | some t => runHead watch e.segment { t with queue := { e with state := .running, consumed := false } :: rest }
  | none => s

/-- R11: the head is evaluated from present values, and starts when it is Waiting, its gate is open or consumed and the
start conditions hold. -/
def evaluateHead (watch : WatchTake) (s : State) : State :=
  match s.queue with
  | e :: rest =>
    if e.state == .waiting && s.mayStart && (e.consumed || s.gateOpen e.segment.gate) then startHead watch e rest s
    else s
  | [] => s

end Sys2Proof.Machine
end

