-- ==== Sys2Proof/Machine/Watches.lean ====
section
/-! DEFINITION. Watch comparison and hits (R47, R70 to R75). -/

namespace Sys2Proof.Machine

/-! ### Conditions and hits (R72, R73) -/

/-- R72: whether a condition hits, v the value, p the new and q the previous source value. -/
def WatchCondition.hits (c : WatchCondition) (v p q : Position) : Bool :=
  match c with
  | .atOrAbove => v.sle p
  | .below => p.slt v
  | .crossUp => q.slt v && v.sle p
  | .crossDown => v.sle q && p.slt v

/-- R72: whether a condition hits at arming; the crossing conditions never do. -/
def WatchCondition.hitsAtArming (c : WatchCondition) (v p : Position) : Bool :=
  match c with
  | .atOrAbove => v.sle p
  | .below => p.slt v
  | .crossUp | .crossDown => false

/-- The present value of a watch's source. -/
def State.sourceValue (s : State) : WatchSource → Position
  | .command => s.command
  | .measured => s.measured

/-- R73 steps 1 to 4: state Hit, WATCH_HIT, the mark request, the cut. -/
def hitEffects (w : Fin 4) (r : Watch) (s : State) : State :=
  let s := { s with watches := s.watches.set w.val { r with state := .hit } }
  let s := notify (.watchHit w s.headTag) s
  let s := requestMark? r.mark .watch (byteOfNat w.val) s
  if r.cutOnHit then takeCut s else s

/-- R73: a hit, with its change of state handed to the Segment Queue. -/
def hitWatch (w : Fin 4) (r : Watch) (s : State) : State := handWatch w (hitEffects w r s)

/-! ### New values while the watches compare (log 5) -/

/-- R71: values that come up while the watches compare another one: each is an event of its own, and is compared after the
present one, first come first compared. -/
def watchLater (values : List (WatchSource × Position)) (s : State) : State :=
  { s with handed := { s.handed with values := s.handed.values ++ values } }

/-- At most n evaluations that are due are taken, each after the one before. -/
def evaluateWithin : Nat → State → State
  | 0, s => s
  | n + 1, s =>
    if s.handed.evaluate then
      evaluateWithin n (evaluateHead watchLater { s with handed := { s.handed with evaluate := false } })
    else s

/-- R24, R73 step 5: the evaluations of the head that are due are taken now. Each one after the first has a head fewer to
evaluate. -/
def evaluateNow (s : State) : State := evaluateWithin (s.queue.length + 1) s

/-! ### The comparison (R71) -/

/-- R71, R73: one watch compares a new value of its source; afterwards its previous value is the new value. A hit is taken
whole, with the evaluation of the head that its cut or its change of state brings (R24, R73 step 5), before the next watch
compares. A head so started is started whole (R12); the positions that its start makes are compared after the present value
(log 5). -/
def compareWatch (source : WatchSource) (p : Position) (s : State) (w : Fin 4) : State :=
  let r := s.watches.getD w.val .cleared
  if r.state = .armed ∧ r.source = source then
    let r' := { r with previous := p }
    if r.condition.hits r.value p r.previous then evaluateNow (hitWatch w r' s)
    else { s with watches := s.watches.set w.val r' }
  else s

/-- R71: a new value of a source is compared by every Armed watch on it, in ascending index. -/
def compareWatches (source : WatchSource) (p : Position) (s : State) : State :=
  [0, 1, 2, 3].foldl (compareWatch source p) s

/-- R71: new values are compared at once, each by every watch on it before the next value. -/
def watchNow (values : List (WatchSource × Position)) (s : State) : State :=
  values.foldl (fun s v => compareWatches v.1 v.2 s) s

end Sys2Proof.Machine
end

