-- ==== Sys2Proof/Machine/Reactions.lean ====
section
/-! DEFINITION. Arrivals at the Reaction Table, the requests of acting entries, and the taking of every event handed on
inside a command (R58 to R64). -/

namespace Sys2Proof.Machine

/-! ### Matching (R59) -/

/-- R59: whether an entry acts on an arrival: in use, Armed, matching source and mark, and not an EMIT entry on an own
mark. -/
def Reaction.acts (r : Reaction) (own : Station) (a : Arrival) : Bool :=
  r.inUse && !r.spent && (r.source == none || r.source == some a.source) && r.mark == a.mark &&
    !(match r.action with | .emit _ => a.source == own | _ => false)

/-- R59 step 1, R60: the entry state of an acting entry. A TALLY entry counts, held at 15 with overflow; a Once entry
becomes Spent. -/
def Reaction.act (r : Reaction) : Reaction :=
  let r :=
    match r.action with
    | .tally => if r.tally < 15 then { r with tally := r.tally + 1 } else { r with overflow := true }
    | _ => r
  if r.once then { r with spent := true } else r

/-- The request of entry n, when it acts (R59 step 2). -/
def requestOf (own : Station) (a : Arrival) (n : Fin 24) (r : Reaction) : Option Request :=
  if r.acts own a then some { entry := n, action := r.action, source := a.source, mark := a.mark } else none

/-- The indices of the 24 entries, ascending. -/
def entryIndices : List (Fin 24) := List.finRange 24

/-- R59: an arrival is taken: every acting entry changes its state, and their requests wait in index order. -/
def takeArrival (a : Arrival) (s : State) : State :=
  let requests := entryIndices.filterMap fun n => requestOf s.station a n (s.reactions.getD n.val .cleared)
  { s with
    reactions := s.reactions.map fun r => if r.acts s.station a then r.act else r
    handed := { s.handed with requests := s.handed.requests ++ requests } }

/-- R60 to R64: the request of an acting entry as its block takes it. -/
def takeRequest (q : Request) (s : State) : State :=
  match q.action with
  | .tally => handTally q.entry s
  | .cut => takeCut s
  | .capture slot => trigger slot (.reaction q.entry) s
  | .emit m => requestMark m none .reaction (byteOfNat q.entry.val) s
  | .stopLocal => orderStop .decelerating (notify (.stoppedByReaction q.entry q.source q.mark) s)

/-! ### Taking what was handed on (log 5) -/

/-- The next event handed on is taken: a new position value, an evaluation of the head, then the requests of the arrival at
hand, then an own mark looped back. -/
def takeHanded (s : State) : State :=
  match s.handed.values with
  | v :: vs => compareWatches v.1 v.2 { s with handed := { s.handed with values := vs } }
  | [] =>
    if s.handed.evaluate then evaluateHead watchNow { s with handed := { s.handed with evaluate := false } }
    else
      match s.handed.requests with
      | q :: qs => takeRequest q { s with handed := { s.handed with requests := qs } }
      | [] =>
        match s.handed.loopBacks with
        | m :: ms =>
          takeArrival { source := s.station, mark := m.1, stamp := m.2 }
            { s with handed := { s.handed with loopBacks := ms } }
        | [] => s

/-- Whether anything handed on waits. -/
def Handed.waits (h : Handed) : Bool :=
  !h.values.isEmpty || h.evaluate || !h.requests.isEmpty || !h.loopBacks.isEmpty

/-- The weight of a loop-back: itself, and at most two events for each of 24 requests. -/
def loopBackWeight : Nat := 49

/-- The weight of a request: itself and an evaluation, or for an EMIT the loop-back it may cause. -/
def Request.weight (q : Request) : Nat :=
  match q.action with
  | .emit _ => 1 + loopBackWeight
  | _ => 2

/-- The weight of an entry that has not started: the loop-backs of its start mark and its end mark, the two position values
that its start may make, and the evaluation that its retirement causes. -/
def entryWeight : Nat := 2 * loopBackWeight + 3

/-- The weight of a queue: a Running head has its end mark and one evaluation left. -/
def queueWeight : List Entry → Nat
  | [] => 0
  | e :: rest => (if e.state = .running then loopBackWeight + 1 else entryWeight) + entryWeight * rest.length

/-- The weight of a watch: an Armed one may hit once, with a loop-back and an evaluation. -/
def Watch.weight (w : Watch) : Nat := if w.state = .armed then loopBackWeight + 1 else 0

/-- A bound on the number of events that can still be handed on: each event taken lowers it (log 26;
Laws/Work.lean). -/
def State.work (s : State) : Nat :=
  s.handed.values.length + (if s.handed.evaluate then 1 else 0) + (s.handed.requests.map Request.weight).sum +
    loopBackWeight * s.handed.loopBacks.length + queueWeight s.queue + (s.watches.map Watch.weight).sum

/-- At most n events handed on are taken. -/
def settleWithin : Nat → State → State
  | 0, s => s
  | n + 1, s => if s.handed.waits then settleWithin n (takeHanded s) else s

/-- Every event handed on is taken, each after the one before (R58). -/
def settle (s : State) : State := settleWithin s.work s

end Sys2Proof.Machine
end

