-- ==== Sys2Proof/Machine/Line.lean ====
section
/-! DEFINITION. Line Standing, the emptying of the Outbound Queue, and the end of an own attempt
(R112, R115 to R117, R134 to R139, R142 to R149). -/

namespace Sys2Proof.Machine

/-! ### Emptying the Outbound Queue (R138, R139) -/

/-- What empties the Outbound Queue: the station is silenced (Withdrawn, Conflict) or leaves (LEAVE). -/
inductive Emptying where
  | silenced | left
  deriving DecidableEq, Repr

/-- R53: the pending emission of a frame that will not be carried leaves the list, with MARK_NOT_SENT reason Dropped, and
its arrival is taken (log 22). Nothing for a frame without one. -/
def dropEmission (id : Nat) (s : State) : State :=
  match s.emissions.find? fun e => e.frame == id with
  | some e =>
    settle (notSent .dropped e.mark e.stamp e.origin e.index
      { s with emissions := s.emissions.filter fun e => e.frame != id })
  | none => s

/-- R139: a dropped POST: silenced, its entry is lost as Withdrawn; at LEAVE the Post Table reports it itself. -/
def dropPost (why : Emptying) (id : Nat) (s : State) : State :=
  match why with
  | .silenced => losePosts (fun e => e.frame == some id) .withdrawn s
  | .left => releasePost id s

/-- R139: one frame is dropped with its consequence. -/
def dropFrame (why : Emptying) (s : State) (f : OutFrame) : State :=
  let s := { s with outbound := s.outbound.filter fun g => g.id != f.id }
  match f.payload with
  | .mark _ _ => dropEmission f.id s
  | .post _ => dropPost why f.id s
  | .answer q kind tag =>
    match f.dest with
    | .station n => notify (.answerDropped tag n q kind) s
    | .broadcast => s
  | .halt _ _ | .lift => { s with ownHalt := { s.ownHalt with owed := .none } }
  | .presence _ => s

/-- At most n frames are dropped, each the first in queue order of those then held (R134). -/
def emptyWithin (why : Emptying) : Nat → State → State
  | 0, s => s
  | n + 1, s =>
    match firstFrame s.outbound with
    | some f => emptyWithin why n (dropFrame why s f)
    | none => s

/-- R138: every frame held is dropped in queue order, one that supersedes another meanwhile included. The queue is closed
already, so each drop leaves a frame fewer. -/
def emptyOutbound (why : Emptying) (s : State) : State := emptyWithin why s.outbound.length s

/-- R132, R138: the Outbound Queue of a silenced station is emptied. Where it was open, it has closed in this period of the
clock (log 47). -/
def closeOutbound (wasOpen : Bool) (s : State) : State :=
  emptyOutbound .silenced { s with closing := s.closing || wasOpen }

/-! ### Line Standing (R143 to R149) -/

/-- R140: the Outbound Queue opens, and the Line Interface does not pick on these two admissions but after them (R149
step 5, R156 step 6; log 36). -/
def openLine (s : State) : State := dropPick (openOutbound s)

/-- R146: entry into Withdrawn. -/
def enterWithdrawn (cause : StandingCause) (s : State) : State :=
  let s := dropPick (setStanding .withdrawn cause { s with score := 192, recovery := 0 })
  if s.lifecycle = .online then closeOutbound true s else s

/-- R142, R145, R146: the score moves to a new value, with what the standing then becomes. A Withdrawn station's score
stays. -/
def moveScore (n : Nat) (cause : StandingCause) (s : State) : State :=
  if s.standing = .withdrawn then s
  else if 192 ≤ n then enterWithdrawn cause s
  else if s.lifecycle = .online then setStanding (standingFor n) cause { s with score := n }
  else { s with score := n }

/-- R149: the return to Engaged from Withdrawn. -/
def returnEngaged (cause : StandingCause) (s : State) : State :=
  let s := setStanding .engaged cause { s with score := 0, recovery := 0 }
  if s.lifecycle = .online then openLine s else s

/-- Whether the receiver's results and the roster are kept: Listening or Online (R144, R162). -/
def State.onLine (s : State) : Bool := s.lifecycle == .listening || s.lifecycle == .online

/-- R148: a clean observation of a Withdrawn station. -/
def observe (s : State) : State :=
  if s.standing == .withdrawn && s.onLine then
    let n := min 48 (s.recovery + 1)
    let s := { s with recovery := n }
    if n == 48 && s.config.autoRejoin then returnEngaged .recovery s else s
  else s

/-- R144: the result of a followed frame reaches Line Standing. -/
def receiveResult (clean : Bool) (s : State) : State :=
  if s.onLine then
    if clean then if s.standing = .withdrawn then observe s else moveScore (s.score - 1) .receive s
    else moveScore (s.score + 1) .receive s
  else s

/-! ### The end of an attempt (R115 to R117) -/

/-- The results of an attempt (R116). -/
inductive AttemptResult where
  | clean | rejected | echo
  deriving DecidableEq, Repr

/-- R117 step 1, R52: the pending emission of a carried MARK leaves the list and its arrival is taken. -/
def loopBackCarried (id : Nat) (s : State) : State :=
  match s.emissions.find? fun e => e.frame == id with
  | some e =>
    settle (handLoopBack e.mark e.stamp { s with emissions := s.emissions.filter fun e => e.frame != id })
  | none => s

/-- R134: the held update of a departed PRESENCE is asked for as a new one, or skipped. -/
def askHeld (held : Option Presence) (s : State) : State :=
  match held with
  | some p =>
    match admission .broadcast (.presence p) s with
    | some t => t
    | none => s
  | none => s

/-- R135, R137: a frame leaves the Outbound Queue. -/
def removeFrame (id : Nat) (s : State) : State :=
  releasePost id { s with outbound := s.outbound.filter fun g => g.id != id }

/-- R135, R136: a frame fails an attempt: it stays with one attempt more, superseded by its held update if it has one, or
on its eighth attempt is abandoned. -/
def failFrame (echo : Bool) (f : OutFrame) (s : State) : State :=
  if 7 ≤ f.attempts then
    let s := notify (.frameAbandoned f.payload.kind f.dest f.sequence echo) (removeFrame f.id s)
    askHeld f.held (departed f.id (dropEmission f.id s))
  else
    let g := { f with attempts := f.attempts + 1, inFlight := false, held := none }
    let s := { s with outbound := replaceFrame s.outbound g f.id }
    match f.held with
    | some p => supersede g p s
    | none => s

/-- R135: the Outbound Queue takes the result of an attempt of a frame. -/
def takeResult (r : AttemptResult) (f : OutFrame) (s : State) : State :=
  match r with
  | .clean => askHeld f.held (departed f.id (removeFrame f.id s))
  | .rejected => failFrame false f s
  | .echo => failFrame true f s

/-- R117: the result of the attempt in flight is handed on: the Mark Emitter, the Outbound Queue, the yield flag, Line
Standing. -/
def attemptResult (r : AttemptResult) (s : State) : State :=
  match s.lif.flight with
  | none => s
  | some fl =>
    let s := { s with lif := { s.lif with transmitter := .silent, flight := none } }
    let s := if r = .echo then s else loopBackCarried fl.frame s
    let s :=
      match s.outbound.find? fun f => f.id == fl.frame with
      | some f => takeResult r f s
      | none => s
    match r with
    | .clean => moveScore (s.score - 1) .transmit { s with lif := { s.lif with yielding := true } }
    | _ => moveScore (s.score + 8) .transmit s

/-! ### What the line interface drives (R106, R115, R119) -/

/-- The characters of the frame in flight (R107, R119). -/
def State.charsInFlight (s : State) : Option (List Byte) :=
  match s.lif.flight with
  | some fl => (s.outbound.find? fun f => f.id == fl.frame).map (frameChars s.station)
  | none => none

/-- Bit k of a character on the line, true for dominant: the start bit, eight data bits, the stop bit (R106). -/
def charDominant (c : Byte) (k : Nat) : Bool :=
  if k = 0 then true else if k ≤ 8 then !bit c (k - 1) else false

/-- Whether the transmitter drives the line dominant in the present bit time. -/
def State.drivesDominant (s : State) : Bool :=
  match s.lif.transmitter, s.lif.flight, s.charsInFlight with
  | .sending, some fl, some chars => charDominant (byteAt chars (fl.bits / 10)) (fl.bits % 10)
  | _, _, _ => false

end Sys2Proof.Machine
end

