-- ==== Sys2Proof/Machine/Receive.lean ====
section
/-! DEFINITION. What a received frame does: the roster, the sequence law, the halt list, the Post Table, peer appends and
entry into Conflict (R7, R99 to R101, R123 to R125, R159, R162 to R164, R172 to R176). -/

namespace Sys2Proof.Machine

/-! ### Appends (R8, R24) -/

/-- R4, R7, R8: an accepted segment joins the tail. A first entry makes the axis GATED and is to be evaluated. -/
def enqueue (g : Segment) (origin : Origin) (s : State) : State :=
  let e : Entry := { segment := g, origin, state := .waiting, consumed := false }
  if s.queue.isEmpty then
    handEvaluate { s with queue := [e], axis := { s.axis with state := .gated } }
  else { s with queue := s.queue ++ [e] }

/-- R7, R176: a POST is taken as a peer append and answered. The answer is asked for before the new head is evaluated
(log 24). -/
def takePost (n : Station) (q : Seq) (bytes : List Byte) (s : State) : State :=
  let tag := byteAt bytes 1
  let refuse (r : RefusalReason) : State := answerPeer n q (.refused r) tag s
  if !s.config.postMask.getLsbD n.val then refuse .notPermitted
  else if s.lifecycle ≠ .online then refuse .state
  else if s.halted then refuse .halted
  else if 32 ≤ s.queue.length then refuse .full
  else
    match validSegment s.config bytes with
    | some g => answerPeer n q .taken tag (enqueue g (.peer n q) s)
    | none => refuse .invalid

/-- R7, R176: every POST handed on and not yet taken is taken, oldest first. -/
def takePosted (s : State) : State :=
  s.posted.foldl (fun s p => takePost p.source p.sequence p.segment s) { s with posted := [] }

/-! ### Hand-on of a POST (R7, R125) -/

/-- Whether the receiver takes frames: on the line, and the transmitter neither Sending nor Listening-back (R123). -/
def State.receives (s : State) : Bool :=
  s.onLine && s.lif.receiver != .off && (s.lif.transmitter == .silent || s.lif.transmitter == .waiting)

/-- R7: whether the command that waits next takes the part out of Online: a LEAVE, or a clean frame with the own number as
source. It has come in the present period of the clock. -/
def State.overtaken (s : State) : Bool :=
  s.lifecycle == .online &&
    match s.pending with
    | .leave :: _ => s.awaitsCommand
    | .frameTaken f :: _ => s.receives && rxClean f && (rxHeader f).any fun h => h.source == s.station
    | _ => false

/-- R7, R125, R176: a POST is handed on to the Segment Queue and taken there. Where a LEAVE or an entry into Conflict comes
in the same period of the clock, a free value decides whether the queue takes the POST before it, or finds it after the
part has left Online (takePosted; log 50). -/
def handPost (n : Station) (q : Seq) (bytes : List Byte) (s : State) : State :=
  if s.overtaken then
    let t := { s with free := s.free + 1 }
    if Config.postTakenFirst s.free then takePost n q bytes t
    else { t with posted := t.posted ++ [{ source := n, sequence := q, segment := bytes }] }
  else takePost n q bytes s

/-! ### The roster (R161 to R164) -/

/-- The roster entry of a station. -/
def State.peer (s : State) (n : Station) : RosterEntry := s.roster.getD n.val (.blank .absent)

/-- The roster with one entry replaced. -/
def setPeer (n : Station) (e : RosterEntry) (s : State) : State := { s with roster := s.roster.set n.val e }

/-- The notice of a refresh, for the state it finds (R162). -/
def refreshNotice (n : Station) (k : FrameKind) : PeerState → Option Notice
  | .absent => some (.peerJoined n k)
  | .lapsed => some (.peerReturned n k)
  | .present | .self => none

/-- R162: a clean frame from another station refreshes its entry. -/
def refreshPeer (n : Station) (k : FrameKind) (s : State) : State :=
  let e := s.peer n
  let t := setPeer n { e with state := .present, lapse := s.lapseTime e } s
  match refreshNotice n k e.state with
  | some x => notify x t
  | none => t

/-- R124: whether a frame is new, against the last sequence the roster holds. The retry flag has no part in it (R107). -/
def State.isNew (s : State) (h : RxHeader) : Bool := (s.peer h.source).lastSequence != some h.sequence

/-- R177: whether a frame is the retry of a POST already received clean. Where a frame of a lower class has passed it (R119),
R124's comparison calls it new, and it still gives no second entry and no second answer (log 51). -/
def State.retriesPost (s : State) (h : RxHeader) : Bool := h.kind == .post && (s.peer h.source).postRetry == some h

/-- R119, R177: the retry that may still come once a frame is heard. After a POST it is that POST with its retry flag set.
A PRESENCE shows that its source holds no POST that it has attempted (R134); frames of the lower classes may pass a
retry (R119). -/
def retryDue (h : RxHeader) (before : Option RxHeader) : Option RxHeader :=
  match h.kind with
  | .post => some { h with retry := true }
  | .presence => none
  | .halt | .lift | .mark | .answer => before

/-- R124 step 3, R177: the frame's sequence becomes the last sequence, and a POST is noted. -/
def recordFrame (h : RxHeader) (s : State) : State :=
  let e := s.peer h.source
  setPeer h.source { e with lastSequence := some h.sequence, postRetry := retryDue h e.postRetry } s

/-- R163 steps 1 and 2: the period, with the lapse timer, and the summary of a PRESENCE. -/
def recordPresence (n : Station) (p : Presence) (s : State) : State :=
  setPeer n
    { s.peer n with period := some p.period, lapse := ms (10 * (3 * p.period.toNat)), summary := some p } s

/-- R164, R177: a Present peer lapses. It is heard afresh afterwards: neither its last sequence nor a
POST of it is held. -/
def lapsePeer (n : Station) (s : State) : State :=
  let e := s.peer n
  losePosts (fun x => x.dest == n) .lapsed
    (notify (.peerLapsed n (s.lapseUnits e))
      (setPeer n { e with state := .lapsed, lapse := 0, lastSequence := none, postRetry := none } s))

/-! ### The halt list (R98 to R102) -/

/-- The halt-list entry of a station. -/
def State.haltOf (s : State) (n : Station) : Option HaltEntry := s.halts.getD n.val none

/-- R99, R101: an entry is added or replaced, with its notice and its stop. -/
def enterHalt (n : Station) (h : HaltEntry) (s : State) : State :=
  orderStop h.kind
    (notify (.haltEntered n h.reason h.kind h.learned) { s with halts := s.halts.set n.val (some h) })

/-- R100 to R102: an entry is removed, with its notice. -/
def removeHalt (n : Station) (way : ClearedWay) (s : State) : State :=
  notify (.haltCleared n way) { s with halts := s.halts.set n.val none }

/-- R100: when the list has become empty, the head is to be evaluated. -/
def haltsChanged (s : State) : State := if s.haltListed then s else handEvaluate s

/-- R100, R101: the entry of a source is removed when one is held. -/
def clearHalt (n : Station) (way : ClearedWay) (s : State) : State :=
  match s.haltOf n with
  | some _ => haltsChanged (removeHalt n way s)
  | none => s

/-- R99: a HALT is taken. -/
def takeHalt (n : Station) (payload : List Byte) (s : State) : State :=
  enterHalt n { reason := byteAt payload 0, kind := rxStopKind (byteAt payload 1), learned := .frame } s

/-- R101: a PRESENCE reconciles its source's entry with its halt-raised flag. -/
def reconcile (n : Station) (p : Presence) (s : State) : State :=
  if p.haltRaised then
    match s.haltOf n with
    | some _ => s
    | none => enterHalt n { reason := p.reason, kind := .decelerating, learned := .presence } s
  else clearHalt n .presence s

/-! ### The Post Table (R172, R173) -/

/-- Whether an entry is the one with this destination and sequence. -/
def PostEntry.isFor (e : PostEntry) (n : Station) (q : Seq) : Bool := e.dest == n && e.sequence == q

/-- The Post Table without the entry of this destination and sequence. -/
def closePost (n : Station) (q : Seq) (s : State) : State :=
  { s with posts := s.posts.filter fun e => !e.isFor n q }

/-- R172: an entry is marked Taken, its timer stopped. -/
def PostEntry.take (e : PostEntry) : PostEntry := { e with state := .taken, timer := 0 }

/-- R172: an answer is taken at its matching entry. -/
def answerPost (e : PostEntry) (k : AnswerKind) (s : State) : State :=
  match k with
  | .taken => { s with posts := s.posts.map fun x => if x.isFor e.dest e.sequence then x.take else x }
  | .refused r => notify (.postRefused e.dest e.sequence e.tag r) (closePost e.dest e.sequence s)
  | .finished o => notify (.postFinished e.dest e.sequence e.tag o) (closePost e.dest e.sequence s)

/-- The answered sequence of an ANSWER (R195). -/
def answeredSeq (payload : List Byte) : Seq := Fin.ofNat 16 (field (byteAt payload 0) 0 4)

/-- R172, R173, R196: an ANSWER is taken, or discarded with LATE_ANSWER when it matches no entry or says nothing. -/
def takeAnswer (n : Station) (payload : List Byte) (s : State) : State :=
  let q := answeredSeq payload
  let late := notify
    (.lateAnswer n q (BitVec.ofNat 2 (field (byteAt payload 0) 4 2)) (byteAt payload 2)) s
  match rxAnswer payload, s.posts.find? fun e => e.isFor n q with
  | some k, some e => answerPost e k s
  | _, _ => late

/-! ### Dispatch (R125) -/

/-- Whether a frame's destination is everyone or this station (R125). -/
def forStation (own : Station) : Dest → Bool
  | .broadcast => true
  | .station n => n == own

/-- R125: a new frame for this station goes to the block that owns its kind, as the lifecycle allows. -/
def dispatch (h : RxHeader) (s : State) : State :=
  match h.kind with
  | .presence =>
    let p := rxPresence h.payload
    reconcile h.source p (recordPresence h.source p s)
  | k =>
    if s.lifecycle = .online then
      match k with
      | .halt => takeHalt h.source h.payload s
      | .lift => clearHalt h.source .lift s
      | .mark =>
        match rxMark h.payload with
        | some (m, stamp) => takeArrival { source := h.source, mark := m, stamp } s
        | none => s
      | .answer => takeAnswer h.source h.payload s
      | .post => handPost h.source h.sequence h.payload s
      | .presence => s
    else s

/-- R124, R125, R162: a clean frame from another station: the refresh, the sequence law, the dispatch. A POST that is the
retry of one received clean reaches nothing more (R177). -/
def takeFromPeer (h : RxHeader) (s : State) : State :=
  let t := refreshPeer h.source h.kind s
  let taken := t.isNew h && !t.retriesPost h
  let t := recordFrame h t
  if taken && forStation s.station h.dest then dispatch h t else t

/-! ### Conflict (R159) -/

/-- R144, R159: the frame that brings Conflict is counted clean, without a change of standing (log 12). -/
def countConflictFrame (s : State) : State :=
  if s.standing = .withdrawn then { s with recovery := min 48 (s.recovery + 1) } else { s with score := s.score - 1 }

/-- R152, R159 step 3: a Reticent standing becomes Engaged on leaving Online. -/
def endReticence (s : State) : State :=
  if s.standing = .reticent then setStanding .engaged .lifecycle s else s

/-- R159: entry into Conflict. A POST handed on before it and not yet taken is taken after it (R7). -/
def enterConflict (h : RxHeader) (s : State) : State :=
  let n : Notice := .conflict h.kind h.sequence s.lifecycle s.standing
  let t := countConflictFrame s
  let t := lineOff (endReticence (notify n { t with lifecycle := .conflict, listenTimer := 0, presenceTimer := 0 }))
  let t := if s.lifecycle = .online then closeOutbound s.canSend t else t
  takePosted (orderStop .decelerating t)

/-! ### The receiver (R109, R110, R115, R121 to R123) -/

/-- R115: a frame followed after an echo fault clears the yield flag as at its start. -/
def clearYieldAfterEcho (s : State) : State :=
  match s.lif.reception with
  | some r => if r.afterEcho then { s with lif := { s.lif with yielding := false } } else s
  | none => s

/-- The reception as a followed frame leaves it: its characters, its sample record, the fault found. -/
def noteFrame (f : RxFrame) (s : State) : State :=
  let after := match s.lif.reception with
    | some r => r.afterEcho
    | none => false
  { s with
    lif := { s.lif with
      receiver := .trailing
      reception := some { chars := f.chars.length, noisy := f.noise, fault := !rxClean f, afterEcho := after } } }

/-- R123: the end of the last check character of a followed frame: a clean one is taken, a conflict or a peer's frame; a
faulty one is discarded (R122). -/
def frameEnds (f : RxFrame) (s : State) : State :=
  if s.receives then
    let s := clearYieldAfterEcho (noteFrame f s)
    if rxClean f then
      match rxHeader f with
      | some h => if h.source = s.station then enterConflict h s else takeFromPeer h s
      | none => s
    else s
  else s

/-- The receiver hunts again, with the idle reference set (R109). -/
def hunt (gone : Nat) (s : State) : State :=
  setReference gone { s with lif := { s.lif with receiver := .hunting, reception := none } }

/-- R122: whether this receiver drives the reject window of a followed frame: it is faulty and not truncated, and the
station is Online and Engaged. -/
def State.rejects (s : State) (f : RxFrame) : Bool :=
  !rxClean f && !(rxErrors f).contains .truncation && s.lifecycle == .online && s.standing == .engaged

/-- R110, R122, R144: a followed frame reaches the end of its reject window. -/
def windowEnds (f : RxFrame) (s : State) : State :=
  if s.receives then
    let reject := s.rejects f
    let s := receiveResult (rxClean f) (clearYieldAfterEcho s)
    hunt 0 { s with lif := { s.lif with rejectDriven := reject } }
  else s

/-- R110, R115: the frame being followed is truncated: faulty, but for one that follows an echo fault. Ten bit times of
idle line have gone (log 14). -/
def truncate (s : State) : State :=
  if s.receives then
    let own := match s.lif.reception with
      | some r => r.afterEcho
      | none => false
    let s := if own then s else receiveResult false s
    hunt 10 (noReject s)
  else s

end Sys2Proof.Machine
end

