-- ==== Sys2Proof/Machine/Axis.lean ====
section
/-! DEFINITION. Events at the axis signals: input changes, encoder edges, pulses and dwells (R25, R35, R44, R77, R82 to
R86), and their commands INPUT_CHANGE, ENCODER_EDGE, STEP_PULSE, DWELL_EXPIRY. -/

namespace Sys2Proof.Machine

/-! ### A change of an input (R82) -/

/-- R86: whether a limit becoming Active is a cause: the axis moves toward it and the running segment is not exempt
(R34). R34 also lists among the limits that still raise causes the limit that a SEEK has as its seek input and moves away
from; its last paragraph has that limit as the find and not in the way. The model follows the latter and R86: it raises no
cause (DEDUCED, log 53). -/
def limitStops (d : Dir) (s : State) : Bool :=
  s.axis.state.moving && s.axis.dir == d && s.inputActive (limitInput d) &&
    !(match s.runningHead with
      | some e => e.segment.body.exemptLimit d
      | none => false)

/-- R85, R86: the Stop Supervisor's part of a change. -/
def stopOnInput (i : Input) (s : State) : State :=
  match i with
  | .estop => if s.inputActive .estop then raiseCause .estop s else s
  | .drvflt => if s.inputActive .drvflt then raiseCause .drvflt s else s
  | .limp => if limitStops .plus s then raiseCause .limitPlus s else s
  | .limn => if limitStops .minus s then raiseCause .limitMinus s else s
  | _ => s

/-- R77: the set-up that a change of IN0 or IN1 to Active (rising) or Inactive triggers. -/
def edgeOf (i : Input) (active : Bool) : CaptureSetup :=
  match i, active with
  | .in0, true => .in0Rising
  | .in0, false => .in0Falling
  | .in1, true => .in1Rising
  | .in1, false => .in1Falling
  | _, _ => .none

/-- R77: whether an edge triggers a slot. -/
def edgeTriggers (e : CaptureSetup) (s : State) (slot : Fin 4) : Bool :=
  e != .none && (s.captures.getD slot.val .cleared).setup == e

/-- R77: the slots that an edge triggers, in ascending number. -/
def captureEdge (e : CaptureSetup) (s : State) : State :=
  ([0, 1, 2, 3].filter (edgeTriggers e s)).foldl (fun s slot => trigger slot (.edge e) s) s

/-- R11, R32: the SEEK and the gates see a change of an input, and all that they hand on is taken: heads that start, own marks
looped back, the requests of the entries these reach. R80 and R82 do not order what is handed on so against an edge of
the same change that still has to reach a capture slot: that it is all taken first is the model's (DESIGN CHOICE,
log 54). -/
def moveOnInput (i : Input) (s : State) : State := settle (handInput i (seekInputChange watchNow i s))

/-- R82: a change of an input between Active and Inactive reaches every block that uses it. Where a capture slot and the
SEEK or a gate both use it, their order is a free value (log 10). The edge reaches a slot before the SEEK and the gates, or
after all that they hand on, a CAPTURE request to the same slot included; never in between (DESIGN CHOICE, log 54). -/
def inputChanged (i : Input) (s : State) : State :=
  let s := stopOnInput i s
  let e := edgeOf i (s.inputActive i)
  if [0, 1, 2, 3].any (edgeTriggers e s) then
    let t := { s with free := s.free + 1 }
    if Config.captureFirst s.free then moveOnInput i (captureEdge e t) else captureEdge e (moveOnInput i t)
  else moveOnInput i s

/-- R82: the filtered level of an input becomes this level. No change, no effect. -/
def inputBecomes (i : Input) (high : Bool) (s : State) : State :=
  let x := s.inputs.get i
  if x.level = high then s else inputChanged i { s with inputs := s.inputs.set i (x.taken high) }

/-- INPUT_CHANGE (R82). -/
def execInputChange (i : Input) (high : Bool) (s : State) : Host.Outcome State Fault Refusal :=
  .next (settle (inputBecomes i high s))

/-! ### Encoder edges (R44) -/

/-- R44: the place of a pair of levels in the quadrature cycle. -/
def quadPlace (a b : Bool) : Nat :=
  match a, b with
  | false, false => 0
  | true, false => 1
  | true, true => 2
  | false, true => 3

/-- R44: the counts that a change of the pair makes, in order. Both up/down inputs rising together make one count each
way (log 18). -/
def encoderCounts (m : EncoderMode) (a b a' b' : Bool) : List Dir :=
  match m with
  | .off => []
  | .quadrature =>
    match (quadPlace a' b' + 4 - quadPlace a b) % 4 with
    | 1 => [.plus]
    | 3 => [.minus]
    | _ => []
  | .upDown => (if !a && a' then [.plus] else []) ++ (if !b && b' then [.minus] else [])

/-- R44, R45, R71: one count of the measured position, which wraps; the watches and the gap check take it, and all it hands
on is taken before another count. -/
def countEncoder (s : State) (d : Dir) : State :=
  let p := match d with
    | .plus => s.measured + 1
    | .minus => s.measured - 1
  settle (checkGap (watchNow [(.measured, p)] { s with measured := p }))

/-- R44: the encoder inputs take new levels. -/
def encoderEdge (a b : Bool) (s : State) : State :=
  (encoderCounts s.config.encoder s.encA s.encB a b).foldl countEncoder { s with encA := a, encB := b }

/-- ENCODER_EDGE (R44). -/
def execEncoderEdge (a b : Bool) (s : State) : Host.Outcome State Fault Refusal := .next (settle (encoderEdge a b s))

/-! ### Pulses and dwells -/

/-- STEP_PULSE (R25): one pulse of the running motion. Nothing when none moves. -/
def execStepPulse (s : State) : Host.Outcome State Fault Refusal := .next (settle (pulse watchNow s))

/-- DWELL_EXPIRY (R35). Nothing when no DWELL runs. -/
def execDwellExpiry (s : State) : Host.Outcome State Fault Refusal := .next (settle (dwellDone s))

end Sys2Proof.Machine
end

