-- ==== Sys2Proof/Machine/Lifecycle.lean ====
section
/-! DEFINITION. The lifecycle commands: HARD_RESET, WRITE_CONFIG, JOIN, LEAVE, REJOIN, RESTART (R150, R153 to R158,
R188, R189). -/

namespace Sys2Proof.Machine

/-! ### Resets (R158 and the reset rule of each block) -/

/-- R158: the part after a hard reset with these straps. The encoder pins and the level of the line stay as they
are, and the queue of commands and the free values are the model's own. -/
def hardReset (straps : Straps) (s : State) : State :=
  { State.reset with
    station := straps.number, bitRate := .ofStraps straps.rate, roster := rosterOf straps.number
    encA := s.encA, encB := s.encB, lif := { Lif.cleared with dominant := s.lif.dominant }
    pending := s.pending, free := s.free }

/-- HARD_RESET (R158). -/
def execHardReset (straps : Straps) (s : State) : Host.Outcome State Fault Refusal := .next (hardReset straps s)

/-- R104: an input held Active at a RESTART enters its cause anew. -/
def refill (i : Input) (c : Cause) (s : State) : State := if s.inputActive i then raiseCause c s else s

/-- R158 steps 1 to 4: every block at its value after RESTART. The configuration block, the samples, the direction with
its output, the encoder pins, the level of the line and the transaction are kept. -/
def restartCleared (straps : Straps) (s : State) : State :=
  { State.reset with
    config := s.config, station := straps.number, bitRate := .ofStraps straps.rate, lifecycle := .configured
    roster := rosterOf straps.number
    axis := { Axis.cleared with dir := s.axis.dir, pulseMode := s.axis.pulseMode, pulseOut := s.axis.pulseOut }
    encA := s.encA, encB := s.encB, lif := { Lif.cleared with dominant := s.lif.dominant }, inputs := s.inputs
    port := s.port, bitPhase := s.bitPhase
    pending := s.pending, free := s.free }

/-- R158: RESTART. -/
def restart (straps : Straps) (s : State) : State :=
  refill .drvflt .drvflt (refill .estop .estop (restartCleared straps s))

/-- RESTART (R158). -/
def execRestart (straps : Straps) (s : State) : Host.Outcome State Fault Refusal :=
  onPort (fun s => .next (settle (restart straps (respond .ok [] s)))) s

/-! ### WRITE_CONFIG (R188, R189) -/

/-- R189 step 1: one input is judged again by its new active level. -/
def rejudge (old : ConfigBlock) (s : State) (i : Input) : State :=
  if activeLevel old i = activeLevel s.config i then s else inputChanged i s

/-- R189 step 2: a changed encoder mode sets the measured position to the command position. -/
def encoderModeChanged (old : ConfigBlock) (s : State) : State :=
  if old.encoder = s.config.encoder then s
  else settle (watchNow [(.measured, s.command)] { s with measured := s.command })

/-- R189 step 3: the following-gap check, when its limit or the encoder mode changed. -/
def gapLimitChanged (old : ConfigBlock) (s : State) : State :=
  if old.encoder = s.config.encoder ∧ old.gapLimit = s.config.gapLimit then s else checkGap s

/-- R188, R189: the block is replaced, with its effects. -/
def replaceConfig (c : ConfigBlock) (s : State) : State :=
  let t := { s with config := c, lifecycle := .configured }
  gapLimitChanged s.config (encoderModeChanged s.config (allInputs.foldl (rejudge s.config) t))

/-- R188: the answer of WRITE_CONFIG, with the block as it stands. -/
def respondConfig (code : ResultCode) (s : State) : State := respond code s.config.bytes s

/-- R188: WRITE_CONFIG is checked and taken. -/
def writeConfig (block : List Byte) (s : State) : State :=
  if s.lifecycle = .unconfigured ∨ s.lifecycle = .configured then
    match configOfBytes block with
    | some c => respondConfig .ok (replaceConfig c s)
    | none => respondConfig .invalid s
  else respondConfig .state s

/-- WRITE_CONFIG (R188). -/
def execWriteConfig (block : List Byte) (s : State) : Host.Outcome State Fault Refusal :=
  onPort (fun s => .next (settle (writeConfig block s))) s

/-! ### JOIN (R155) -/

/-- R109, R155: the receiver leaves Off. On a recessive line its first reference is set at once; on a dominant one the
counts stand at 0 until the line is found recessive (LINE_ACTIVITY). -/
def leaveOff (s : State) : State :=
  if s.lif.dominant then
    { s with
      lif := { s.lif with receiver := .hunting, reception := none, idle := 0, quiet := 0, roundDone := false } }
  else hunt 0 s

/-- R155: the Listening time starts and the receiver leaves Off. -/
def join (s : State) : State :=
  leaveOff { s with lifecycle := .listening, listenTimer := ms (20 * s.config.presencePeriod.toNat) }

/-- JOIN (R155). -/
def execJoin (s : State) : Host.Outcome State Fault Refusal :=
  onPort (fun s =>
    if s.lifecycle = .configured then .next (respond .ok [] (join s)) else .next (respond .state [] s)) s

/-! ### LEAVE (R157) -/

/-- R69: the tallies become 0 and the overflow flags clear. -/
def zeroTallies (s : State) : State :=
  { s with reactions := s.reactions.map fun r => { r with tally := 0, overflow := false } }

/-- R105: the Halt Table is cleared. -/
def clearHaltTable (s : State) : State := { s with ownHalt := .clear, halts := List.replicate 32 none }

/-- R128, R168: the roster is reset and the yield flag clears. -/
def clearRoster (s : State) : State :=
  { s with roster := rosterOf s.station, lif := { s.lif with yielding := false } }

/-- R152: Line Standing at LEAVE. -/
def clearStanding (s : State) : State := setStanding .engaged .lifecycle { s with score := 0, recovery := 0 }

/-- R157 steps 1 to 3: off the line, Configured, the axis stopped and the queue flushed. -/
def leaveLine (s : State) : State :=
  settle (orderStop .immediate
    { lineOff s with lifecycle := .configured, listenTimer := 0, presenceTimer := 0, closing := false })

/-- R157: LEAVE, step by step. A POST handed on before it and not yet taken is taken after it (R7). -/
def leave (s : State) : State :=
  let s := losePosts (fun _ => true) .left (emptyOutbound .left (leaveLine s))
  takePosted (clearStanding (clearRoster (clearHaltTable (zeroTallies s))))

/-- LEAVE (R157). -/
def execLeave (s : State) : Host.Outcome State Fault Refusal :=
  onPort (fun s => if s.onLine then .next (settle (respond .ok [] (leave s))) else .next (respond .state [] s)) s

/-! ### REJOIN (R150) -/

/-- R150: the answer of REJOIN, with the score and the recovery count as they stand. -/
def respondStanding (code : ResultCode) (s : State) : State :=
  respond code [byteOfNat s.score, byteOfNat s.recovery] s

/-- Whether REJOIN returns the station to Engaged (R150). -/
def State.mayRejoin (s : State) : Bool := s.standing == .withdrawn && s.onLine && decide (48 ≤ s.recovery)

/-- REJOIN (R150). -/
def execRejoin (s : State) : Host.Outcome State Fault Refusal :=
  onPort (fun s =>
    if s.mayRejoin then .next (respondStanding .ok (returnEngaged .rejoin s)) else .next (respondStanding .state s)) s

end Sys2Proof.Machine
end

