-- ==== Sys2Proof/Machine/Queue.lean ====
section
/-! DEFINITION. The queue and stop commands: APPEND_SEGMENT, FLUSH, STOP, ABORT, ACKNOWLEDGE (R4, R20, R91, R92), and the
halt commands RAISE_HALT, LIFT_HALT, DISMISS (R95, R96, R102). -/

namespace Sys2Proof.Machine

/-! ### APPEND_SEGMENT (R4) -/

/-- Check 1 of R4: the lifecycle takes local appends. -/
def State.takesAppends (s : State) : Bool :=
  s.lifecycle == .configured || s.lifecycle == .listening || s.lifecycle == .online

/-- R4: a local append, its checks in order. The depth is the one after the append. -/
def appendLocal (bytes : List Byte) (s : State) : State :=
  if !s.takesAppends then respond .state [] s
  else if s.halted then respond .halted [] s
  else if 32 ≤ s.queue.length then respond .full [] s
  else
    match validSegment s.config bytes with
    | some g => respond .ok [byteOfNat (s.queue.length + 1)] (enqueue g .localPort s)
    | none => respond .invalid [] s

/-- APPEND_SEGMENT (R4). -/
def execAppendSegment (bytes : List Byte) (s : State) : Host.Outcome State Fault Refusal :=
  onPort (fun s => .next (settle (appendLocal bytes s))) s

/-! ### FLUSH (R20) -/

/-- R20: the entries that are neither Running nor Committed retire Flushed, in queue order. -/
def flushWaiting (s : State) : State :=
  let keep := s.queue.filter fun e => e.state != .waiting
  let gone := s.queue.filter fun e => e.state == .waiting
  flushEntries gone
    { s with
      queue := keep
      axis := if keep.isEmpty && s.axis.state == .gated then { s.axis with state := .idle } else s.axis }

/-- R20: how many entries a FLUSH removes. -/
def State.flushCount (s : State) : Nat := s.queue.countP fun e => e.state == .waiting

/-- FLUSH (R20). -/
def execFlush (s : State) : Host.Outcome State Fault Refusal :=
  onPort (fun s => .next (settle (respond .ok [byteOfNat s.flushCount] (flushWaiting s)))) s

/-! ### STOP and ABORT (R91) -/

/-- STOP (R91). -/
def execStop (s : State) : Host.Outcome State Fault Refusal :=
  onPort (fun s => .next (settle (respond .ok [] (orderStop .decelerating s)))) s

/-- ABORT (R91). -/
def execAbort (s : State) : Host.Outcome State Fault Refusal :=
  onPort (fun s => .next (settle (respond .ok [] (orderStop .immediate s)))) s

/-! ### The own halt lifted (R96) -/

/-- R96: a lift: the own halt becomes clear, the lift is announced, and the head is to be evaluated when nothing else
blocks it. -/
def liftOwnHalt (s : State) : State :=
  let t := announceHalt { s with ownHalt := .clear }
  if t.halted then t else handEvaluate t

/-! ### ACKNOWLEDGE (R92) -/

/-- R92 step 1: the causes that stay: ESTOP and DRVFLT while their inputs are Active. -/
def State.standingFaults (s : State) : FaultSet :=
  { FaultSet.empty with
    estop := s.faults.estop && s.inputActive .estop
    drvflt := s.faults.drvflt && s.inputActive .drvflt }

/-- R92 steps 1 and 2: the causes whose condition has gone are removed, and a gap still too great is raised anew. -/
def removeCauses (s : State) : State :=
  let t := { s with faults := s.standingFaults }
  if s.faults.followingGap then checkGap t else t

/-- R92 step 3: a halt raised by a cause lifts when no propagating cause is left. -/
def liftByAcknowledge (s : State) : State :=
  if s.ownHalt.raised && s.ownHalt.how == .cause && s.propagatingCause.isNone then liftOwnHalt s else s

/-- R92 step 4: with the set empty the head is to be evaluated. -/
def faultsChanged (s : State) : State := if s.faults.nonempty then s else handEvaluate s

/-- R92: ACKNOWLEDGE. The set returned is the one after step 2, the own halt the one after step 3. -/
def acknowledge (s : State) : State :=
  if s.faults.nonempty then
    let t := removeCauses s
    let u := liftByAcknowledge t
    respond .ok [t.faults.byte, u.ownHaltByte] (faultsChanged u)
  else respond .ok [s.faults.byte, s.ownHaltByte] s

/-- ACKNOWLEDGE (R92). -/
def execAcknowledge (s : State) : Host.Outcome State Fault Refusal :=
  onPort (fun s => .next (settle (acknowledge s))) s

/-! ### RAISE_HALT, LIFT_HALT, DISMISS (R95, R96, R102) -/

/-- R95: the own halt is raised by command, the stop ordered, the halt announced. -/
def raiseByCommand (reason : Byte) (kind : StopKind) (s : State) : State :=
  announceHalt (orderStop kind
    { s with ownHalt := { s.ownHalt with raised := true, reason, kind, how := .command } })

/-- RAISE_HALT (R95). -/
def execRaiseHalt (reason kind : Byte) (s : State) : Host.Outcome State Fault Refusal :=
  onPort (fun s =>
    match StopKind.ofByte kind with
    | some k => .next (settle (respond .ok [] (raiseByCommand reason k s)))
    | none => .next (respond .invalid [] s)) s

/-- R96: LIFT_HALT on a halt raised by command: it lifts, or becomes a halt raised by the first propagating cause. -/
def liftByCommand (s : State) : State :=
  match s.propagatingCause with
  | some c =>
    respond .ok [1]
      (announceHalt
        { s with ownHalt := { s.ownHalt with reason := c.code, kind := .immediate, how := .cause } })
  | none => respond .ok [0] (liftOwnHalt s)

/-- LIFT_HALT (R96). -/
def execLiftHalt (s : State) : Host.Outcome State Fault Refusal :=
  onPort (fun s =>
    if s.ownHalt.raised && s.ownHalt.how == .command then .next (settle (liftByCommand s))
    else .next (respond .state [] s)) s

/-- R102: whether a station's halt-list entry is dismissed: one is held and the station is Lapsed or Absent. -/
def State.dismissed (s : State) (n : Station) : Bool :=
  (s.haltOf n).isSome && ((s.peer n).state == .lapsed || (s.peer n).state == .absent)

/-- R102: the stations whose entries DISMISS removes. R102 gives their removal no order: the model takes ascending station
numbers (log 43). -/
def State.toDismiss (s : State) : List Station := (List.finRange 32).filter s.dismissed

/-- R102: the dismissed entries are removed, each with its notice. -/
def dismiss (s : State) : State :=
  let t := s.toDismiss.foldl (fun s n => removeHalt n .dismissed s) s
  if s.toDismiss.isEmpty then t else haltsChanged t

/-- DISMISS (R102). -/
def execDismiss (s : State) : Host.Outcome State Fault Refusal :=
  onPort (fun s => .next (settle (respond .ok [byteOfNat s.toDismiss.length] (dismiss s)))) s

end Sys2Proof.Machine
end

