-- ==== Sys2Proof/Machine/Tables.lean ====
section
/-! DEFINITION. The mark and table commands: EMIT_MARK, SET_REACTION, CLEAR_REACTION, REARM, SET_WATCH, SET_CAPTURE,
READ_CAPTURE, POST_SEGMENT (R55, R65 to R67, R74, R77, R79, R170). -/

namespace Sys2Proof.Machine

/-! ### EMIT_MARK (R55) -/

/-- R55: EMIT_MARK on arguments with a meaning: the request, and whether its frame was admitted. -/
def emitMark (m : Mark) (stamp : Option Position) (s : State) : State :=
  respond .ok [byteOfBool (s.canSend && s.hasRoom 1)] (requestMark m stamp .command 0 s)

/-- EMIT_MARK (R55). -/
def execEmitMark (mark choice : Byte) (value : Position) (s : State) : Host.Outcome State Fault Refusal :=
  onPort (fun s =>
    match toFin? 64 mark.toNat, stampOf choice s.command value with
    | some m, some stamp => .next (settle (emitMark m stamp s))
    | _, _ => .next (respond .invalid [] s)) s

/-! ### The Reaction Table (R65 to R67) -/

/-- The reaction entry of an index. -/
def State.reaction (s : State) (e : Fin 24) : Reaction := s.reactions.getD e.val .cleared

/-- The Reaction Table with one entry replaced. -/
def setReactionAt (e : Fin 24) (r : Reaction) (s : State) : State := { s with reactions := s.reactions.set e.val r }

/-- SET_REACTION (R65). -/
def execSetReaction (index source mark action parameter mode : Byte) (s : State) :
    Host.Outcome State Fault Refusal :=
  onPort (fun s =>
    match toFin? 24 index.toNat, reactionOfBytes source mark action parameter mode with
    | some e, some r => .next (settle (respond .ok [] (handTally e (setReactionAt e r s))))
    | _, _ => .next (respond .invalid [] s)) s

/-- CLEAR_REACTION (R66). -/
def execClearReaction (index : Byte) (s : State) : Host.Outcome State Fault Refusal :=
  onPort (fun s =>
    match toFin? 24 index.toNat with
    | some e =>
      let r := s.reaction e
      .next (settle (respond .ok [byteOfNat r.tally, byteOfBool r.overflow]
        (handTally e (setReactionAt e { r with inUse := false, tally := 0, overflow := false } s))))
    | none => .next (respond .invalid [] s)) s

/-- REARM (R67). -/
def execRearm (index : Byte) (s : State) : Host.Outcome State Fault Refusal :=
  onPort (fun s =>
    match toFin? 24 index.toNat with
    | some e =>
      let r := s.reaction e
      if r.inUse then
        .next (respond .ok [byteOfBool r.spent, byteOfNat r.tally, byteOfBool r.overflow]
          (setReactionAt e { r with spent := false } s))
      else .next (respond .state [] s)
    | none => .next (respond .invalid [] s)) s

/-! ### Watches (R74) -/

/-- The record of a watch. -/
def State.watch (s : State) (w : Fin 4) : Watch := s.watches.getD w.val .cleared

/-- R74 step 3: the written record, Off or armed from the present value of its source. A level condition true at arming
hits inside the command. -/
def writeWatch (w : Fin 4) (r : Watch) (arm : Bool) (s : State) : State :=
  if arm then
    let p := s.sourceValue r.source
    let r := { r with state := .armed, previous := p }
    if r.condition.hitsAtArming r.value p then hitEffects w r s
    else { s with watches := s.watches.set w.val r }
  else { s with watches := s.watches.set w.val r }

/-- R74: SET_WATCH on arguments with a meaning. A change of state is handed on once. -/
def setWatch (w : Fin 4) (r : Watch) (arm : Bool) (s : State) : State :=
  let before := (s.watch w).state
  let t := writeWatch w r arm s
  let after := (t.watch w).state
  respond .ok [before.code, after.code] (if before = after then t else handWatch w t)

/-- SET_WATCH (R74). -/
def execSetWatch (watch enable source condition : Byte) (value : Position) (mark cut : Byte) (s : State) :
    Host.Outcome State Fault Refusal :=
  onPort (fun s =>
    match toFin? 4 watch.toNat, watchOfBytes enable source condition value mark cut with
    | some w, some (r, arm) => .next (settle (setWatch w r arm s))
    | _, _ => .next (respond .invalid [] s)) s

/-! ### Captures (R77, R79) -/

/-- The record of a capture slot. -/
def State.capture (s : State) (n : Fin 4) : Capture := s.captures.getD n.val .cleared

/-- SET_CAPTURE (R77). -/
def execSetCapture (slot setup : Byte) (s : State) : Host.Outcome State Fault Refusal :=
  onPort (fun s =>
    match toFin? 4 slot.toNat, CaptureSetup.ofCode setup.toNat with
    | some n, some e =>
      .next (respond .ok [] { s with captures := s.captures.set n.val { s.capture n with setup := e } })
    | _, _ => .next (respond .invalid [] s)) s

/-- R79, R199: a slot's record as READ_CAPTURE returns it. -/
def Capture.bytes (c : Capture) : List Byte :=
  [byteOfBool c.valid, byteOfBool c.missed, c.trigger.code] ++ tagBytes c.headTag ++ bytesOf 4 c.command ++
    bytesOf 4 c.measured

/-- READ_CAPTURE (R79): the record, and the slot emptied but for its set-up. -/
def execReadCapture (slot : Byte) (s : State) : Host.Outcome State Fault Refusal :=
  onPort (fun s =>
    match toFin? 4 slot.toNat with
    | some n =>
      let c := s.capture n
      .next (respond .ok c.bytes
        { s with captures := s.captures.set n.val { Capture.cleared with setup := c.setup } })
    | none => .next (respond .invalid [] s)) s

/-! ### POST_SEGMENT (R170) -/

/-- The Post Table entry that POST_SEGMENT makes (R170). -/
def newPost (n : Station) (tag : Byte) (s : State) : PostEntry :=
  { dest := n, sequence := s.lif.sequence, tag, state := .awaitingTake
    timer := ms (10 * s.config.answerWindow.toNat), frame := some s.nextFrame }

/-- R170 check 5: the admission of the POST with its entry, unless an entry to the same destination holds the sequence it
would take. -/
def admitPost (n : Station) (bytes : List Byte) (s : State) : Option State :=
  if s.posts.any fun e => e.isFor n s.lif.sequence then none
  else
    (admission (.station n) (.post bytes) s).map fun t => { t with posts := t.posts ++ [newPost n (byteAt bytes 1) s] }

/-- R170: POST_SEGMENT to a station, its checks in order, with the answer of check 1. An Outbound Queue that has closed
since refuses the POST at check 5 (R132). -/
def postChecked (may : Bool) (n : Station) (bytes : List Byte) (s : State) : State :=
  if !may then respond .state [] s
  else if (s.peer n).state ≠ .present then respond .absent [] s
  else if 4 ≤ s.posts.length then respond .full [] s
  else if (segmentOfBytes bytes).isNone then respond .invalid [] s
  else
    match admitPost n bytes s with
    | some t => respond .ok [byteOfNat s.lif.sequence.val] t
    | none => respond .full [] s

/-- R132, R170: POST_SEGMENT to a station. Where the Outbound Queue has closed in this same period of the clock, a free
value decides whether check 1 was made before the change or after it (log 47). -/
def postTo (n : Station) (bytes : List Byte) (s : State) : State :=
  if s.closing && !s.canSend then
    postChecked (Config.checkedBeforeClosing s.free) n bytes { s with free := s.free + 1 }
  else postChecked s.canSend n bytes s

/-- POST_SEGMENT (R170). -/
def execPostSegment (destination : Byte) (bytes : List Byte) (s : State) : Host.Outcome State Fault Refusal :=
  onPort (fun s =>
    match toFin? 32 destination.toNat with
    | some n => .next (postTo n bytes s)
    | none => .next (respond .invalid [] s)) s

end Sys2Proof.Machine
end

