-- ==== Sys2Proof/Machine/Reads.lean ====
section
/-! DEFINITION. The reading commands READ_STATUS, READ_ROSTER, READ_HALT_LIST, READ_NOTICE, the command code that is not
known, and the transaction's own events (R98, R167, R182 to R186, R191). -/

namespace Sys2Proof.Machine

/-! ### READ_STATUS (R186, R199) -/

/-- The 21 bytes of READ_STATUS. R23 has all of its table read there but what it marks "not reported"; the pulses remaining
and the planned exit speed bear no such mark, yet R186 and the 21 bytes of R199 hold neither, R47 does not name them, and
R182 has every byte after the result read 0. The model follows these (log 40). -/
def State.statusBytes (s : State) : List Byte :=
  [s.axis.state.code.zeroExtend 8] ++ bytesOf 3 (BitVec.ofNat 24 (s.axis.speed / 65536)) ++ [s.axis.dir.code] ++
    bytesOf 4 s.command ++ bytesOf 4 s.measured ++ [byteOfNat s.queue.length] ++ tagBytes s.headTag ++
    [s.faults.byte, s.ownHaltByte, s.ownHalt.reason, s.ownHalt.kind.code, byteOfNat s.haltCount]

/-- READ_STATUS (R186). -/
def execReadStatus (s : State) : Host.Outcome State Fault Refusal :=
  onPort (fun s => .next (respond .ok s.statusBytes s)) s

/-! ### READ_ROSTER (R167, R199) -/

/-- The last sequence byte: FFh for none. -/
def sequenceByte : Option Seq → Byte
  | none => 0xFF
  | some q => byteOfNat q.val

/-- The two bytes of the lapse time remaining: FFFFh when the timer is stopped. -/
def lapseBytes (t : Clocks) : List Byte := if t = 0 then [0xFF, 0xFF] else bytesOf 2 (BitVec.ofNat 16 (tensLeft t))

/-- The summary held byte and the summary. With none held the model writes 0 in its four bytes (log 42). -/
def summaryBytes : Option Presence → List Byte
  | none => [0, 0, 0, 0, 0]
  | some p => 1 :: p.bytes

/-- The 10 bytes of a roster entry. -/
def RosterEntry.bytes (e : RosterEntry) : List Byte :=
  [e.state.code, sequenceByte e.lastSequence, e.period.getD 0] ++ lapseBytes e.lapse ++ summaryBytes e.summary

/-- The 10 bytes for the own number, from the present state. -/
def State.selfBytes (s : State) : List Byte :=
  [PeerState.self.code, 0xFF, s.config.presencePeriod, 0xFF, 0xFF] ++ summaryBytes (some s.summary)

/-- R167: READ_ROSTER of a station. The own summary of a Withdrawn station uses up one free value (log 11). -/
def readRoster (n : Station) (s : State) : State :=
  if n = s.station then
    respond .ok s.selfBytes (if s.standing = .withdrawn then { s with free := s.free + 1 } else s)
  else respond .ok (s.peer n).bytes s

/-- READ_ROSTER (R167). -/
def execReadRoster (station : Byte) (s : State) : Host.Outcome State Fault Refusal :=
  onPort (fun s =>
    match toFin? 32 station.toNat with
    | some n => .next (readRoster n s)
    | none => .next (respond .invalid [] s)) s

/-! ### READ_HALT_LIST (R98, R199) -/

/-- The four bytes of the halt-list entry of a source, none without one. -/
def haltBytes (s : State) (n : Station) : List Byte :=
  match s.haltOf n with
  | some h => [stationByte n, h.reason, h.kind.code, h.learned.code]
  | none => []

/-- READ_HALT_LIST (R98): the count and the entries in ascending source number. -/
def execReadHaltList (s : State) : Host.Outcome State Fault Refusal :=
  onPort (fun s => .next (respond .ok (byteOfNat s.haltCount :: (List.finRange 32).flatMap (haltBytes s)) s)) s

/-! ### READ_NOTICE (R191, R201) -/

/-- The 10 bytes of READ_NOTICE: the record, the lost count, the position. -/
def noticeBytes (n : Option Notice) (lost : Nat) : List Byte :=
  match n with
  | some x => x.record ++ [byteOfNat lost] ++ bytesOf 4 x.position
  | none => [0, 0, 0, 0, 0] ++ [byteOfNat lost] ++ [0, 0, 0, 0]

/-- READ_NOTICE (R191). -/
def execReadNotice (s : State) : Host.Outcome State Fault Refusal :=
  onPort (fun s =>
    .next (respond .ok (noticeBytes s.notices.head? s.lost) { s with notices := s.notices.tail, lost := 0 })) s

/-! ### UNKNOWN (R185) -/

/-- UNKNOWN (R185): a command code that is not in the set returns UNKNOWN and changes nothing. -/
def execUnknown (_code : Byte) (s : State) : Host.Outcome State Fault Refusal :=
  onPort (fun s => .next (respond .unknown [] s)) s

/-! ### The transaction (R182 to R184) -/

/-- TRANSACTION_BEGIN (R183): the status byte as it stands; the malformed flag clears after it. A closing of the Outbound
Queue lies before the transaction (log 47). -/
def execTransactionBegin (s : State) : Host.Outcome State Fault Refusal :=
  .next { s with
    closing := false
    port := { selected := true, taken := false, status := s.statusByte, result := [], malformed := false } }

/-- SEL is high: the transaction has ended and SDO is released (R182). -/
def deselect (s : State) : State := { s with port := { s.port with selected := false, taken := false, result := [] } }

/-- MALFORMED_TRANSACTION (R184): the flag is set, unless the command has taken effect. With SEL high no transaction is in
progress, and nothing happens (R182, R193). -/
def execMalformedTransaction (s : State) : Host.Outcome State Fault Refusal :=
  if !s.port.selected then .next s
  else if s.port.taken then .next (deselect s)
  else .next (deselect { s with port := { s.port with malformed := true } })

/-- TRANSACTION_END (R182). When SEL rises in a transaction in which no command took effect and which is not malformed, no
clock edge came: that was no transaction, and the malformed flag is left as it was when SEL fell (R184; log 37). -/
def execTransactionEnd (s : State) : Host.Outcome State Fault Refusal :=
  if !s.port.selected then .next s
  else if s.port.taken then .next (deselect s)
  else .next (deselect { s with port := { s.port with malformed := bit s.port.status 7 } })

end Sys2Proof.Machine
end

