-- ==== Sys2Proof/Machine/LineEvents.lean ====
section
/-! DEFINITION. The events of the Coordination Line: FRAME_START_RECOGNISED, LINE_ACTIVITY, QUIET_PERIOD, IDLE_ROUND,
DEFERRAL_GAP_REACHED, ECHO_FAULT, ATTEMPT_END, RECEIVED_FRAME_END, FRAME_TRUNCATED, FRAME_TAKEN (R109 to R117, R123,
R144). -/

namespace Sys2Proof.Machine

/-! ### The idle line (R109, R112 to R114) -/

/-- Whether the line is followed by a transmitter that sends nothing: the receiver is on, the transmitter Silent or
Waiting. -/
def State.listens (s : State) : Bool :=
  s.lif.receiver != .off && (s.lif.transmitter == .silent || s.lif.transmitter == .waiting)

/-- R109, R112, R114: a frame start from another station: the receiver follows, the yield flag clears, a Waiting
transmitter defers. -/
def frameStart (s : State) : State :=
  let s := dropPick s
  { s with
    lif := { s.lif with
      receiver := .following, dominant := false, yielding := false, quiet := 0, rejectDriven := false
      reception := some { chars := 0, noisy := false, fault := false, afterEcho := false } } }

/-- FRAME_START_RECOGNISED (R109). -/
def execFrameStartRecognised (s : State) : Host.Outcome State Fault Refusal :=
  .next (if s.listens then frameStart s else s)

/-- Whether the receiver hunts and the transmitter sends nothing: the line is idle but for activity (R109). -/
def State.hunts (s : State) : Bool :=
  s.lif.receiver == .hunting && (s.lif.transmitter == .silent || s.lif.transmitter == .waiting)

/-- R109, R114: a dominant level that is no frame start comes on the line. The wait of a hunting receiver's transmitter ends,
and the counts stand at 0 until the line is recessive again. -/
def activityBegins (s : State) : State :=
  let s := { s with lif := { s.lif with dominant := true } }
  if s.hunts then dropPick { s with lif := { s.lif with idle := 0, quiet := 0, roundDone := false } } else s

/-- R109, R114: the line is recessive again after a dominant level that was no frame: the counts are reset and the
transmitter picks. -/
def activityEnds (s : State) : State :=
  let s := { s with lif := { s.lif with dominant := false } }
  if s.hunts then setReference 0 s else s

/-- LINE_ACTIVITY (R109, R114): the level of the line changes outside a frame. The row is sent at the beginning of a dominant
level that is no frame start and at its end (log 46). -/
def execLineActivity (s : State) : Host.Outcome State Fault Refusal :=
  .next (if s.lif.dominant then activityEnds s else activityBegins s)

/-- QUIET_PERIOD (R109, R148): the quiet count begins again, and a Withdrawn station counts an observation. -/
def execQuietPeriod (s : State) : Host.Outcome State Fault Refusal :=
  .next (if s.listens then observe { s with lif := { s.lif with quiet := 0 } } else s)

/-- IDLE_ROUND (R109, R113): the idle count begins a new round and the transmitter picks. -/
def execIdleRound (s : State) : Host.Outcome State Fault Refusal :=
  .next (if s.listens then pick { s with lif := { s.lif with idle := 0, roundDone := true } } else s)

/-- Whether the transmitter may start: Waiting on an idle line, still recessive, that it may send on (R114, R120). -/
def State.mayBegin (s : State) : Bool :=
  s.canSend && s.lif.transmitter == .waiting && s.lif.receiver == .hunting && !s.lif.dominant

/-- R114: the picked frame becomes the frame in flight. -/
def beginAttempt (p : Pick) (s : State) : State :=
  { s with
    outbound := s.outbound.map fun f => if f.id = p.frame then { f with inFlight := true } else f
    lif := { s.lif with
      transmitter := .sending, idle := p.gap, quiet := 0, picked := none, rejectDriven := false
      flight := some { frame := p.frame, bits := 0 } }
    bitPhase := 0 }

/-- R113: whether the idle count has already passed the gap of a pick in the present round. -/
def State.hasPassed (s : State) (p : Pick) : Bool := decide (p.gap < s.lif.idle)

/-- DEFERRAL_GAP_REACHED (R114). The row reports that the count has reached the gap of the frame now picked (log 1). Nothing
where the model's own count has passed that gap: the frame then waits for the next round (R113). -/
def execDeferralGapReached (s : State) : Host.Outcome State Fault Refusal :=
  match s.lif.picked with
  | some p => .next (if s.mayBegin && !s.hasPassed p then beginAttempt p s else s)
  | none => .next s

/-! ### The end of an own attempt (R115, R116) -/

/-- Whether an attempt is on the line. -/
def State.sends (s : State) : Bool := s.lif.transmitter == .sending || s.lif.transmitter == .listeningBack

/-- R115 step 3: the receiver follows what is on the line, with the bits sent so far as its opening. -/
def followEcho (s : State) : State :=
  let n := match s.lif.flight with
    | some fl => fl.bits / 10
    | none => 0
  { s with
    lif := { s.lif with
      receiver := .following
      reception := some { chars := n, noisy := false, fault := false, afterEcho := true } } }

/-- ECHO_FAULT (R115): the attempt ends, its result is handed on, and the receiver follows. -/
def execEchoFault (s : State) : Host.Outcome State Fault Refusal :=
  if s.lif.transmitter = .sending then .next (settle (attemptResult .echo (followEcho s))) else .next s

/-- ATTEMPT_END (R116): rejected when either bit of the window was dominant, else carried clean; the idle reference is
set. -/
def execAttemptEnd (rejected : Bool) (s : State) : Host.Outcome State Fault Refusal :=
  if s.sends then .next (settle (setReference 0 (attemptResult (if rejected then .rejected else .clean) s)))
  else .next s

/-! ### Received frames (R110, R123, R144) -/

/-- RECEIVED_FRAME_END (R144). -/
def execReceivedFrameEnd (f : RxFrame) (s : State) : Host.Outcome State Fault Refusal := .next (settle (windowEnds f s))

/-- FRAME_TRUNCATED (R110). -/
def execFrameTruncated (s : State) : Host.Outcome State Fault Refusal := .next (settle (truncate s))

/-- FRAME_TAKEN (R123). -/
def execFrameTaken (f : RxFrame) (s : State) : Host.Outcome State Fault Refusal := .next (settle (frameEnds f s))

end Sys2Proof.Machine
end

