-- ==== Sys2Proof/Machine/Timers.lean ====
section
/-! DEFINITION. The expiries of the timers: LISTENING_TIMER_EXPIRY, PRESENCE_TIMER_EXPIRY, LAPSE_TIMER_EXPIRY,
ANSWER_TIMER_EXPIRY (R156, R164, R165, R171). -/

namespace Sys2Proof.Machine

/-! ### LISTENING_TIMER_EXPIRY (R156) -/

/-- R156 steps 1 to 4: Online; not Withdrawn, the score 0 and Engaged; the queue opens; the presence timer starts. -/
def comeOnline (s : State) : State :=
  let s := { s with lifecycle := .online, listenTimer := 0 }
  if s.standing = .withdrawn then startPresenceTimer s
  else startPresenceTimer (openLine { s with score := 0, standing := .engaged })

/-- LISTENING_TIMER_EXPIRY (R156): the entry into Online, the evaluation of the head, the pick. A frame that the evaluation
of step 5 has admitted, such as the MARK of a head that starts, is picked for at its admission, the transmitter being
Silent (R113, R130 step 4), and step 6 then leaves that pick as it is: a HALT raised later in step 5 waits for the next
pick (DESIGN CHOICE, log 55). -/
def execListeningTimerExpiry (s : State) : Host.Outcome State Fault Refusal :=
  if s.lifecycle = .listening then .next (pickIfSilent (settle (handEvaluate (comeOnline s)))) else .next s

/-! ### PRESENCE_TIMER_EXPIRY (R165) -/

/-- PRESENCE_TIMER_EXPIRY (R165): the timer restarts and a PRESENCE is asked for. -/
def execPresenceTimerExpiry (s : State) : Host.Outcome State Fault Refusal :=
  if s.lifecycle = .online then .next (requestPresence (startPresenceTimer s)) else .next s

/-! ### LAPSE_TIMER_EXPIRY (R164) -/

/-- R164: whether a clean frame has set the lapse timer of a station again in the present period of the clock: the whole
lapse time is still to run. -/
def State.lapseSetAgain (s : State) (n : Station) : Bool := (s.peer n).lapse == s.lapseTime (s.peer n)

/-- LAPSE_TIMER_EXPIRY (R164). With a frame of the station taken first in the same period of the clock no lapse is taken
(log 1). -/
def execLapseTimerExpiry (n : Station) (s : State) : Host.Outcome State Fault Refusal :=
  if s.onLine && (s.peer n).state == .present && !s.lapseSetAgain n then .next (lapsePeer n s) else .next s

/-! ### ANSWER_TIMER_EXPIRY (R171) -/

/-- R171: whether an entry is the one whose answer timer runs out. -/
def PostEntry.awaits (e : PostEntry) (n : Station) (q : Seq) : Bool := e.isFor n q && e.state == .awaitingTake

/-- ANSWER_TIMER_EXPIRY (R171). -/
def execAnswerTimerExpiry (n : Station) (q : Seq) (s : State) : Host.Outcome State Fault Refusal :=
  .next (losePosts (fun e => e.awaits n q) .unanswered s)

end Sys2Proof.Machine
end

