-- ==== Sys2Proof/Machine/Tick.lean ====
section
/-! DEFINITION. What the part does while no command waits: one period of the 16 MHz clock. Every timer and every count of
bit times moves on, and those that run out put their command in the queue. The idle count that reaches the gap of the
picked frame starts its attempt at once (log 2, log 21). -/

namespace Sys2Proof.Machine

/-! ### Millisecond timers and pulse intervals -/

/-- A timer that is running counts down. -/
def countDown (t : Clocks) : Clocks := t - 1

/-- The command of a timer that runs out in this period. -/
def expiring (t : Clocks) (c : Instr) : List Instr := if t = 1 then [c] else []

/-- R164: the lapse timers count only while Listening or Online. -/
def lapsing (s : State) : List Instr :=
  if s.onLine then
    (List.finRange 32).flatMap fun n => expiring (s.peer n).lapse (.lapseTimerExpiry n)
  else []

/-- The commands of the timers that run out in this period, in the order of log 21. -/
def expiries (s : State) : List Instr :=
  expiring s.axis.pulseTimer .stepPulse ++ expiring s.axis.dwellTimer .dwellExpiry ++
    expiring s.listenTimer .listeningTimerExpiry ++ expiring s.presenceTimer .presenceTimerExpiry ++ lapsing s ++
    s.posts.flatMap fun e => expiring e.timer (.answerTimerExpiry e.dest e.sequence)

/-- Every timer counts one period. -/
def countTimers (s : State) : State :=
  { s with
    axis := { s.axis with
      pulseTimer := countDown s.axis.pulseTimer, dwellTimer := countDown s.axis.dwellTimer }
    listenTimer := countDown s.listenTimer
    presenceTimer := countDown s.presenceTimer
    roster :=
      if s.onLine then s.roster.map fun e => { e with lapse := countDown e.lapse } else s.roster
    posts := s.posts.map fun e => { e with timer := countDown e.timer } }

/-! ### Bit times (R109, R114) -/

/-- R109: whether the line is idle for the counts: recessive, the receiver hunts and nothing is sent. -/
def State.idles (s : State) : Bool := s.hunts && !s.lif.dominant

/-- R114: the idle count, just risen, reaches the gap of the picked frame, and the transmitter starts at once. A frame picked
while the count stands at its gap waits for the next round, as one picked after it does by R113: only a count that rises
to the gap is compared (log 44). -/
def reachGap (s : State) : State :=
  match s.lif.picked with
  | some p => if s.mayBegin && p.gap == s.lif.idle then beginAttempt p s else s
  | none => s

/-- R109, R113: the commands of one more bit time of idle line. Where a quiet period and a round end together, the spec
gives no order: the quiet period comes first (log 21). -/
def idleEvents (l : Lif) : List Instr :=
  (if 319 ≤ l.quiet then [.quietPeriod] else []) ++ if 519 ≤ l.idle then [.idleRound] else []

/-- R109: one more bit time of idle line. The count that completes a round or a quiet period is set back by its
command. -/
def countIdle (l : Lif) : Lif := { l with idle := min 519 (l.idle + 1), quiet := min 319 (l.quiet + 1) }

/-- R107, R116: one more bit time of the frame in flight; after its last stop bit the transmitter listens back
(log 20). -/
def countFlight (length : Nat) (l : Lif) : Lif :=
  match l.flight with
  | some fl =>
    { l with
      flight := some { fl with bits := fl.bits + 1 }
      transmitter := if 10 * length ≤ fl.bits + 1 then .listeningBack else l.transmitter }
  | none => l

/-- R109, R114: one more bit time of idle line has gone. -/
def idleBit (s : State) : State :=
  let t := { s with lif := countIdle s.lif, pending := s.pending ++ idleEvents s.lif }
  if s.lif.idle < 519 then reachGap t else t

/-- One bit time has gone. -/
def bitTime (s : State) : State :=
  if s.idles then idleBit s
  else if s.lif.transmitter = .sending then
    { s with lif := countFlight ((s.charsInFlight.getD []).length) s.lif }
  else s

/-- The bit clock counts one period of the clock (R106). -/
def countBit (s : State) : State :=
  if s.bitRate.periods ≤ s.bitPhase + 1 then bitTime { s with bitPhase := 0 }
  else { s with bitPhase := s.bitPhase + 1 }

/-- One period of the clock with no command waiting. A closing of the Outbound Queue is over (log 47). -/
def tick (s : State) : State := countBit { countTimers s with pending := s.pending ++ expiries s, closing := false }

end Sys2Proof.Machine
end

