-- ==== Sys2Proof/Machine/Dispatch.lean ====
section
/-! DEFINITION. One arm for each command: its meaning. -/

namespace Sys2Proof.Machine

/-- A command's effect on everything but the queue of commands. -/
def exec (i : Instr) (s : State) : Host.Outcome State Fault Refusal :=
  match i with
  | .hardReset straps => Sys2Proof.Machine.execHardReset straps s
  | .transactionBegin => Sys2Proof.Machine.execTransactionBegin s
  | .malformedTransaction => Sys2Proof.Machine.execMalformedTransaction s
  | .writeConfig block => Sys2Proof.Machine.execWriteConfig block s
  | .join => Sys2Proof.Machine.execJoin s
  | .leave => Sys2Proof.Machine.execLeave s
  | .rejoin => Sys2Proof.Machine.execRejoin s
  | .restart straps => Sys2Proof.Machine.execRestart straps s
  | .appendSegment segment => Sys2Proof.Machine.execAppendSegment segment s
  | .flush => Sys2Proof.Machine.execFlush s
  | .stop => Sys2Proof.Machine.execStop s
  | .abort => Sys2Proof.Machine.execAbort s
  | .acknowledge => Sys2Proof.Machine.execAcknowledge s
  | .raiseHalt reason kind => Sys2Proof.Machine.execRaiseHalt reason kind s
  | .liftHalt => Sys2Proof.Machine.execLiftHalt s
  | .dismiss => Sys2Proof.Machine.execDismiss s
  | .emitMark mark choice value => Sys2Proof.Machine.execEmitMark mark choice value s
  | .setReaction index source mark action parameter mode => Sys2Proof.Machine.execSetReaction index source mark action parameter mode s
  | .clearReaction index => Sys2Proof.Machine.execClearReaction index s
  | .rearm index => Sys2Proof.Machine.execRearm index s
  | .setWatch watch enable source condition value mark cut => Sys2Proof.Machine.execSetWatch watch enable source condition value mark cut s
  | .setCapture slot setup => Sys2Proof.Machine.execSetCapture slot setup s
  | .readCapture slot => Sys2Proof.Machine.execReadCapture slot s
  | .postSegment destination segment => Sys2Proof.Machine.execPostSegment destination segment s
  | .readStatus => Sys2Proof.Machine.execReadStatus s
  | .readRoster station => Sys2Proof.Machine.execReadRoster station s
  | .readHaltList => Sys2Proof.Machine.execReadHaltList s
  | .readNotice => Sys2Proof.Machine.execReadNotice s
  | .unknown code => Sys2Proof.Machine.execUnknown code s
  | .inputChange input high => Sys2Proof.Machine.execInputChange input high s
  | .encoderEdge a b => Sys2Proof.Machine.execEncoderEdge a b s
  | .stepPulse => Sys2Proof.Machine.execStepPulse s
  | .dwellExpiry => Sys2Proof.Machine.execDwellExpiry s
  | .frameStartRecognised => Sys2Proof.Machine.execFrameStartRecognised s
  | .lineActivity => Sys2Proof.Machine.execLineActivity s
  | .quietPeriod => Sys2Proof.Machine.execQuietPeriod s
  | .idleRound => Sys2Proof.Machine.execIdleRound s
  | .deferralGapReached => Sys2Proof.Machine.execDeferralGapReached s
  | .echoFault => Sys2Proof.Machine.execEchoFault s
  | .attemptEnd rejected => Sys2Proof.Machine.execAttemptEnd rejected s
  | .receivedFrameEnd frame => Sys2Proof.Machine.execReceivedFrameEnd frame s
  | .frameTruncated => Sys2Proof.Machine.execFrameTruncated s
  | .frameTaken frame => Sys2Proof.Machine.execFrameTaken frame s
  | .listeningTimerExpiry => Sys2Proof.Machine.execListeningTimerExpiry s
  | .presenceTimerExpiry => Sys2Proof.Machine.execPresenceTimerExpiry s
  | .lapseTimerExpiry station => Sys2Proof.Machine.execLapseTimerExpiry station s
  | .answerTimerExpiry destination sequence => Sys2Proof.Machine.execAnswerTimerExpiry destination sequence s
  | .transactionEnd => Sys2Proof.Machine.execTransactionEnd s

end Sys2Proof.Machine
end

