-- ==== Sys2Proof/WellFormed.lean ====
section
/-! DEFINITION. Which commands are well formed: the shapes that the wire forces on a command before its meaning judges
it. The sender sends no other. -/

namespace Sys2Proof

open Machine (takenLength headerLength rxClean commandCodes)

/-- R182, R197: the segment bytes that the port takes. -/
def segmentTaken (bytes : List Byte) : Bool := bytes.length == takenLength bytes

/-- R110: a frame followed to its declared end. -/
def frameWhole (f : RxFrame) : Bool := decide (3 ≤ f.chars.length) && f.chars.length == 5 + headerLength f.chars

/-- A well-formed command: 23 bytes of configuration (R199), as many segment bytes as the port takes (R182), a code
outside the set for UNKNOWN (R185), a frame followed to its end for RECEIVED_FRAME_END (R110), a clean one for
FRAME_TAKEN (R123). Every other command is well formed. -/
def Instr.wellFormed : Instr → Bool
  | .writeConfig block => block.length == 23
  | .appendSegment bytes => segmentTaken bytes
  | .postSegment _ bytes => segmentTaken bytes
  | .unknown code => !commandCodes.contains code
  | .receivedFrameEnd f => frameWhole f
  | .frameTaken f => frameWhole f && rxClean f
  | _ => true

end Sys2Proof
end

