-- ==== Sys2Proof/Machine/Port.lean ====
section
/-! DEFINITION. The wires of the Local Port: the bytes that its bits spell, the command that bytes spell, the row that a rise
of SEL gives, and the bits that SDO returns (R182, R184, R185, R194, R199). The sender of the rows clocks the wires; a row
is what they come to (log 15). -/

namespace Sys2Proof.Machine

/-! ### Bits (R182, R194) -/

/-- R194: the bits of a byte as the port shifts them, most significant first. -/
def bitsOfByte (b : Byte) : List Bool := [7, 6, 5, 4, 3, 2, 1, 0].map b.getLsbD

/-- R194: the byte that bits spell, most significant first. -/
def byteOfBits (bits : List Bool) : Byte := bits.foldl (fun b x => (b <<< 1) ||| byteOfBool x) 0

/-- R182, R184: the bytes that bits spell, eight to a byte; a partial byte is discarded. -/
def bytesOfBits : List Bool → List Byte
  | a :: b :: c :: d :: e :: f :: g :: h :: rest => byteOfBits [a, b, c, d, e, f, g, h] :: bytesOfBits rest
  | _ => []

/-! ### Commands (R199) -/

/-- R182, R199: the command of a code that takes effect at the end of exactly these argument bytes; none while more are to
come. Four-byte values come least significant byte first (R194). RESTART reads the straps (R158). -/
def commandOf (straps : Straps) (code : Byte) (arguments : List Byte) : Option Instr :=
  match code.toNat, arguments with
  | 0x10, block => if block.length = 23 then some (.writeConfig block) else none
  | 0x11, [] => some .join
  | 0x12, [] => some .leave
  | 0x13, [] => some .rejoin
  | 0x14, [] => some (.restart straps)
  | 0x20, segment => if segmentTaken segment then some (.appendSegment segment) else none
  | 0x21, [] => some .flush
  | 0x22, [] => some .stop
  | 0x23, [] => some .abort
  | 0x24, [] => some .acknowledge
  | 0x30, [reason, kind] => some (.raiseHalt reason kind)
  | 0x31, [] => some .liftHalt
  | 0x32, [] => some .dismiss
  | 0x40, [mark, choice, v0, v1, v2, v3] => some (.emitMark mark choice (wordAt 32 [v0, v1, v2, v3] 0 4))
  | 0x41, [index, source, mark, action, parameter, mode] =>
    some (.setReaction index source mark action parameter mode)
  | 0x42, [index] => some (.clearReaction index)
  | 0x43, [index] => some (.rearm index)
  | 0x50, [watch, enable, source, condition, v0, v1, v2, v3, mark, cut] =>
    some (.setWatch watch enable source condition (wordAt 32 [v0, v1, v2, v3] 0 4) mark cut)
  | 0x51, [slot, setup] => some (.setCapture slot setup)
  | 0x52, [slot] => some (.readCapture slot)
  | 0x60, destination :: segment =>
    if segmentTaken segment then some (.postSegment destination segment) else none
  | 0x70, [] => some .readStatus
  | 0x71, [station] => some (.readRoster station)
  | 0x72, [] => some .readHaltList
  | 0x73, [] => some .readNotice
  | _, [] => if commandCodes.contains code then none else some (.unknown code)
  | _, _ => none

/-- Whether a row is a command of the Local Port, which takes effect in a transaction (R182, R185). -/
def portCommand : Instr → Bool
  | .hardReset _ | .transactionBegin | .malformedTransaction | .transactionEnd | .inputChange _ _ | .encoderEdge _ _
  | .stepPulse | .dwellExpiry | .frameStartRecognised | .lineActivity | .quietPeriod | .idleRound
  | .deferralGapReached | .echoFault | .attemptEnd _ | .receivedFrameEnd _ | .frameTruncated | .frameTaken _
  | .listeningTimerExpiry | .presenceTimerExpiry | .lapseTimerExpiry _ | .answerTimerExpiry _ _ => false
  | _ => true

/-! ### The rows that the wires give -/

/-- R182: the command that takes effect with the last of the bits clocked in since SEL fell. -/
def State.portRow (straps : Straps) (bits : List Bool) (s : State) : Option Instr :=
  if s.awaitsCommand ∧ bits.length % 8 = 0 then
    match bytesOfBits bits with
    | code :: arguments => commandOf straps code arguments
    | [] => none
  else none

/-- R182, R184: what a rise of SEL is, after so many clock edges. Without one there was no transaction (log 37). -/
def State.riseRow (edges : Nat) (s : State) : Option Instr :=
  if !s.port.selected then none
  else if s.port.taken || edges == 0 then some .transactionEnd
  else some .malformedTransaction

/-- R182, R194: the bits of byte k that SDO returns, in a command of so many argument bytes; none while SDO is released. -/
def State.sdoBits (s : State) (arguments k : Nat) : Option (List Bool) := (s.sdo arguments k).map bitsOfByte

end Sys2Proof.Machine
end

