-- ==== Sys2Proof/Machine/Sampling.lean ====
section
/-! DEFINITION. What the part makes of samples: the three samples of a line bit, the characters and the frame they spell, and
the row that a sample gives (R82, R108 to R110, R115, R116, R121). The rows' sender samples; a row is what the samples
come to (log 1, log 19). On the line a sample is true for dominant, at a level input true for high. -/

namespace Sys2Proof.Machine

/-! ### One bit (R108) -/

/-- R108: the periods of a bit of n clock periods at which it is sampled. -/
def samplePlaces (n : Nat) : List Nat := [n / 2 - n / 16, n / 2, n / 2 + n / 16]

/-- R108: a bit whose three samples do not all agree is noisy. Its level is the majority, Samples.level. -/
def Samples.noisy (x : Samples) : Bool := !(x.newest == x.middle && x.middle == x.oldest)

/-- R108: the bits of a character begin this many bit times after the edge of its start bit. -/
def bitStart (rate : BitRate) (k : Nat) : Nat := k * rate.periods

/-! ### Characters and frames (R106, R108, R121) -/

/-- The samples of bit k of a character, the start bit being bit 0. -/
def bitSamples (bits : List Samples) (k : Nat) : Samples := bits.getD k .low

/-- R106: the character that ten sampled bits spell, least significant data bit first, recessive for 1. -/
def charOf (bits : List Samples) : Byte :=
  (List.range 8).foldl (fun c k => if (bitSamples bits (k + 1)).level then c else c ||| 1#8 <<< k) 0

/-- R121: a dominant stop bit. -/
def stopDominant (bits : List Samples) : Bool := (bitSamples bits 9).level

/-- R108, R121: the frame that the sampled characters spell, with its framing and noise record. -/
def receivedFrame (chars : List (List Samples)) : RxFrame :=
  { chars := chars.map charOf
    framing := chars.any stopDominant
    noise := chars.any fun bits => bits.any Samples.noisy }

/-- R110: so many bit times of recessive line end a frame before its declared end. -/
def truncates (recessive : Nat) : Bool := decide (10 < recessive)

/-! ### The row that samples give -/

/-- R109: what a bit sampled outside a frame comes to. Dominant on the idle line it is a frame start or activity, recessive
there nothing or a glitch; recessive after activity it ends it. -/
def State.candidate (s : State) (x : Samples) : Option Instr :=
  if x.level = s.lif.dominant then none
  else if s.lif.dominant then some .lineActivity
  else if 8 ≤ s.lif.idle || s.lif.roundDone then some .frameStartRecognised
  else some .lineActivity

/-- R115: the read-back of the present bit of the frame in flight. -/
def State.readBack (s : State) (x : Samples) : Option Instr :=
  if s.lif.transmitter = .sending ∧ x.level ≠ s.drivesDominant then some .echoFault else none

/-- R116: the two bits of the reject window that the transmitter reads. -/
def windowResult (first second : Samples) : Instr := .attemptEnd (first.level || second.level)

/-- R82: one more sample of a level input. -/
def Samples.shift (x : Samples) (high : Bool) : Samples := { newest := high, middle := x.newest, oldest := x.middle }

/-- R82: the change of an input that a sample makes, if it makes one. -/
def inputRow (i : Input) (x : Samples) (high : Bool) : Option Instr :=
  if (x.shift high).level = x.level then none else some (.inputChange i high)

end Sys2Proof.Machine
end

