-- ==== Sys2Proof/Safety.lean ====
section
/-! DEFINITION. What stays true of the part whatever is commanded (the capacities and ranges the spec gives, the axis state
as the queue has it, the standing as the score has it, nothing left handed on), what a group of commands leaves alone, and
when a row is due. -/

namespace Sys2Proof.Machine

/-! ### Frames -/

/-- The state that no event of the axis, the queue or the tables changes: the configuration, the lifecycle and its roster,
the pins, the halt list, the standing, the posts, the transaction, the bit clock, the queue of commands. -/
structure Kept where
  config : ConfigBlock
  station : Station
  bitRate : BitRate
  lifecycle : Lifecycle
  listenTimer : Clocks
  roster : List RosterEntry
  encA : Bool
  encB : Bool
  inputs : Inputs
  halts : List (Option HaltEntry)
  score : Nat
  standing : Standing
  recovery : Nat
  posts : List PostEntry
  posted : List HandedPost
  port : Port
  bitPhase : Nat
  closing : Bool
  pending : List Instr
  deriving DecidableEq, Repr

/-- That part of a state. -/
def State.kept (s : State) : Kept :=
  { config := s.config, station := s.station, bitRate := s.bitRate, lifecycle := s.lifecycle
    listenTimer := s.listenTimer, roster := s.roster, encA := s.encA, encB := s.encB, inputs := s.inputs
    halts := s.halts, score := s.score, standing := s.standing, recovery := s.recovery, posts := s.posts
    posted := s.posted, port := s.port, bitPhase := s.bitPhase, closing := s.closing, pending := s.pending }

/-! ### Capacities and ranges -/

/-- R190: at most 16 notices, and a lost count of at most 255. -/
abbrev NoticesFit (s : State) : Prop := s.notices.length ≤ 16 ∧ s.lost ≤ 255

/-- R130: at most 12 frames. -/
abbrev OutboundFits (s : State) : Prop := s.outbound.length ≤ 12

/-- The tables have their sizes: 24 reaction entries (R57), 4 watches (R70), 4 capture slots (R76). -/
abbrev TablesFit (s : State) : Prop :=
  s.reactions.length = 24 ∧ s.watches.length = 4 ∧ s.captures.length = 4

/-- R57: every tally lies in 0..15. -/
abbrev TalliesFit (s : State) : Prop := ∀ r ∈ s.reactions, r.tally ≤ 15

/-- R44: with the encoder Off the measured position equals the command position. -/
abbrev PositionsAgree (s : State) : Prop := s.config.encoder = .off → s.measured = s.command

/-- The capacities and ranges that the inner operations of the blocks keep. -/
structure Fits (s : State) : Prop where
  notices : NoticesFit s
  outbound : OutboundFits s
  tables : TablesFit s
  tallies : TalliesFit s

/-- R3: at most 32 segments. -/
abbrev QueueFits (s : State) : Prop := s.queue.length ≤ 32

/-- R169: at most 4 posts. -/
abbrev PostsFit (s : State) : Prop := s.posts.length ≤ 4

/-- R98, R161: one place for each station number in the roster and in the halt list. -/
abbrev StationTablesFit (s : State) : Prop := s.roster.length = 32 ∧ s.halts.length = 32

/-! ### The standing (R142) -/

/-- R142: the score and the recovery count in their ranges, and the standing as the score, the lifecycle and the Withdrawn
state have it. -/
structure StandingFits (s : State) : Prop where
  score : s.score ≤ 192
  recovery : s.recovery ≤ 48
  withdrawn : s.standing = .withdrawn → s.score = 192
  standing : s.standing ≠ .withdrawn → s.score ≤ 191
  reticent : s.standing = .reticent ↔ s.lifecycle = .online ∧ s.standing ≠ .withdrawn ∧ 96 ≤ s.score

/-! ### The queue and the axis (R9, R23) -/

/-- R3, R9: only the head runs, and only a second entry is Committed, behind a Running head. -/
abbrev OnlyHeadRuns (s : State) : Prop :=
  (∀ e ∈ s.queue.head?, e.state ≠ .committed) ∧ (∀ n ∈ s.queue.tail, n.state ≠ .running) ∧
    (∀ n ∈ s.queue.tail.tail, n.state = .waiting) ∧
    (∀ e ∈ s.queue.head?, e.state = .waiting → ∀ n ∈ s.queue.tail, n.state = .waiting)

/-- R9, R23: the axis state is IDLE with an empty queue, GATED with a Waiting head, and one of motion or DWELL with a
Running head. -/
abbrev AxisFollowsQueue (s : State) : Prop :=
  (s.queue = [] → s.axis.state = .idle) ∧
    ∀ e ∈ s.queue.head?, (e.state = .waiting → s.axis.state = .gated) ∧
      (e.state = .running → s.axis.state.moving = true ∨ s.axis.state = .dwell)

/-- Both. -/
abbrev QueueInOrder (s : State) : Prop := OnlyHeadRuns s ∧ AxisFollowsQueue s

/-! ### The line (06, table of the LIF) -/

/-- The transmitter is Waiting exactly with a picked frame, and Sending or Listening-back exactly with a frame in flight. -/
abbrev LineAgrees (s : State) : Prop :=
  (s.lif.transmitter = .waiting ↔ s.lif.picked.isSome = true) ∧ (s.sends = true ↔ s.lif.flight.isSome = true)

/-! ### Segments (R5, R198) -/

/-- The speed fields in their ranges (R1, R198). -/
abbrev RampFits (r : Ramp) : Prop :=
  1 ≤ r.top ∧ r.top ≤ 4000000 ∧ 1 ≤ r.accel ∧ r.accel ≤ 65535 ∧ r.decel ≤ 65535

/-- A segment valid under the field rules (R5): fields in their ranges, a chain flag on the kinds that may carry it, and
only HOME, LIMP, LIMN, IN0 and IN1 as the input of a gate or a SEEK. -/
abbrev SegmentFits (g : Segment) : Prop :=
  (match g.gate with
    | .input i _ => i ≠ .estop ∧ i ≠ .drvflt
    | _ => True) ∧
  match g.body with
  | .moveRel w r => w ≠ 0 ∧ w ≠ 0x80000000 ∧ RampFits r
  | .moveAbs _ r | .run _ r => RampFits r
  | .seek _ i _ _ r => g.chain = false ∧ i ≠ .estop ∧ i ≠ .drvflt ∧ RampFits r
  | .dwell t => g.chain = false ∧ 1 ≤ t ∧ t ≤ 65535
  | .setpos _ => g.chain = false

/-! ### Conditions -/

/-- R11, R12: an evaluation of the head starts nothing: the head is Running, or the part is not Online, or the head waits on
a gate that is shut. -/
abbrev HeadStays (s : State) : Prop :=
  ∀ e ∈ s.queue.head?, e.state = .waiting →
    s.lifecycle ≠ .online ∨ (e.consumed = false ∧ s.gateOpen e.segment.gate = false)

/-- No watch compares (R70). -/
abbrev NoWatchArmed (s : State) : Prop := ∀ w ∈ s.watches, w.state ≠ .armed

/-- No entry acts on an own mark (R54, R59). -/
abbrev NoEntryActs (m : Mark) (stamp : Option Position) (s : State) : Prop :=
  ∀ r ∈ s.reactions, r.acts s.station { source := s.station, mark := m, stamp } = false

/-! ### A head that starts (R11, R12, R35) -/

/-- The queue holds one Waiting DWELL of so many ms, its gate absent or consumed, without a start mark. -/
abbrev DwellWaits (e : Entry) (n : Nat) (s : State) : Prop :=
  s.queue = [e] ∧ e.state = .waiting ∧ (e.consumed = true ∨ e.segment.gate = .absent) ∧ e.segment.body = .dwell n ∧
    e.segment.startMark = none

/-- That DWELL has started, and its time runs. -/
abbrev DwellStarts (e : Entry) (n : Nat) (s t : State) : Prop :=
  t.queue = [{ e with state := .running, consumed := false }] ∧
    t.axis = { s.axis.ended with state := .dwell, dwellTimer := 16000 * n }

/-! ### Stops (R19, R41, R42, R88 to R90) -/

/-- What a stop of a kind makes of the axis and the queue, everything behind the head flushed. A moving head above base
speed brakes for a decelerating stop from its present speed, at the greater of its own rate and the stop rate; one that
brakes already keeps its rate; any other head ends at once, and so does every head at an immediate stop. -/
abbrev StopMade (k : StopKind) (s t : State) : Prop :=
  (∀ e ∈ s.runningHead, k = .decelerating →
    (s.axis.state = .braking → t.queue = [e] ∧ t.axis = { s.axis with braking := .stop }) ∧
    (s.axis.state = .rampUp ∨ s.axis.state = .cruise ∨ s.axis.state = .rampDown →
      s.config.baseSpeed.toNat * 65536 < s.axis.speed →
      t.queue = [e] ∧ t.axis = { s.axis with
        state := .braking, braking := .stop, brakeRate := max e.decelRate (1000 * s.config.stopRate.toNat)
        blend := none, committed := true, found := false }) ∧
    (s.axis.state ≠ .braking → s.axis.speed ≤ s.config.baseSpeed.toNat * 65536 ∨ s.axis.state = .dwell →
      t.queue = [] ∧ t.axis.state = .idle ∧ t.axis.speed = 0)) ∧
  (k = .immediate ∨ s.runningHead = none → t.queue = [] ∧ t.axis.state = .idle) ∧
  (k = .immediate → s.runningHead.isSome = true → t.axis.speed = 0)

/-! ### Nothing handed on (log 5) -/

/-- Between commands nothing waits to be handed from one block to another. -/
abbrev AtRest (s : State) : Prop := s.handed = .empty

/-- R7: a POST handed on waits only while the command that comes next takes the part out of Online. -/
abbrev PostedIsOvertaken (s : State) : Prop := s.posted ≠ [] → s.overtaken = true

/-! ### Frames that are acted on (R124, R177) -/

/-- R124: a frame is new: its sequence is not the last one heard from its source. -/
abbrev NewFrame (h : RxHeader) (s : State) : Prop := (s.peer h.source).lastSequence ≠ some h.sequence

/-- R177: a frame is the retry of a POST already received clean from its source (log 51). -/
abbrev RetriesPost (h : RxHeader) (s : State) : Prop := h.kind = .post ∧ (s.peer h.source).postRetry = some h

/-! ### Rows that are due (log 1, log 15) -/

/-- Whether a row is due by the model's own counts and by the transaction as it stands: what a sender true to the clock and to
the wires of the Local Port observes before it sends one. The meanings ask for the transaction, and of the counts only that a
gap has not passed (DEFERRAL_GAP_REACHED) and a lapse timer is not set again (LAPSE_TIMER_EXPIRY). -/
def State.due (s : State) : Instr → Bool
  | .transactionBegin => !s.port.selected
  | .malformedTransaction => s.awaitsCommand
  | .transactionEnd => s.port.selected
  | .stepPulse => s.axis.pulseTimer == 0 && s.axis.state.moving
  | .dwellExpiry => s.axis.dwellTimer == 0 && s.axis.state == .dwell
  | .listeningTimerExpiry => s.listenTimer == 0 && s.lifecycle == .listening
  | .presenceTimerExpiry => s.presenceTimer == 0 && s.lifecycle == .online
  | .lapseTimerExpiry n => (s.peer n).lapse == 0 && (s.peer n).state == .present
  | .answerTimerExpiry n q => s.posts.any fun e => e.awaits n q && e.timer == 0
  | .frameStartRecognised => s.idles && s.candidate { newest := true, middle := true, oldest := true } == some .frameStartRecognised
  | .quietPeriod => s.idles && s.lif.quiet == 319
  | .idleRound => s.idles && s.lif.idle == 519
  | .deferralGapReached => s.mayBegin && s.lif.picked.any fun p => p.gap == s.lif.idle
  | .attemptEnd _ => s.lif.transmitter == .listeningBack
  | c => !portCommand c || s.awaitsCommand

end Sys2Proof.Machine
end

