-- ==== Sys2Proof/Certificates/Slice0/Obligations.lean ====
section
/-! DEFINITION. The statements for the provers. A statement about a command ends in the next state that exec answers; what
the command leaves alone is said by one equation: the next state with the changed fields put back is the state before. -/

open Sys2Proof Sys2Proof.Machine

/-! ### The machine -/

/-- One step takes the command at the front of the queue and runs it on the state with the rest of the queue; and every
command in every state answers a next state. -/
def Obligations.StepTakesTheFrontCommand : Prop :=
  ∀ (s : State) (c : Instr) (rest : List Instr),
    (s.pending = c :: rest → step s = exec c { s with pending := rest }) ∧ ∃ t, exec c s = .next t

/-- Log 2 (the model's choice): with no command waiting one period of the clock passes. Every timer counts down, and
those that run out put their commands in the queue, in the order of log 21. The bit clock counts; a bit time of idle,
recessive line raises the idle and the quiet count and may end a quiet period or a round, and the count that rises to
the picked frame's gap starts its attempt: a frame whose gap equals the count it was picked at is not started (log 44).
A bit time while Sending counts a bit of the frame, after whose last one the transmitter listens back (log 20). A
closing of the Outbound Queue is over (log 47). Nothing else changes. -/
def Obligations.IdleStepCountsOneClockPeriod : Prop :=
  ∀ (s : State),
    s.pending = [] →
    let bit := decide (s.bitRate.periods ≤ s.bitPhase + 1)
    let idle := bit && s.lif.receiver == .hunting && !s.lif.dominant &&
      (s.lif.transmitter == .silent || s.lif.transmitter == .waiting)
    let due (t : Nat) (c : Instr) : List Instr := if t = 1 then [c] else []
    let starts : Option Pick :=
      if idle = true ∧ s.lif.idle < 519 ∧ s.lif.transmitter = .waiting ∧ s.canSend then
        s.lif.picked.filter fun p => p.gap == s.lif.idle + 1
      else none
    ∃ t, step s = .next t ∧
      t.axis = { s.axis with
        pulseTimer := s.axis.pulseTimer - 1, dwellTimer := s.axis.dwellTimer - 1 } ∧
      t.listenTimer = s.listenTimer - 1 ∧
      t.presenceTimer = s.presenceTimer - 1 ∧
      t.posts = s.posts.map (fun e => { e with timer := e.timer - 1 }) ∧
      t.roster = (if s.onLine then s.roster.map (fun e => { e with lapse := e.lapse - 1 }) else s.roster) ∧
      t.pending =
        due s.axis.pulseTimer .stepPulse ++ due s.axis.dwellTimer .dwellExpiry ++
        due s.listenTimer .listeningTimerExpiry ++ due s.presenceTimer .presenceTimerExpiry ++
        (if s.onLine then (List.finRange 32).flatMap fun n => due (s.peer n).lapse (.lapseTimerExpiry n) else []) ++
        (s.posts.flatMap fun e => due e.timer (.answerTimerExpiry e.dest e.sequence)) ++
        (if idle = true ∧ 319 ≤ s.lif.quiet then [.quietPeriod] else []) ++
        (if idle = true ∧ 519 ≤ s.lif.idle then [.idleRound] else []) ∧
      t.bitPhase = (if bit = true then 0 else s.bitPhase + 1) ∧
      t.lif =
        (if idle = true then
          match starts with
          | some p =>
            { s.lif with
              idle := s.lif.idle + 1, quiet := 0, transmitter := .sending, picked := none, rejectDriven := false
              flight := some { frame := p.frame, bits := 0 } }
          | none => { s.lif with idle := min 519 (s.lif.idle + 1), quiet := min 319 (s.lif.quiet + 1) }
        else if bit = true ∧ s.lif.transmitter = .sending then
          match s.lif.flight with
          | some fl =>
            { s.lif with
              flight := some { fl with bits := fl.bits + 1 }
              transmitter :=
                if 10 * (s.charsInFlight.getD []).length ≤ fl.bits + 1 then .listeningBack else .sending }
          | none => s.lif
        else s.lif) ∧
      t.outbound =
        (match starts with
        | some p => s.outbound.map fun g => if g.id = p.frame then { g with inFlight := true } else g
        | none => s.outbound) ∧
      t.closing = false ∧
      { t with
        axis := s.axis, listenTimer := s.listenTimer, presenceTimer := s.presenceTimer, posts := s.posts
        roster := s.roster, lif := s.lif, outbound := s.outbound, bitPhase := s.bitPhase, closing := s.closing
        pending := s.pending } = s

/-! ### Resets -/

/-- HARD_RESET leaves the part Unconfigured, every block at its hard-reset value, the straps read (R21, R48, R56, R69, R81,
R104, R105, R128, R141, R152, R158, R168, R180, R193). -/
def Obligations.HardResetClearsThePart : Prop :=
  ∀ (s : State) (straps : Straps), ∃ t, exec (.hardReset straps) s = .next t ∧
      t.lifecycle = .unconfigured ∧ t.config = .default ∧ t.station = straps.number ∧
      t.bitRate = .ofStraps straps.rate ∧ t.listenTimer = 0 ∧ t.presenceTimer = 0 ∧
      t.queue = [] ∧ t.axis.state = .idle ∧ t.axis.speed = 0 ∧ t.axis.dir = .plus ∧ t.directionHigh = true ∧
      t.axis.remaining = 0 ∧
      t.axis.dwellTimer = 0 ∧ t.command = 0 ∧ t.measured = 0 ∧
      (∀ w ∈ t.watches, w = { source := .command, condition := .atOrAbove, value := 0, mark := none
                              cutOnHit := false, state := .off, previous := 0 }) ∧
      (∀ c ∈ t.captures, c.valid = false ∧ c.missed = false ∧ c.headTag = none ∧ c.trigger = .none ∧
        c.setup = .none ∧ c.command = 0 ∧ c.measured = 0) ∧
      (∀ r ∈ t.reactions, r.inUse = false ∧ r.spent = false ∧ r.tally = 0 ∧ r.overflow = false) ∧
      t.emissions = [] ∧ (∀ i ∈ allInputs, (t.inputs.get i).level = false) ∧ t.faults = .empty ∧
      t.ownHalt.raised = false ∧ t.ownHalt.reason = 0 ∧ t.ownHalt.owed = .none ∧ (∀ h ∈ t.halts, h = none) ∧
      t.lif.receiver = .off ∧ t.lif.transmitter = .silent ∧ t.lif.idle = 0 ∧ t.lif.quiet = 0 ∧
      t.lif.picked = none ∧ t.lif.flight = none ∧ t.lif.yielding = false ∧ t.lif.sequence = 0 ∧
      t.outbound = [] ∧ t.score = 0 ∧ t.standing = .engaged ∧ t.recovery = 0 ∧
      (∀ n : Fin 32, t.peer n = .blank (if n = straps.number then .self else .absent)) ∧
      t.posts = [] ∧ t.posted = [] ∧ t.notices = [] ∧ t.lost = 0 ∧ t.port.selected = false ∧ t.port.malformed = false ∧
      t.awaitsCommand = false ∧ t.pending = s.pending

/-- RESTART leaves the part Configured with its configuration, its samples and its direction kept, every other block
cleared, and the fault set refilled from ESTOP and then DRVFLT, with their notices first (R21, R48, R104, R158). -/
def Obligations.RestartRefillsTheFaultSet : Prop :=
  ∀ (s : State) (straps : Straps), s.awaitsCommand → ∃ t, exec (.restart straps) s = .next t ∧
      t.lifecycle = .configured ∧ t.config = s.config ∧ t.station = straps.number ∧
      t.bitRate = .ofStraps straps.rate ∧ t.queue = [] ∧ t.axis.state = .idle ∧ t.axis.speed = 0 ∧
      t.axis.dir = s.axis.dir ∧ t.directionHigh = s.directionHigh ∧ t.command = 0 ∧ t.measured = 0 ∧ t.inputs = s.inputs ∧
      (∀ w ∈ t.watches, w.state = .off) ∧ (∀ c ∈ t.captures, c.valid = false ∧ c.setup = .none) ∧
      (∀ r ∈ t.reactions, r.inUse = false ∧ r.tally = 0) ∧
      t.outbound = [] ∧ t.emissions = [] ∧ t.posts = [] ∧ t.posted = [] ∧ (∀ h ∈ t.halts, h = none) ∧
      t.lif.receiver = .off ∧ t.lif.transmitter = .silent ∧ t.lif.sequence = 0 ∧
      t.score = 0 ∧ t.standing = .engaged ∧ t.recovery = 0 ∧
      (∀ n : Fin 32, t.peer n = .blank (if n = straps.number then .self else .absent)) ∧
      t.faults = { FaultSet.empty with
        estop := s.inputActive .estop, drvflt := s.inputActive .drvflt } ∧
      t.notices = (if s.inputActive .estop then [Notice.fault .estop 0] else []) ++
        (if s.inputActive .drvflt then [Notice.fault .drvflt 0] else []) ∧
      t.lost = 0 ∧
      t.ownHalt.raised = ((s.inputActive .estop && s.config.propagate.getLsbD 0) ||
        (s.inputActive .drvflt && s.config.propagate.getLsbD 1)) ∧
      t.port = { s.port with taken := true, result := [0] }

/-! ### The lifecycle -/

/-- JOIN, in Configured, starts the Listening time and turns the receiver on, its counts at 0 (R155); JOIN, LEAVE and
WRITE_CONFIG in any other state return STATE with no effect (R154, R188). -/
def Obligations.JoinStartsListeningAndOthersAreRefused : Prop :=
  ∀ (s : State),
    s.awaitsCommand →
    (s.lifecycle = .configured → ∃ t, exec .join s = .next t ∧
      t.lifecycle = .listening ∧ t.listenTimer = 16000 * (20 * s.config.presencePeriod.toNat) ∧
      t.lif.receiver = .hunting ∧ t.lif.idle = 0 ∧ t.lif.quiet = 0 ∧ t.lif.dominant = s.lif.dominant ∧
      t.port.result = [0] ∧
      { t with
        lifecycle := s.lifecycle, listenTimer := s.listenTimer, lif := s.lif, bitPhase := s.bitPhase
        port := s.port } = s) ∧
    (s.lifecycle ≠ .configured → exec .join s = .next (respond .state [] s)) ∧
    (s.lifecycle ≠ .listening → s.lifecycle ≠ .online → exec .leave s = .next (respond .state [] s)) ∧
    (AtRest s → s.lifecycle ≠ .unconfigured → s.lifecycle ≠ .configured →
      ∀ block : List Byte, exec (.writeConfig block) s = .next (respond .state s.config.bytes s))

/-- LEAVE, in Listening or Online, takes the part off the line: the queue, the Outbound Queue and the Post
Table empty, the tallies, the Halt Table, the roster and the standing cleared; the configuration, the fault set, the
positions, the inputs and the sequence counter kept. Every POST handed on before it and not yet taken is then refused, and
ANSWER_DROPPED takes the place of its answer (R7, R176). That the cleared own halt then reads as Decelerating is the model's
choice (log 4). -/
def Obligations.LeaveTakesTheStationOffTheLine : Prop :=
  ∀ (s : State),
    s.awaitsCommand → s.onLine → QueueInOrder s → ∃ t, exec .leave s = .next t ∧
      t.lifecycle = .configured ∧ t.listenTimer = 0 ∧ t.presenceTimer = 0 ∧
      t.queue = [] ∧ t.axis.state = .idle ∧ t.outbound = [] ∧ t.posts = [] ∧
      (∀ r ∈ t.reactions, r.tally = 0 ∧ r.overflow = false) ∧
      t.ownHalt.raised = false ∧ t.ownHalt.reason = 0 ∧ t.ownHalt.kind = .decelerating ∧
      t.ownHalt.owed = .none ∧ (∀ h ∈ t.halts, h = none) ∧
      (∀ n : Fin 32, t.peer n = .blank (if n = s.station then .self else .absent)) ∧
      t.score = 0 ∧ t.standing = .engaged ∧ t.recovery = 0 ∧
      t.lif.receiver = .off ∧ t.lif.transmitter = .silent ∧ t.lif.flight = none ∧ t.lif.yielding = false ∧
      t.lif.sequence = s.lif.sequence ∧
      t.config = s.config ∧ t.station = s.station ∧ t.faults = s.faults ∧ t.command = s.command ∧
      t.measured = s.measured ∧ t.inputs = s.inputs ∧ t.port.result = [0] ∧
      t.posted = [] ∧
      (t.notices.length < 16 → t.notices.drop (t.notices.length - s.posted.length) = s.posted.map fun p =>
        .answerDropped (byteAt p.segment 1) p.source p.sequence
          (.refused (if s.config.postMask.getLsbD p.source.val then .state else .notPermitted)))

/-- WRITE_CONFIG, in Unconfigured or Configured: a block with a field out of range is INVALID; a valid one replaces the
block whole and makes the station Configured, and a changed encoder mode sets the measured position to the command
position. Either way the block as it then stands is returned. A changed active level judges its input anew: an ESTOP or
DRVFLT that becomes Active so, and a following gap beyond a changed limit, enters its cause with its notice, the axis stops
at once and the queue is flushed, and under the new propagate mask the own halt is raised; an IN0 or IN1 that changes so
triggers the capture slot set on the edge (R45, R77, R82, R84, R89, R94, R188, R189). -/
def Obligations.WriteConfigReplacesTheBlock : Prop :=
  ∀ (s : State) (block : List Byte) (i : Input) (n : Fin 4),
    AtRest s → s.awaitsCommand → (s.lifecycle = .unconfigured ∨ s.lifecycle = .configured) →
    let w := exec (.writeConfig block) s
    let d := s.captures.getD n.val .cleared
    (configOfBytes block = none → w = .next (respond .invalid s.config.bytes s)) ∧
    (∀ c ∈ configOfBytes block, ∃ t, w = .next t ∧
      t.config = c ∧ t.lifecycle = .configured ∧ t.port.result = 0 :: c.bytes) ∧
    (∀ c ∈ configOfBytes block,
      let plain := respond .ok c.bytes { s with config := c, lifecycle := .configured }
      let enters (t : State) (x : Cause) (flag : Nat) (reason : Byte) : Prop :=
        t.faults = s.faults.put x true ∧ StopMade .immediate s t ∧
        (s.notices.length < 16 → (t.notices.drop s.notices.length).head? = some (.fault x s.command)) ∧
        (c.propagate.getLsbD flag = true → t.ownHalt.raised = true ∧ (s.ownHalt.raised = false →
          t.ownHalt.reason = reason ∧ t.ownHalt.kind = .immediate ∧ t.ownHalt.how = .cause)) ∧
        (c.propagate.getLsbD flag = false → t.ownHalt = s.ownHalt) ∧
        { t with
          config := s.config, lifecycle := s.lifecycle, faults := s.faults, queue := s.queue, axis := s.axis
          ownHalt := s.ownHalt, notices := s.notices, lost := s.lost, outbound := s.outbound
          nextFrame := s.nextFrame, lif := s.lif, port := s.port } = s
      (c.activeHigh = s.config.activeHigh →
        (c.encoder = s.config.encoder → c.gapLimit = s.config.gapLimit → w = .next plain) ∧
        (c.encoder ≠ s.config.encoder → NoWatchArmed s → w = .next { plain with measured := s.command }) ∧
        (c.encoder = s.config.encoder → c.gapLimit ≠ s.config.gapLimit →
          let exceeds := c.encoder ≠ .off ∧ c.gapLimit ≠ 0 ∧
            c.gapLimit.toNat < (s.command - s.measured).toInt.natAbs
          (¬exceeds ∨ s.faults.followingGap = true → w = .next plain) ∧
          (exceeds → s.faults.followingGap = false → QueueInOrder s →
            ∃ t, w = .next t ∧ enters t .followingGap 2 3))) ∧
      (c.activeHigh = s.config.activeHigh ^^^ (1#7 <<< inputCode i) → c.encoder = s.config.encoder →
        c.gapLimit = s.config.gapLimit →
        let active := (s.inputs.get i).level == c.activeHigh.getLsbD (inputCode i)
        (active = true → QueueInOrder s →
          (i = .estop → s.faults.estop = false → ∃ t, w = .next t ∧ enters t .estop 0 1) ∧
          (i = .drvflt → s.faults.drvflt = false → ∃ t, w = .next t ∧ enters t .drvflt 1 2)) ∧
        (i = .estop ∨ i = .drvflt → active = false → w = .next plain) ∧
        (TablesFit s → s.queue = [] → i = .in0 ∨ i = .in1 →
          let edge : CaptureSetup :=
            if i = .in0 then (if active then .in0Rising else .in0Falling)
            else (if active then .in1Rising else .in1Falling)
          (∀ m : Fin 4, (s.captures.getD m.val .cleared).setup = edge ↔ m = n) →
          ∃ t, w = .next t ∧
            t.captures = s.captures.set n.val
              (if d.valid then { d with missed := true } else
                { valid := true, missed := false, command := s.command, measured := s.measured
                  headTag := none, trigger := .edge edge, setup := edge }) ∧
            (s.notices.length < 16 → t.notices = s.notices ++
              (if d.valid then [] else [Notice.captureTaken n (.edge edge)])) ∧
            { t with
              config := s.config, lifecycle := s.lifecycle, captures := s.captures, notices := s.notices
              lost := s.lost, port := s.port, free := s.free } = s)))

/-- REJOIN returns a Withdrawn station on the line to Engaged once the recovery count is 48; the queue then opens, and a
raised own halt is offered to the line first, whichever request came first. In every other case it is refused STATE. The
score and the recovery count are returned as they then stand (R140, R149, R150). -/
def Obligations.RejoinReturnsToEngaged : Prop :=
  ∀ (s : State),
    s.awaitsCommand →
    (s.standing = .withdrawn → s.onLine → 48 ≤ s.recovery → ∃ t, exec .rejoin s = .next t ∧
      t.standing = .engaged ∧ t.score = 0 ∧ t.recovery = 0 ∧ t.port.result = [0, 0, 0] ∧
      (s.notices.length < 16 →
        t.notices = s.notices ++ [.standingChanged .withdrawn .engaged 0 .rejoin]) ∧
      (s.lifecycle = .listening →
        { t with
          standing := s.standing, score := s.score, recovery := s.recovery, notices := s.notices
          lost := s.lost, port := s.port } = s) ∧
      (s.lifecycle = .online → s.outbound = [] →
        t.presenceTimer = 16000 * (10 * s.config.presencePeriod.toNat) ∧
        (∃ f ∈ t.outbound, f.payload.kind = .presence) ∧
        (s.ownHalt.raised → ∃ f, firstFrame t.outbound = some f ∧
          f.payload = .halt s.ownHalt.reason s.ownHalt.kind))) ∧
    (s.standing ≠ .withdrawn ∨ s.onLine = false ∨ s.recovery < 48 →
      exec .rejoin s = .next (respond .state [BitVec.ofNat 8 s.score, BitVec.ofNat 8 s.recovery] s))

/-! ### The Segment Queue -/

/-- APPEND_SEGMENT makes its checks in order and answers by the first that fails, the queue unchanged. When all pass, the
segment joins the tail with origin Local and the depth is returned; behind a head, or off the line, nothing else happens
but that a first entry makes the axis GATED (R4, R8). -/
def Obligations.AppendChecksInOrderAndJoinsTheTail : Prop :=
  ∀ (s : State) (bytes : List Byte),
    AtRest s → s.awaitsCommand →
    (s.takesAppends = false → exec (.appendSegment bytes) s = .next (respond .state [] s)) ∧
    (s.takesAppends → s.halted → exec (.appendSegment bytes) s = .next (respond .halted [] s)) ∧
    (s.takesAppends → s.halted = false → 32 ≤ s.queue.length →
      exec (.appendSegment bytes) s = .next (respond .full [] s)) ∧
    (s.takesAppends → s.halted = false → s.queue.length < 32 → validSegment s.config bytes = none →
      exec (.appendSegment bytes) s = .next (respond .invalid [] s)) ∧
    (∀ g ∈ validSegment s.config bytes, s.takesAppends → s.halted = false → s.queue.length < 32 →
      (s.queue ≠ [] ∨ s.lifecycle ≠ .online) →
      exec (.appendSegment bytes) s =
        .next (respond .ok [BitVec.ofNat 8 (s.queue.length + 1)]
          { s with
            queue := s.queue ++
              [{ segment := g, origin := .localPort, state := .waiting, consumed := false }]
            axis := if s.queue = [] then { s.axis with state := .gated } else s.axis }))

/-- A segment appended Online to an empty queue is evaluated at once. Behind a shut gate it waits. A RUN, a MOVE_REL and a
MOVE_ABS that has a way to go start with their first pulse: a MOVE_REL in the direction of its sign and a MOVE_ABS toward
its target, with as many pulses remaining as its way is long; at base speed, the speed raised by the acceleration over the
speed, or in CRUISE at a top speed at or below base speed; the outputs in the mode and direction of the segment, the next
pulse one interval later; a move of one pulse is Completed. The start mark is asked for after the start check and before the
first pulse, stamped with the command position. A DWELL starts its time, and a Tally gate gives up one count. A SETPOS and a
MOVE_ABS of distance 0 complete in the same operation, the marks of a SETPOS stamped with the position before it and after
it; so does a SEEK whose input is active, zeroing the positions when told to. An active hard limit in the way, or a first
step beyond a software limit, refuses the start: the cause enters, no pulse and no mark comes, the segment retires Stopped
(R10, R11, R12, R13, R17, R24, R25, R26, R27, R28, R30, R31, R32, R33, R35, R46, R50). The model's choices here: the pulses
remaining and the plan are cleared when the segment ends (log 25), and where the first step is refused too, the hard limit's
cause alone enters (log 39). -/
def Obligations.AppendedRunStartsAtOnce : Prop :=
  ∀ (s : State) (bytes : List Byte) (g : Segment),
    AtRest s → s.awaitsCommand → s.lifecycle = .online → s.halted = false → s.queue = [] →
    validSegment s.config bytes = some g → NoWatchArmed s →
    let c := exec (.appendSegment bytes) s
    let e : Entry := { segment := g, origin := .localPort, state := .running, consumed := false }
    let room (d : Dir) : Prop := s.config.softEnabled = false ∧
      (d = .plus → s.command.toInt < 2147483647) ∧ (d = .minus → -2147483648 < s.command.toInt)
    let base := s.config.baseSpeed.toNat
    let way (d : Dir) (k : Nat) : Int := match d with | .plus => k | .minus => -k
    let moves (d : Dir) (k : Nat) (w : Position) (r : Ramp) : Prop := g.body = .run d r ∧ k = 0 ∨ 1 ≤ k ∧
      (g.body = .moveRel w r ∧ w.toInt = way d k ∨ g.body = .moveAbs w r ∧ w.toInt = s.command.toInt + way d k)
    let marked (i : Nat) (m : Mark) (p : Position) : OutFrame :=
      { id := s.nextFrame + i, dest := .broadcast, payload := .mark m (some p)
        sequence := s.lif.sequence + Fin.ofNat 16 i, attempts := 0, inFlight := false, held := none }
    let asked (i : Nat) (m : Mark) (p : Position) (o : EmitOrigin) : Emission :=
      { mark := m, stamp := some p, origin := o, index := g.tag, frame := s.nextFrame + i }
    (s.gateOpen g.gate = false → c = .next (respond .ok [1]
      { s with queue := [{ e with state := .waiting }], axis := { s.axis with state := .gated } })) ∧
    (∀ (d : Dir) (k : Nat) (w : Position) (r : Ramp), moves d k w r → g.gate = .absent →
      s.config.encoder = .off → room d → s.inputActive (limitInput d) = false →
      g.startMark = none ∨ (s.canSend ∧ s.outbound.length < 10) → (k = 1 → g.endMark = none) →
      ∃ t, c = .next t ∧
        t.command = (match d with | .plus => s.command + 1 | .minus => s.command - 1) ∧
        t.measured = t.command ∧ t.axis.dir = d ∧ t.axis.pulseMode = s.config.pulseMode ∧
        t.axis.pulseOut = some (if s.config.pulseMode = .cwCcw ∧ d = .minus then .dirCcw else .stepCw) ∧
        (k ≠ 1 → t.queue = [e] ∧ t.notices = s.notices ∧ t.axis.remaining = k - 1 ∧
          (base < r.top →
            t.axis.speed =
              min (r.top * 65536) (base * 65536 + 1000 * r.accel * 65536 * 65536 / (base * 65536)) ∧
            (t.axis.state = .cruise ↔ t.axis.speed = r.top * 65536) ∧
            (t.axis.state = .rampUp ↔ t.axis.speed ≠ r.top * 65536)) ∧
          (r.top ≤ base → t.axis.speed = r.top * 65536 ∧ t.axis.state = .cruise) ∧
          t.axis.pulseTimer = interval t.axis.speed) ∧
        (k = 1 → t.queue = [] ∧ t.axis.state = .idle ∧ t.axis.speed = 0 ∧
          (s.notices.length < 16 →
            t.notices = s.notices ++ [.segmentRetired g.tag .localPort .completed t.command])) ∧
        t.outbound = s.outbound ++ g.startMark.toList.map (fun m => marked 0 m s.command) ∧
        t.emissions = s.emissions ++ g.startMark.toList.map (fun m => asked 0 m s.command .start) ∧
        (g.startMark = none → t.lif = s.lif) ∧ t.port.result = [0, 1] ∧
        { t with
          queue := s.queue, axis := s.axis, command := s.command, measured := s.measured
          notices := s.notices, lost := s.lost, outbound := s.outbound, emissions := s.emissions
          nextFrame := s.nextFrame, lif := s.lif, port := s.port } = s) ∧
    (∀ (n : Nat), g.body = .dwell n → s.gateOpen g.gate → g.startMark = none →
      c = .next (respond .ok [1]
        { s with
          queue := [e], axis := { s.axis.ended with state := .dwell, dwellTimer := 16000 * n }
          reactions :=
            match g.gate with
            | .tally k =>
              s.reactions.set k.val { s.reaction k with tally := (s.reaction k).tally - 1 }
            | _ => s.reactions })) ∧
    (∀ (x : Position), g.body = .setpos x → g.gate = .absent → g.startMark = none → g.endMark = none →
      c = .next (respond .ok [1] (notify (.segmentRetired g.tag .localPort .completed x)
        { s with command := x, measured := x, axis := { s.axis.ended with state := .idle } }))) ∧
    (∀ (x : Position) (a b : Mark), g.body = .setpos x → g.gate = .absent → g.startMark = some a →
      g.endMark = some b → s.canSend → s.outbound.length < 9 →
      ∃ t, c = .next t ∧ t.queue = [] ∧ t.command = x ∧ t.measured = x ∧
        t.outbound = s.outbound ++ [marked 0 a s.command, marked 1 b x] ∧
        t.emissions = s.emissions ++ [asked 0 a s.command .start, asked 1 b x .finish] ∧
        (s.notices.length < 16 → t.notices = s.notices ++ [.segmentRetired g.tag .localPort .completed x]) ∧
        { t with
          axis := s.axis, command := s.command, measured := s.measured, notices := s.notices, lost := s.lost
          outbound := s.outbound, emissions := s.emissions, nextFrame := s.nextFrame, lif := s.lif
          port := s.port } = s) ∧
    (∀ (r : Ramp), g.body = .moveAbs s.command r → g.gate = .absent → g.startMark = none → g.endMark = none →
      c = .next (respond .ok [1] (notify (.segmentRetired g.tag .localPort .completed s.command)
        { s with axis := { s.axis.ended with state := .idle } }))) ∧
    (∀ (d : Dir) (i : Input) (zero : Bool) (k : StopKind) (r : Ramp), g.body = .seek d i zero k r →
      g.gate = .absent → g.startMark = none → g.endMark = none → room d → s.inputActive i →
      (s.inputActive (limitInput d) = false ∨ i = limitInput d) →
      ∃ t, c = .next t ∧ t.queue = [] ∧ t.axis.state = .idle ∧ t.axis.speed = 0 ∧ t.axis.dir = d ∧
        t.command = (if zero then 0 else s.command) ∧ t.measured = (if zero then 0 else s.measured) ∧
        (s.notices.length < 16 →
          t.notices = s.notices ++ [.segmentRetired g.tag .localPort .completed t.command]) ∧
        { t with
          axis := s.axis, command := s.command, measured := s.measured, notices := s.notices
          lost := s.lost, port := s.port } = s) ∧
    (∀ (d : Dir) (k : Nat) (w : Position) (r : Ramp) (x : Cause), moves d k w r → g.gate = .absent →
      s.inputActive (limitInput d) = true ∧ x = limitCause d ∨
        s.inputActive (limitInput d) = false ∧ x = softCause d ∧ s.config.softEnabled = true ∧
          (match d with | .plus => s.config.softMax | .minus => s.config.softMin) = s.command →
      ∃ t, c = .next t ∧ t.queue = [] ∧ t.axis.state = .idle ∧ t.axis.speed = 0 ∧ t.axis.dir = d ∧
        t.faults = s.faults.put x true ∧
        (s.notices.length < 15 → t.notices = s.notices ++
          [.fault x s.command, .segmentRetired g.tag .localPort .stopped s.command]) ∧
        { t with
          axis := s.axis, faults := s.faults, notices := s.notices, lost := s.lost, port := s.port } = s)

/-- FLUSH removes every Waiting entry, each retiring Flushed in queue order, spares a Running head and a Committed entry,
and returns the number removed (R17, R20). -/
def Obligations.FlushRemovesWhatHasNotRun : Prop :=
  ∀ (s : State),
    AtRest s → s.awaitsCommand → ∃ t, exec .flush s = .next t ∧
      t.queue = s.queue.filter (fun e => e.state != .waiting) ∧
      t.axis = (if t.queue = [] ∧ s.axis.state = .gated then { s.axis with state := .idle } else s.axis) ∧
      t.port.result = [0, BitVec.ofNat 8 (s.queue.countP fun e => e.state == .waiting)] ∧
      (s.notices.length + 2 * s.queue.length ≤ 16 →
        let retired (n : Notice) : Bool := match n with | .segmentRetired .. => true | _ => false
        t.notices.filter retired = s.notices.filter retired ++ (s.queue.filter fun e => e.state == .waiting).map
          (fun e => .segmentRetired e.segment.tag e.origin .flushed s.command)) ∧
      { t with
        queue := s.queue, axis := s.axis, notices := s.notices, lost := s.lost, outbound := s.outbound
        nextFrame := s.nextFrame, lif := s.lif, port := s.port } = s

/-- STOP with a moving head above base speed: the head brakes for the stop from its present speed at the greater of its own
deceleration rate and the stop rate, and everything behind it is flushed; a head that brakes already keeps its rate, and any
other ends at once. ABORT with a running head: no further pulse,
speed 0, the head retires Stopped first and the rest Flushed; nothing enters the fault set. With an empty queue either
only answers OK (R19, R41, R42, R88, R89, R91). -/
def Obligations.StopAndAbortEndTheMotion : Prop :=
  ∀ (s : State),
    AtRest s → s.awaitsCommand →
    (s.queue = [] → exec .stop s = .next (respond .ok [] s) ∧ exec .abort s = .next (respond .ok [] s)) ∧
    (∀ e ∈ s.queue.head?, e.state = .running →
      (s.axis.state = .rampUp ∨ s.axis.state = .cruise ∨ s.axis.state = .rampDown) →
      s.config.baseSpeed.toNat * 65536 < s.axis.speed →
      ∃ t, exec .stop s = .next t ∧
        t.queue = [e] ∧ t.axis.state = .braking ∧ t.axis.braking = .stop ∧ t.axis.speed = s.axis.speed ∧
        t.axis.dir = s.axis.dir ∧ t.axis.remaining = s.axis.remaining ∧
        t.axis.brakeRate = max e.decelRate (1000 * s.config.stopRate.toNat) ∧ t.port.result = [0] ∧
        { t with
          queue := s.queue, axis := s.axis, notices := s.notices, lost := s.lost, outbound := s.outbound
          nextFrame := s.nextFrame, lif := s.lif, port := s.port } = s) ∧
    (QueueInOrder s → ∃ t, exec .stop s = .next t ∧ StopMade .decelerating s t) ∧
    (QueueInOrder s → ∀ e ∈ s.queue.head?, e.state = .running →
      ∃ t, exec .abort s = .next t ∧
        t.queue = [] ∧ t.axis.state = .idle ∧ t.axis.speed = 0 ∧ t.axis.pulseTimer = 0 ∧
        t.axis.dir = s.axis.dir ∧ t.port.result = [0] ∧
        (s.notices.length < 16 →
          (t.notices.drop s.notices.length).head? =
            some (.segmentRetired e.segment.tag e.origin .stopped s.command)) ∧
        { t with
          queue := s.queue, axis := s.axis, notices := s.notices, lost := s.lost, outbound := s.outbound
          nextFrame := s.nextFrame, lif := s.lif, port := s.port } = s)

/-! ### Faults and halts -/

/-- ACKNOWLEDGE removes every cause whose condition has gone: ESTOP and DRVFLT stay while their inputs are Active, a gap
still too great is raised anew, and a halt raised by a cause lifts when no propagating cause is left, with a LIFT
admitted where there is room. With no cause left and nothing else that halts, a Waiting head starts, said of a DWELL;
for a head that does not start nothing more happens (R11, R92, R96, R97). That the pulses remaining and the plan are
clear when a segment that does not move starts is the model's (log 25). -/
def Obligations.AcknowledgeRemovesCausesThatHaveGone : Prop :=
  ∀ (s : State) (e : Entry) (n : Nat),
    AtRest s → s.awaitsCommand →
    let stay : FaultSet := { FaultSet.empty with
      estop := s.faults.estop && s.inputActive .estop, drvflt := s.faults.drvflt && s.inputActive .drvflt }
    let lifts : Prop := s.ownHalt.raised = true ∧ s.ownHalt.how = .cause ∧
      (stay.estop && s.config.propagate.getLsbD 0) = false ∧ (stay.drvflt && s.config.propagate.getLsbD 1) = false
    (s.faults = .empty → exec .acknowledge s = .next (respond .ok [0, s.ownHaltByte] s)) ∧
    (s.faults ≠ .empty → (s.faults.followingGap → gapExceeds s = false) → HeadStays s →
      ∃ t, exec .acknowledge s = .next t ∧ t.faults = stay ∧
        (lifts → t.ownHalt.raised = false ∧ t.ownHalt.reason = 0 ∧
          (s.canSend → s.outbound.length < 12 → t.ownHalt.owed = .none ∧ ∃ f, t.outbound.getLast? = some f ∧
            f.payload = .lift ∧ f.dest = .broadcast ∧ f.attempts = 0) ∧
          (s.canSend = false → t.ownHalt.owed = .none)) ∧
        (¬lifts → t.ownHalt = s.ownHalt ∧ t.outbound = s.outbound ∧ t.lif = s.lif) ∧
        t.port.result = [0, t.faults.byte, t.ownHaltByte] ∧
        { t with
          faults := s.faults, ownHalt := s.ownHalt, outbound := s.outbound, nextFrame := s.nextFrame
          lif := s.lif, port := s.port } = s) ∧
    (s.faults ≠ .empty → (s.faults.followingGap → gapExceeds s = false) → stay = .empty →
      s.ownHalt.raised = false ∨ s.ownHalt.how = .cause → s.haltListed = false → s.lifecycle = .online →
      DwellWaits e n s →
      ∃ t, exec .acknowledge s = .next t ∧ t.faults = .empty ∧ t.ownHalt.raised = false ∧ DwellStarts e n s t ∧
        { t with
          faults := s.faults, ownHalt := s.ownHalt, queue := s.queue, axis := s.axis, outbound := s.outbound
          nextFrame := s.nextFrame, lif := s.lif, port := s.port } = s) ∧
    (s.faults.followingGap → gapExceeds s → s.queue = [] →
      ∃ t, exec .acknowledge s = .next t ∧ t.faults.followingGap = true ∧
        (s.notices.length < 16 → t.notices = s.notices ++ [.fault .followingGap s.command]))

/-- RAISE_HALT: a stop kind above 1 is INVALID. Otherwise the own halt is raised by command with the given reason and kind,
the stop is made (an immediate one ends the head at speed 0, a decelerating one brakes a moving head above base speed at
its stop's rate), and the halt is announced: with room and none owed a HALT is admitted, and where none may be sent none
stays owed (R19, R41, R42, R88, R89, R95, R97). -/
def Obligations.RaiseHaltStopsAndAnnounces : Prop :=
  ∀ (s : State) (reason kind : Byte),
    AtRest s → s.awaitsCommand →
    (2 ≤ kind.toNat → exec (.raiseHalt reason kind) s = .next (respond .invalid [] s)) ∧
    (kind.toNat < 2 → QueueInOrder s → ∃ t, exec (.raiseHalt reason kind) s = .next t ∧
      t.ownHalt.raised = true ∧ t.ownHalt.reason = reason ∧
      t.ownHalt.kind = (if kind = 1 then .immediate else .decelerating) ∧ t.ownHalt.how = .command ∧
      t.port.result = [0] ∧ (∀ e ∈ t.queue, e.state = .running) ∧ (kind = 1 → t.queue = []) ∧
      StopMade (if kind = 1 then .immediate else .decelerating) s t ∧
      (s.canSend → s.outbound.length < 12 → s.ownHalt.owed = .none →
        t.ownHalt.owed = .none ∧ ∃ f, t.outbound.getLast? = some f ∧
          f.payload = .halt reason t.ownHalt.kind ∧ f.dest = .broadcast ∧ f.attempts = 0) ∧
      (s.canSend = false → t.ownHalt.owed = .none) ∧
      { t with
        ownHalt := s.ownHalt, queue := s.queue, axis := s.axis, notices := s.notices, lost := s.lost
        outbound := s.outbound, nextFrame := s.nextFrame, lif := s.lif, port := s.port } = s)

/-- LIFT_HALT lifts a halt raised by command, or turns it into a halt raised by the first propagating cause while one
stands; a clear halt or one raised by a cause gives STATE. Either change is announced: with room a LIFT, or the HALT of
the cause, is admitted and none stays owed. When nothing else halts, a Waiting head starts on the lift, said of a DWELL;
for a head that does not start nothing more happens (R11, R96, R97). The stop kind Decelerating that a lifted halt then
reads as is the model's (log 4). That the pulses remaining and the plan are clear when a segment that does not move
starts is the model's (log 25). -/
def Obligations.LiftHaltFollowsItsTable : Prop :=
  ∀ (s : State) (x : Entry) (n : Nat),
    AtRest s → s.awaitsCommand →
    let e := s.faults.estop && s.config.propagate.getLsbD 0
    let d := s.faults.drvflt && s.config.propagate.getLsbD 1
    let g := s.faults.followingGap && s.config.propagate.getLsbD 2
    (s.ownHalt.raised = false ∨ s.ownHalt.how = .cause →
      exec .liftHalt s = .next (respond .state [] s)) ∧
    (s.ownHalt.raised → s.ownHalt.how = .command → HeadStays s → ∃ t, exec .liftHalt s = .next t ∧
      (e || d || g → t.ownHalt.raised = true ∧ t.ownHalt.how = .cause ∧ t.ownHalt.kind = .immediate ∧
        t.ownHalt.reason = (if e then 1 else if d then 2 else 3) ∧ t.port.result = [0, 1]) ∧
      ((e || d || g) = false → t.ownHalt.raised = false ∧ t.ownHalt.reason = 0 ∧
        t.ownHalt.kind = .decelerating ∧ t.port.result = [0, 0]) ∧
      (s.canSend → s.outbound.length < 12 → s.ownHalt.owed = .none →
        t.ownHalt.owed = .none ∧ ∃ f, t.outbound.getLast? = some f ∧
          f.payload = (if t.ownHalt.raised then .halt t.ownHalt.reason .immediate else .lift) ∧
          f.dest = .broadcast ∧ f.attempts = 0) ∧
      (s.canSend = false → t.ownHalt.owed = .none) ∧
      { t with
        ownHalt := s.ownHalt, outbound := s.outbound, nextFrame := s.nextFrame, lif := s.lif
        port := s.port } = s) ∧
    (s.ownHalt.raised → s.ownHalt.how = .command → s.faults = .empty → s.haltListed = false →
      s.lifecycle = .online → DwellWaits x n s →
      ∃ t, exec .liftHalt s = .next t ∧ t.ownHalt.raised = false ∧ t.port.result = [0, 0] ∧ DwellStarts x n s t ∧
        { t with
          ownHalt := s.ownHalt, queue := s.queue, axis := s.axis, outbound := s.outbound
          nextFrame := s.nextFrame, lif := s.lif, port := s.port } = s)

/-- DISMISS removes the halt-list entry of every Lapsed or Absent source, each with HALT_CLEARED, and returns how many.
When that empties the list and nothing else halts, a Waiting head starts, said of a DWELL; for a head that does not
start nothing more happens (R11, R102). The ascending order of the notices is the model's (log 43). That the pulses
remaining and the plan are clear when a segment that does not move starts is the model's (log 25). -/
def Obligations.DismissRemovesSilentSources : Prop :=
  ∀ (s : State) (x : Entry) (k : Nat),
    AtRest s → s.awaitsCommand → StationTablesFit s →
    let silent (n : Station) : Prop := (s.peer n).state = .lapsed ∨ (s.peer n).state = .absent
    let gone := (List.finRange 32).filter fun n =>
      (s.haltOf n).isSome && ((s.peer n).state == .lapsed || (s.peer n).state == .absent)
    (HeadStays s → ∃ t, exec .dismiss s = .next t ∧
      (∀ n : Fin 32, t.haltOf n = if silent n then none else s.haltOf n) ∧
      t.port.result = [0, BitVec.ofNat 8 gone.length] ∧
      (s.notices.length + gone.length ≤ 16 →
        t.notices = s.notices ++ gone.map (fun n => .haltCleared n .dismissed)) ∧
      { t with halts := s.halts, notices := s.notices, lost := s.lost, port := s.port } = s) ∧
    (DwellWaits x k s → s.lifecycle = .online → s.faults = .empty → s.ownHalt.raised = false → s.haltListed →
      (∀ n : Fin 32, (s.haltOf n).isSome → silent n) →
      ∃ t, exec .dismiss s = .next t ∧ t.haltListed = false ∧ DwellStarts x k s t ∧
        { t with
          halts := s.halts, queue := s.queue, axis := s.axis, notices := s.notices, lost := s.lost
          port := s.port } = s)

/-! ### Marks and reactions -/

/-- EMIT_MARK: a mark above 63 or a stamp choice above 2 is INVALID. With the queue open and fewer than 10 frames held, a
MARK is admitted and its emission pends; otherwise MARK_NOT_SENT is queued with its reason and the mark is handed to the
own Reaction Table at once (R51, R52, R54, R55, R118, R130). -/
def Obligations.EmitMarkSendsOrLoopsBack : Prop :=
  ∀ (s : State) (mark choice : Byte) (value : Position),
    AtRest s → s.awaitsCommand →
    let m : Mark := Fin.ofNat 64 mark.toNat
    let stamp := if choice = 0 then none else if choice = 1 then some s.command else some value
    (64 ≤ mark.toNat ∨ 3 ≤ choice.toNat →
      exec (.emitMark mark choice value) s = .next (respond .invalid [] s)) ∧
    (mark.toNat < 64 → choice.toNat < 3 → s.canSend → s.outbound.length < 10 →
      ∃ t, exec (.emitMark mark choice value) s = .next t ∧
        t.outbound = s.outbound ++
          [{ id := s.nextFrame, dest := .broadcast, payload := .mark m stamp, sequence := s.lif.sequence
             attempts := 0, inFlight := false, held := none }] ∧
        t.emissions = s.emissions ++
          [{ mark := m, stamp, origin := .command, index := 0, frame := s.nextFrame }] ∧
        t.lif.sequence = s.lif.sequence + 1 ∧ t.port.result = [0, 1] ∧
        { t with
          outbound := s.outbound, emissions := s.emissions, nextFrame := s.nextFrame, lif := s.lif
          port := s.port } = s) ∧
    (mark.toNat < 64 → choice.toNat < 3 → (s.canSend = false ∨ 10 ≤ s.outbound.length) →
      exec (.emitMark mark choice value) s =
        .next (settle (takeArrival { source := s.station, mark := m, stamp } (respond .ok [0]
          (notify (.markNotSent m (if s.canSend then .refused else if s.lifecycle = .online then .withdrawn
            else .notOnline) .command 0) s))))) ∧
    (mark.toNat < 64 → choice.toNat < 3 → (s.canSend = false ∨ 10 ≤ s.outbound.length) →
      NoEntryActs m stamp s →
      ∃ t, exec (.emitMark mark choice value) s = .next t ∧ t.port.result = [0, 0] ∧
        (s.notices.length < 16 → t.notices = s.notices ++
          [.markNotSent m
            (if s.canSend then .refused else if s.lifecycle = .online then .withdrawn else .notOnline)
            .command 0]) ∧
        { t with notices := s.notices, lost := s.lost, port := s.port } = s)

/-- R65: SET_REACTION writes one entry whole, in use and Armed with tally 0, or is INVALID. A head gated on the entry finds
the tally at 0 and keeps waiting: nothing but the entry changes. -/
def Obligations.SetReactionWritesTheEntry : Prop :=
  ∀ (s : State) (index source mark action parameter mode : Byte),
    AtRest s → s.awaitsCommand →
    let good := index.toNat < 24 ∧ source.toNat ≤ 32 ∧ mark.toNat < 64 ∧
      (((action = 0 ∨ action = 1 ∨ action = 4) ∧ parameter = 0) ∨ (action = 2 ∧ parameter.toNat < 4) ∨
        (action = 3 ∧ parameter.toNat < 64)) ∧ mode.toNat < 2
    (¬good → exec (.setReaction index source mark action parameter mode) s =
      .next (respond .invalid [] s)) ∧
    (good → exec (.setReaction index source mark action parameter mode) s =
      .next (respond .ok []
        { s with
          reactions := s.reactions.set index.toNat
            { inUse := true
              source := if source = 32 then none else some (Fin.ofNat 32 source.toNat)
              mark := Fin.ofNat 64 mark.toNat
              action :=
                if action = 0 then .tally
                else if action = 1 then .cut
                else if action = 2 then .capture (Fin.ofNat 4 parameter.toNat)
                else if action = 3 then .emit (Fin.ofNat 64 parameter.toNat)
                else .stopLocal
              once := decide (mode = 0), spent := false, tally := 0, overflow := false } }))

/-- R66: CLEAR_REACTION frees one entry and returns the tally and the overflow flag it held; the freed entry acts on no
arrival, and a head gated on it stays Waiting: nothing but the entry changes (R66). The code of the overflow flag is the
model's (log 41). -/
def Obligations.ClearReactionFreesTheEntry : Prop :=
  ∀ (s : State) (index : Byte) (own : Station) (a : Arrival),
    AtRest s → s.awaitsCommand →
    let r := s.reactions.getD index.toNat .cleared
    let r' := { r with inUse := false, tally := 0, overflow := false }
    (24 ≤ index.toNat → exec (.clearReaction index) s = .next (respond .invalid [] s)) ∧
    (index.toNat < 24 → exec (.clearReaction index) s =
      .next (respond .ok [BitVec.ofNat 8 r.tally, if r.overflow then 1 else 0]
        { s with reactions := s.reactions.set index.toNat r' })) ∧
    r'.acts own a = false

/-- R67: REARM makes one entry in use Armed, with the rest of it as it is, and returns its state, its tally and its overflow
flag as they were; a free entry gives STATE. On an Armed entry it changes nothing, and it starts no evaluation (R67). The
code of the overflow flag is the model's (log 41). -/
def Obligations.RearmArmsTheEntry : Prop :=
  ∀ (s : State) (index : Byte),
    s.awaitsCommand →
    let r := s.reactions.getD index.toNat .cleared
    let told : List Byte := [if r.spent then 1 else 0, BitVec.ofNat 8 r.tally, if r.overflow then 1 else 0]
    (24 ≤ index.toNat → exec (.rearm index) s = .next (respond .invalid [] s)) ∧
    (index.toNat < 24 → r.inUse = false → exec (.rearm index) s = .next (respond .state [] s)) ∧
    (index.toNat < 24 → r.inUse → exec (.rearm index) s =
      .next (respond .ok told { s with reactions := s.reactions.set index.toNat { r with spent := false } })) ∧
    (index.toNat < 24 → r.inUse → r.spent = false → exec (.rearm index) s = .next (respond .ok told s))

/-- An arrival at the Reaction Table: which entries act, what each acting entry becomes, and that the requests wait in
ascending index. The request of an entry that acts alone, as it is taken: a TALLY lets a head gated on the entry start, said
of a DWELL, and takes its count back; a CUT cuts a running head, so that above base speed it brakes at its own deceleration
rate, a DWELL retires Cut with its end mark, and where nothing runs or the axis brakes nothing happens; a CAPTURE triggers
its slot with the entry's index; an EMIT asks for the own mark without a stamp and with origin Reaction; a STOP_LOCAL queues
STOPPED_BY_REACTION and makes the decelerating stop with its flush (R17, R19, R39, R40, R41, R50, R51, R59, R60, R61, R62,
R63, R64, R78). That STOPPED_BY_REACTION comes before the notices of its stop is the model's (log 23), and so is when a
Committed entry returns to Waiting at a cut (log 38) and that the plan is cleared at the end (log 25). -/
def Obligations.ArrivalChangesEveryActingEntry : Prop :=
  ∀ (s : State) (a : Arrival) (n : Fin 24),
    TablesFit s →
    let r := s.reaction n
    let r' := (takeArrival a s).reaction n
    (r.acts s.station a = true ↔ r.inUse = true ∧ r.spent = false ∧
      (r.source = none ∨ r.source = some a.source) ∧ r.mark = a.mark ∧
      ((∃ m : Mark, r.action = .emit m) → a.source ≠ s.station)) ∧
    (r.acts s.station a = false → r' = r) ∧
    (r.acts s.station a →
      r'.spent = r.once ∧
      r'.tally = (if r.action = .tally ∧ r.tally < 15 then r.tally + 1 else r.tally) ∧
      r'.overflow = (if r.action = .tally ∧ 15 ≤ r.tally then true else r.overflow) ∧
      { r' with spent := r.spent, tally := r.tally, overflow := r.overflow } = r) ∧
    (takeArrival a s).handed.requests = s.handed.requests ++
      (List.finRange 24).filterMap (fun k =>
        if (s.reaction k).acts s.station a then
          some { entry := k, action := (s.reaction k).action, source := a.source, mark := a.mark }
        else none) ∧
    { takeArrival a s with reactions := s.reactions, handed := s.handed } = s ∧
    (AtRest s → (∀ k : Fin 24, (s.reaction k).acts s.station a = true ↔ k = n) →
      let t := settle (takeArrival a s)
      let u := { s with reactions := (takeArrival a s).reactions }
      (r.action = .tally →
        (s.queue = [] ∨ (∀ e ∈ s.queue.head?, e.segment.gate ≠ .tally n) → t = u) ∧
        (∀ (e : Entry) (k : Nat), s.queue = [e] → e.state = .waiting → e.consumed = false →
          e.segment.gate = .tally n → e.segment.body = .dwell k → e.segment.startMark = none → s.mayStart →
          DwellStarts e k s t ∧ t.reaction n = { r' with tally := r'.tally - 1 } ∧
          (∀ m : Fin 24, m ≠ n → t.reaction m = s.reaction m) ∧
          { t with queue := s.queue, axis := s.axis, reactions := s.reactions } = s)) ∧
      (r.action = .cut →
        (s.runningHead = none ∨ s.axis.state = .braking → t = u) ∧
        (∀ e ∈ s.runningHead, s.axis.state = .rampDown → s.axis.found = true → t = u) ∧
        (∀ e ∈ s.runningHead,
          e.segment.chain = false ∨ e.segment.body.isRun = false ∨ s.axis.committed = true → s.axis.found = false →
          s.axis.state = .rampUp ∨ s.axis.state = .cruise ∨ s.axis.state = .rampDown →
          s.config.baseSpeed.toNat * 65536 < s.axis.speed →
          t = { u with
            queue := s.queue.take 1 ++ (s.queue.drop 1).map fun n =>
              if n.state = .committed then { n with state := .waiting, consumed := true } else n
            axis := { s.axis with
              state := .braking, braking := .cut, brakeRate := e.decelRate, blend := none
              committed := true, found := false } }) ∧
        (∀ e ∈ s.runningHead, s.axis.state = .dwell → s.queue = [e] → e.origin = .localPort →
          e.segment.endMark = none ∨ (s.canSend ∧ s.outbound.length < 10) →
          t.queue = [] ∧ t.axis = { s.axis.ended with state := .idle } ∧
          (s.notices.length < 16 →
            t.notices = s.notices ++ [.segmentRetired e.segment.tag .localPort .cut s.command]) ∧
          t.outbound = s.outbound ++ e.segment.endMark.toList.map (fun m =>
            { id := s.nextFrame, dest := .broadcast, payload := .mark m (some s.command)
              sequence := s.lif.sequence, attempts := 0, inFlight := false, held := none }) ∧
          t.emissions = s.emissions ++ e.segment.endMark.toList.map (fun m =>
            { mark := m, stamp := some s.command, origin := .finish, index := e.segment.tag
              frame := s.nextFrame }) ∧
          { t with
            queue := s.queue, axis := s.axis, notices := s.notices, lost := s.lost, outbound := s.outbound
            emissions := s.emissions, nextFrame := s.nextFrame, lif := s.lif } = u)) ∧
      (∀ x : Fin 4, r.action = .capture x →
        let d := s.captures.getD x.val .cleared
        (d.valid = false → t = notify (.captureTaken x (.reaction n))
          { u with
            captures := s.captures.set x.val
              { valid := true, missed := false, command := s.command, measured := s.measured
                headTag := s.queue.head?.map fun e => e.segment.tag, trigger := .reaction n, setup := d.setup } }) ∧
        (d.valid → t = { u with captures := s.captures.set x.val { d with missed := true } })) ∧
      (∀ m : Fin 64, r.action = .emit m →
        (s.canSend → s.outbound.length < 10 →
          t.outbound = s.outbound ++
            [{ id := s.nextFrame, dest := .broadcast, payload := .mark m none, sequence := s.lif.sequence
               attempts := 0, inFlight := false, held := none }] ∧
          t.emissions = s.emissions ++
            [{ mark := m, stamp := none, origin := .reaction, index := BitVec.ofNat 8 n.val
               frame := s.nextFrame }] ∧
          { t with
            outbound := s.outbound, emissions := s.emissions, nextFrame := s.nextFrame, lif := s.lif } = u) ∧
        (s.canSend = false ∨ 10 ≤ s.outbound.length →
          t = settle (takeArrival { source := s.station, mark := m, stamp := none }
            (notify (.markNotSent m (if s.canSend then .refused else if s.lifecycle = .online then .withdrawn
              else .notOnline) .reaction (BitVec.ofNat 8 n.val)) u)))) ∧
      (r.action = .stopLocal → QueueInOrder s →
        StopMade .decelerating s t ∧
        (s.notices.length < 16 →
          (t.notices.drop s.notices.length).head? = some (.stoppedByReaction n a.source a.mark)) ∧
        { t with
          queue := s.queue, axis := s.axis, notices := s.notices, lost := s.lost, outbound := s.outbound
          nextFrame := s.nextFrame, lif := s.lif } = u))

/-! ### Watches and captures -/

/-- SET_WATCH: arguments out of range are INVALID; Off writes the record and compares nothing; Arm takes the present
value of the source as the previous one and arms, or hits at once when a level condition holds. The states before and
after are returned (R72, R74, R200). A hit with cut-on-hit cuts the running head (R39, R40, R73): above base speed it
brakes at its own deceleration rate and keeps its tail, a Committed entry back in Waiting; alone at or below base speed
it retires at once, Completed for a RUN and Cut otherwise; a DWELL retires Cut; BRAKING goes on. It is said for every head
but a chained RUN whose plan is still Open. The model's choices here: the previous value of a watch written Off, and the
mark byte without a meaning that is then kept as absent (log 32); the codes of the cut-on-hit byte (log 41); when the
Committed entry returns (log 38); the pulses remaining and the plan cleared at the end (log 25). -/
def Obligations.SetWatchWritesAndArms : Prop :=
  ∀ (s : State) (watch enable source condition : Byte) (value : Position) (mark cut : Byte),
    AtRest s → s.awaitsCommand → TablesFit s →
    let c := exec (.setWatch watch enable source condition value mark cut) s
    let good := watch.toNat < 4 ∧ enable.toNat < 2 ∧ source.toNat < 2 ∧ condition.toNat < 4 ∧
      cut.toNat < 2 ∧ (enable = 1 → (markOfByte mark).isSome)
    let before := (s.watches.getD watch.toNat .cleared).state.code
    let src : WatchSource := if source = 1 then .measured else .command
    let cond : WatchCondition :=
      if condition = 0 then .atOrAbove else if condition = 1 then .below
      else if condition = 2 then .crossUp else .crossDown
    let p := if source = 1 then s.measured else s.command
    let hits := (condition = 0 ∧ value.toInt ≤ p.toInt) ∨ (condition = 1 ∧ p.toInt < value.toInt)
    let w : Watch := { source := src, condition := cond, value, mark := (markOfByte mark).getD none
                       cutOnHit := decide (cut = 1), state := .off, previous := 0 }
    (¬good → c = .next (respond .invalid [] s)) ∧
    (good → enable = 0 →
      c = .next (respond .ok [before, 0] { s with watches := s.watches.set watch.toNat w })) ∧
    (good → enable = 1 → ¬hits →
      c = .next (respond .ok [before, 1]
        { s with watches := s.watches.set watch.toNat { w with state := .armed, previous := p } })) ∧
    (good → enable = 1 → hits → markOfByte mark = some none → cut = 0 →
      HeadStays { s with watches := s.watches.set watch.toNat { w with state := .hit, previous := p } } →
      c = .next (respond .ok [before, 2]
        (notify (.watchHit (Fin.ofNat 4 watch.toNat) (s.queue.head?.map fun e => e.segment.tag))
          { s with watches := s.watches.set watch.toNat { w with state := .hit, previous := p } }))) ∧
    (good → enable = 1 → hits → markOfByte mark = some none → cut = 1 → ∀ e ∈ s.runningHead,
      e.segment.chain = false ∨ e.segment.body.isRun = false ∨ s.axis.committed = true → s.axis.found = false →
      (s.axis.state = .braking ∨ s.config.baseSpeed.toNat * 65536 < s.axis.speed ∧
          (s.axis.state = .rampUp ∨ s.axis.state = .cruise ∨ s.axis.state = .rampDown) →
        c = .next (respond .ok [before, 2] (notify (.watchHit (Fin.ofNat 4 watch.toNat) (some e.segment.tag))
          { s with
            watches := s.watches.set watch.toNat { w with state := .hit, previous := p }
            queue := if s.axis.state = .braking then s.queue else s.queue.take 1 ++ (s.queue.drop 1).map fun n =>
              if n.state = .committed then { n with state := .waiting, consumed := true } else n
            axis := if s.axis.state = .braking then s.axis else
              { s.axis with
                state := .braking, braking := .cut, brakeRate := e.decelRate, blend := none
                committed := true, found := false } }))) ∧
      (s.axis.state = .dwell ∨ s.axis.speed ≤ s.config.baseSpeed.toNat * 65536 ∧
          (s.axis.state = .rampUp ∨ s.axis.state = .cruise ∨ s.axis.state = .rampDown) →
        s.queue = [e] → e.segment.endMark = none → e.origin = .localPort →
        c = .next (respond .ok [before, 2]
          (notify (.segmentRetired e.segment.tag .localPort
            (if s.axis.state ≠ .dwell ∧ e.segment.body.isRun then .completed else .cut) s.command)
          (notify (.watchHit (Fin.ofNat 4 watch.toNat) (some e.segment.tag))
          { s with
            watches := s.watches.set watch.toNat { w with state := .hit, previous := p }
            queue := [], axis := { s.axis.ended with state := .idle } })))))

/-- R72: the four conditions, on a new value and at arming; an Armed watch hits on the first value that finds its condition
true, and a change of one count crosses upward exactly at the value and downward exactly below it. -/
def Obligations.WatchConditionsAreJudged : Prop :=
  ∀ (v p q : Position) (s : State) (w : Fin 4) (x : WatchSource),
    (WatchCondition.atOrAbove.hits v p q = true ↔ v.toInt ≤ p.toInt) ∧
    (WatchCondition.below.hits v p q = true ↔ p.toInt < v.toInt) ∧
    (WatchCondition.crossUp.hits v p q = true ↔ q.toInt < v.toInt ∧ v.toInt ≤ p.toInt) ∧
    (WatchCondition.crossDown.hits v p q = true ↔ v.toInt ≤ q.toInt ∧ p.toInt < v.toInt) ∧
    (WatchCondition.atOrAbove.hitsAtArming v p = true ↔ v.toInt ≤ p.toInt) ∧
    (WatchCondition.below.hitsAtArming v p = true ↔ p.toInt < v.toInt) ∧
    WatchCondition.crossUp.hitsAtArming v p = false ∧ WatchCondition.crossDown.hitsAtArming v p = false ∧
    (WatchCondition.crossDown.hits v p v = true ↔ p.toInt < v.toInt) ∧
    WatchCondition.crossUp.hits v p v = false ∧
    (p.toInt = q.toInt + 1 → (WatchCondition.crossUp.hits v p q = true ↔ p = v)) ∧
    (p.toInt = q.toInt - 1 → (WatchCondition.crossDown.hits v p q = true ↔ p.toInt = v.toInt - 1)) ∧
    (TablesFit s → (s.watch w).state = .armed → (s.watch w).source = x →
      ((compareWatch x p s w).watch w).state =
        (if (s.watch w).condition.hits (s.watch w).value p (s.watch w).previous then .hit else .armed))

/-- SET_CAPTURE writes a slot's set-up and nothing else of it, or is INVALID; a trigger fills an empty slot with the
positions, the head tag and the trigger and queues CAPTURE_TAKEN, and sets missed on a valid one. With the queue empty a
change of IN0 or IN1 to Active is a rising edge and one to Inactive a falling edge, and an edge on which one slot alone is
set triggers that slot (R77, R78, R82). -/
def Obligations.CaptureSlotsAreSetAndFilled : Prop :=
  ∀ (s : State) (slot setup : Byte) (n : Fin 4) (x : Trigger) (i : Input) (high : Bool),
    let c := s.captures.getD slot.toNat .cleared
    let d := s.captures.getD n.val .cleared
    let filled (x : Trigger) : Capture :=
      { valid := true, missed := false, command := s.command, measured := s.measured
        headTag := s.queue.head?.map fun e => e.segment.tag, trigger := x, setup := d.setup }
    let active := high == s.config.activeHigh.getLsbD (inputCode i)
    let edge : CaptureSetup :=
      if i = .in0 then (if active then .in0Rising else .in0Falling)
      else (if active then .in1Rising else .in1Falling)
    (s.awaitsCommand → 4 ≤ slot.toNat ∨ 5 ≤ setup.toNat →
      exec (.setCapture slot setup) s = .next (respond .invalid [] s)) ∧
    (s.awaitsCommand → slot.toNat < 4 → setup.toNat < 5 → exec (.setCapture slot setup) s =
      .next (respond .ok []
        { s with
          captures := s.captures.set slot.toNat
            { c with
              setup := if setup = 0 then .none else if setup = 1 then .in0Rising
                else if setup = 2 then .in0Falling else if setup = 3 then .in1Rising else .in1Falling } })) ∧
    (d.valid = false → trigger n x s =
      notify (.captureTaken n x) { s with captures := s.captures.set n.val (filled x) }) ∧
    (d.valid → trigger n x s = { s with captures := s.captures.set n.val { d with missed := true } }) ∧
    (AtRest s → TablesFit s → s.queue = [] → i = .in0 ∨ i = .in1 → (s.inputs.get i).level ≠ high →
      (∀ m : Fin 4, (s.captures.getD m.val .cleared).setup = edge ↔ m = n) →
      ∃ t, exec (.inputChange i high) s = .next t ∧ (t.inputs.get i).level = high ∧
        t.captures = s.captures.set n.val
          (if d.valid then { d with missed := true } else filled (.edge edge)) ∧
        (s.notices.length < 16 → t.notices = s.notices ++
          (if d.valid then [] else [Notice.captureTaken n (.edge edge)])) ∧
        { t with
          inputs := s.inputs, captures := s.captures, notices := s.notices, lost := s.lost
          free := s.free } = s)

/-- READ_CAPTURE returns a slot's record in its order and empties the slot but for its set-up; an empty slot is left as
it is, and a slot that has been read is filled again by its next trigger (R79, R199). The tag byte 0 of an absent tag is
the model's (log 42), and so are the codes of the flags (log 41). -/
def Obligations.ReadCaptureEmptiesTheSlot : Prop :=
  ∀ (s : State) (slot : Byte) (x : Trigger),
    TablesFit s → s.awaitsCommand →
    let c := s.captures.getD slot.toNat .cleared
    let empty : Capture := { valid := false, missed := false, command := 0, measured := 0, headTag := none
                             trigger := .none, setup := c.setup }
    let told : List Byte := [if c.valid then 1 else 0, if c.missed then 1 else 0, c.trigger.code] ++
      (match c.headTag with | none => [0, 0] | some g => [1, g]) ++ bytesOf 4 c.command ++ bytesOf 4 c.measured
    (4 ≤ slot.toNat → exec (.readCapture slot) s = .next (respond .invalid [] s)) ∧
    (slot.toNat < 4 → exec (.readCapture slot) s =
      .next (respond .ok told { s with captures := s.captures.set slot.toNat empty })) ∧
    (slot.toNat < 4 → c = empty → exec (.readCapture slot) s = .next (respond .ok told s)) ∧
    (slot.toNat < 4 → ∃ t, exec (.readCapture slot) s = .next t ∧
      ((trigger (Fin.ofNat 4 slot.toNat) x t).capture (Fin.ofNat 4 slot.toNat)).valid = true ∧
      ((trigger (Fin.ofNat 4 slot.toNat) x t).capture (Fin.ofNat 4 slot.toNat)).trigger = x)

/-! ### Posts -/

/-- POST_SEGMENT makes its checks in order and answers by the first that fails, nothing changed. When all pass, a POST is
admitted to its destination and the Post Table makes its entry, AwaitingTake with the answer timer at the answer window,
and the sequence is returned. In the period of the clock in which the Outbound Queue closed, a POST that passes the other
checks is refused STATE or FULL, by a free value (log 47) (R118, R130, R132, R170). -/
def Obligations.PostSegmentChecksInOrder : Prop :=
  ∀ (s : State) (destination : Byte) (bytes : List Byte),
    s.awaitsCommand →
    let c := exec (.postSegment destination bytes) s
    let n : Station := Fin.ofNat 32 destination.toNat
    let taken := ∃ e ∈ s.posts, e.dest = n ∧ e.sequence = s.lif.sequence
    (32 ≤ destination.toNat → c = .next (respond .invalid [] s)) ∧
    (destination.toNat < 32 →
      (s.canSend = false → s.closing = false → c = .next (respond .state [] s)) ∧
      (s.canSend = false → s.closing → (s.peer n).state = .present → s.posts.length < 4 →
        segmentOfBytes bytes ≠ none → ∃ t, c = .next t ∧ (t.port.result = [1] ∨ t.port.result = [2]) ∧
          { t with port := s.port, free := s.free } = s) ∧
      (s.canSend → (s.peer n).state ≠ .present → c = .next (respond .absent [] s)) ∧
      (s.canSend → (s.peer n).state = .present → 4 ≤ s.posts.length → c = .next (respond .full [] s)) ∧
      (s.canSend → (s.peer n).state = .present → s.posts.length < 4 → segmentOfBytes bytes = none →
        c = .next (respond .invalid [] s)) ∧
      (s.canSend → (s.peer n).state = .present → s.posts.length < 4 → segmentOfBytes bytes ≠ none →
        (10 ≤ s.outbound.length ∨ taken) → c = .next (respond .full [] s)) ∧
      (s.canSend → (s.peer n).state = .present → s.posts.length < 4 → segmentOfBytes bytes ≠ none →
        s.outbound.length < 10 → ¬taken →
        ∃ t, c = .next t ∧
          t.outbound = s.outbound ++
            [{ id := s.nextFrame, dest := .station n, payload := .post bytes, sequence := s.lif.sequence
               attempts := 0, inFlight := false, held := none }] ∧
          t.posts = s.posts ++
            [{ dest := n, sequence := s.lif.sequence, tag := byteAt bytes 1, state := .awaitingTake
               timer := 16000 * (10 * s.config.answerWindow.toNat), frame := some s.nextFrame }] ∧
          t.lif.sequence = s.lif.sequence + 1 ∧
          t.port.result = [0, BitVec.ofNat 8 s.lif.sequence.val] ∧
          { t with
            outbound := s.outbound, posts := s.posts, nextFrame := s.nextFrame, lif := s.lif
            port := s.port } = s))

/-! ### The reading commands -/

/-- READ_STATUS returns the snapshot in its order and changes nothing. A depth of 0 comes with no head tag, and a
running head comes with a motion state or DWELL (R186, R199). The code of the tag present flag (log 41) and the tag byte 0
beside an absent tag (log 42) are the model's, and that the pulses remaining and the planned exit speed are not read is its
choice between R23 and R186 (log 40). -/
def Obligations.ReadStatusReturnsTheSnapshot : Prop :=
  ∀ (s : State),
    (s.awaitsCommand → ∃ t, exec .readStatus s = .next t ∧
      t.port.result =
        [0, s.axis.state.code.zeroExtend 8] ++ bytesOf 3 (BitVec.ofNat 24 (s.axis.speed / 65536)) ++
        [if s.axis.dir = .plus then 0 else 1] ++ bytesOf 4 s.command ++ bytesOf 4 s.measured ++
        [BitVec.ofNat 8 s.queue.length] ++
        (match s.queue with | [] => [0, 0] | e :: _ => [1, e.segment.tag]) ++
        [s.faults.byte, s.ownHaltByte, s.ownHalt.reason, (if s.ownHalt.kind = .immediate then 1 else 0),
         BitVec.ofNat 8 (s.halts.countP Option.isSome)] ∧
      { t with port := s.port } = s) ∧
    (QueueInOrder s → s.runningHead.isSome → s.axis.state.moving = true ∨ s.axis.state = .dwell)

/-- READ_ROSTER, READ_HALT_LIST and an UNKNOWN code return what the roster, the halt list and the layout give, and change
nothing (R98, R167, R185, R199). The standing bit of a Withdrawn station's own summary is a free value (log 11): reading
it uses one up. The code of the summary held flag (log 41) and the four bytes 0 where none is held (log 42) are the
model's. -/
def Obligations.ReadingCommandsChangeNothing : Prop :=
  ∀ (s : State) (station code : Byte),
    s.awaitsCommand →
    let n : Station := Fin.ofNat 32 station.toNat
    let e := s.peer n
    let summary (x : Option Presence) : List Byte :=
      match x with | none => [0, 0, 0, 0, 0] | some p => 1 :: p.bytes
    (32 ≤ station.toNat → exec (.readRoster station) s = .next (respond .invalid [] s)) ∧
    (station.toNat < 32 → n ≠ s.station → exec (.readRoster station) s =
      .next (respond .ok
        ([e.state.code, (match e.lastSequence with | none => 0xFF | some q => BitVec.ofNat 8 q.val),
          e.period.getD 0] ++
        (if e.lapse = 0 then [0xFF, 0xFF] else bytesOf 2 (BitVec.ofNat 16 ((e.lapse + 159999) / 160000))) ++
        summary e.summary) s)) ∧
    (station.toNat < 32 → n = s.station → s.standing ≠ .withdrawn → exec (.readRoster station) s =
      .next (respond .ok ([3, 0xFF, s.config.presencePeriod, 0xFF, 0xFF] ++ summary (some s.summary)) s)) ∧
    (station.toNat < 32 → n = s.station → s.standing = .withdrawn →
      ∃ t, exec (.readRoster station) s = .next t ∧
        t.port.result.take 6 = [0, 3, 0xFF, s.config.presencePeriod, 0xFF, 0xFF] ∧
        { t with port := s.port, free := s.free } = s) ∧
    exec .readHaltList s =
      .next (respond .ok
        (BitVec.ofNat 8 (s.halts.countP Option.isSome) :: (List.finRange 32).flatMap (fun k =>
          match s.haltOf k with
          | none => []
          | some h => [BitVec.ofNat 8 k.val, h.reason, (if h.kind = .immediate then 1 else 0),
                       (if h.learned = .presence then 1 else 0)])) s) ∧
    exec (.unknown code) s = .next (respond .unknown [] s)

/-- R191: READ_NOTICE removes and returns the oldest notice with the lost count, which becomes 0; with no notice the kind is
none. A notice that comes before or after the read ends as the table gives. -/
def Obligations.ReadNoticeTakesTheOldest : Prop :=
  ∀ (s : State) (n : Notice),
    s.awaitsCommand →
    let record (x : Notice) (lost : Nat) : List Byte :=
      x.record ++ [BitVec.ofNat 8 lost] ++ bytesOf 4 x.position
    (∀ x ∈ s.notices.head?, exec .readNotice s =
      .next (respond .ok (record x s.lost) { s with notices := s.notices.tail, lost := 0 })) ∧
    (s.notices = [] → exec .readNotice s =
      .next (respond .ok [0, 0, 0, 0, 0, BitVec.ofNat 8 s.lost, 0, 0, 0, 0] { s with lost := 0 })) ∧
    (s.notices = [] → ∃ t, exec .readNotice (notify n s) = .next t ∧ t.notices = [] ∧
      t.port.result = 0 :: record n s.lost) ∧
    (s.notices = [] → ∃ t, exec .readNotice s = .next t ∧ (notify n t).notices = [n]) ∧
    (∀ x ∈ s.notices.head?, s.notices.length = 16 → ∃ t, exec .readNotice (notify n s) = .next t ∧
      t.notices = s.notices.tail ∧ t.lost = 0 ∧ t.port.result = 0 :: record x (min 255 (s.lost + 1))) ∧
    (s.notices.length = 16 → ∃ t, exec .readNotice s = .next t ∧
      (notify n t).notices = s.notices.tail ++ [n] ∧ (notify n t).lost = 0) ∧
    (∀ x ∈ s.notices.head?, s.notices.length < 16 →
      (∃ t, exec .readNotice (notify n s) = .next t ∧ t.notices = s.notices.tail ++ [n] ∧
        t.port.result = 0 :: record x s.lost) ∧
      (∃ t, exec .readNotice s = .next t ∧ (notify n t).notices = s.notices.tail ++ [n] ∧
        t.port.result = 0 :: record x s.lost))

/-! ### Notices and the transaction -/

/-- R190, R192: the notice queue takes a notice at its tail while it holds fewer than 16; at 16 the newest is dropped
and counted, up to 255, the notices held never displaced; they are read out in the order they were queued. IRQ is
asserted exactly while the queue is nonempty: a notice asserts it or leaves it asserted, the read of the last one
releases it, the lost count alone does not assert it, and the status byte's notice-pending bit is the same condition. -/
def Obligations.NoticesQueueAndIrq : Prop :=
  ∀ (s : State) (n m : Notice),
    (s.irq = true ↔ s.notices ≠ []) ∧
    (s.notices.length < 16 → notify n s = { s with notices := s.notices ++ [n] }) ∧
    (16 ≤ s.notices.length → notify n s = { s with lost := min 255 (s.lost + 1) }) ∧
    (s.notices.length = 15 →
      notify m (notify n s) = { s with notices := s.notices ++ [n], lost := min 255 (s.lost + 1) }) ∧
    (s.awaitsCommand → ∀ x ∈ s.notices.head?, ∃ t, exec .readNotice s = .next t ∧
      t.port.result.take 6 = 0 :: x.record ∧ t.notices = s.notices.tail) ∧
    (notify n s).irq = true ∧
    (s.awaitsCommand → s.notices.length ≤ 1 → ∃ t, exec .readNotice s = .next t ∧ t.irq = false) ∧
    (s.awaitsCommand → 2 ≤ s.notices.length → ∃ t, exec .readNotice s = .next t ∧ t.irq = true) ∧
    (∀ k ∈ [0, 1, 255], ({ s with lost := k } : State).irq = s.irq) ∧
    s.statusByte.getLsbD 4 = s.irq

/-- A transaction cut off before its command took effect sets the malformed flag and does nothing else, and a second in
a row leaves it set; one whose command took effect does not set it, an unknown code's included. TRANSACTION_BEGIN
returns the status byte as it stands at the fall of SEL, with the line state, notice pending, fault set, any halt and
the malformed flag in their bits, and clears the flag; TRANSACTION_END releases SDO. While SEL is high, after a hard
reset too, nothing is read: no command and no rise of SEL does anything; a second command in a transaction has no
effect. SDO returns the status byte, 0 in the argument bytes, the result code and its data, and 0 beyond (R182, R183,
R184, R193, R199). That a fall and a rise of SEL with no command between leave the malformed flag as it was is the
model's reading (log 37), and so is that SDO is released after a hard reset while SEL is still low (log 52). -/
def Obligations.TransactionsReportTheStatusByte : Prop :=
  ∀ (s : State) (code : Byte) (c : Instr) (straps : Straps) (n k : Nat) (r : ResultCode) (data : List Byte),
    (s.awaitsCommand → ∃ t, exec .malformedTransaction s = .next t ∧ t.port.malformed = true ∧
      t.port.selected = false ∧ { t with port := s.port } = s ∧
      ∃ u, exec .transactionBegin t = .next u ∧ u.port.malformed = false ∧
        ∃ w, exec .malformedTransaction u = .next w ∧ w.port.malformed = true) ∧
    (s.port.selected → s.port.taken → ∃ t, exec .malformedTransaction s = .next t ∧
      t.port.malformed = s.port.malformed ∧ { t with port := s.port } = s) ∧
    (s.awaitsCommand → ∃ t, exec (.unknown code) s = .next t ∧ ∃ u, exec .malformedTransaction t = .next u ∧
      u.port.malformed = s.port.malformed) ∧
    (s.port.selected = false →
      exec .malformedTransaction s = .next s ∧ exec .transactionEnd s = .next s ∧ s.sdo n k = none) ∧
    (portCommand c → s.awaitsCommand = false → exec c s = .next s) ∧
    (portCommand c → ∃ t, exec (.hardReset straps) s = .next t ∧ exec c t = .next t) ∧
    (portCommand c → s.awaitsCommand → ∀ t, exec c s = .next t → t.port.selected = true ∧ t.port.taken = true) ∧
    (∃ t, exec .transactionBegin s = .next t ∧ t.port.status.getLsbD 7 = s.port.malformed ∧
      t.port.malformed = false ∧
      ∃ u, exec .transactionEnd t = .next u ∧ u.port.malformed = s.port.malformed ∧
        { u with port := s.port, closing := s.closing } = s) ∧
    (s.port.selected → s.port.taken → ∃ t, exec .transactionEnd s = .next t ∧
      t.port.malformed = s.port.malformed ∧
      t.port.selected = false ∧ t.sdo n k = none ∧ { t with port := s.port } = s) ∧
    (∃ t, exec .transactionBegin s = .next t ∧ t.port.status = s.statusByte ∧ t.awaitsCommand = true ∧
      t.sdo n 0 = some s.statusByte ∧ t.sdo n (k + 1) = some 0 ∧ t.closing = false ∧
      { t with port := s.port, closing := s.closing } = s) ∧
    (s.port.selected → (respond r data s).sdo n 0 = some s.port.status ∧
      (k < n → (respond r data s).sdo n (k + 1) = some 0) ∧
      (respond r data s).sdo n (n + 1) = some r.byte ∧
      (respond r data s).sdo n (n + 2 + k) = some (data.getD k 0)) ∧
    s.statusByte.getLsbD 4 = !s.notices.isEmpty ∧
    s.statusByte.getLsbD 5 = s.faults.nonempty ∧
    s.statusByte.getLsbD 6 = (s.ownHalt.raised || s.halts.any Option.isSome) ∧
    s.statusByte.getLsbD 7 = s.port.malformed ∧
    (s.statusByte.toNat % 16 =
      match s.lifecycle, s.standing with
      | .unconfigured, _ => 0
      | .configured, _ => 1
      | .listening, .withdrawn => 3
      | .listening, _ => 2
      | .online, .engaged => 4
      | .online, .reticent => 5
      | .online, .withdrawn => 6
      | .conflict, .withdrawn => 8
      | .conflict, _ => 7)

/-! ### The axis -/

/-- ESTOP or DRVFLT becoming Active enters the fault set, with FAULT queued first; the motion ends, the queue is
flushed, and with the cause in the propagate mask the own halt is raised. A level that the input already shows changes
nothing. A SEEK on its way that finds its limit or home input becoming Active stops as its find stop kind says, its
positions zeroed where told to. A head that waits on the level of such an input starts when it comes (R10, R11, R32,
R33, R34, R82, R84, R85, R89, R94). That the limit a SEEK finds moving away from it raises no cause is the model's
reading (log 53). That the pulses remaining and the plan are clear when a segment that does not move starts is the
model's (log 25). -/
def Obligations.EstopStopsTheAxis : Prop :=
  ∀ (s : State) (i : Input) (high : Bool),
    AtRest s →
    let becomesActive (i : Input) := exec (.inputChange i (s.config.activeHigh.getLsbD (inputCode i))) s
    let stops (i : Input) (x : Cause) (flag : Nat) (reason : Byte) : Prop :=
      QueueInOrder s → s.inputActive i = false → s.faults.has x = false →
      ∃ t, becomesActive i = .next t ∧
        t.inputActive i = true ∧ t.faults = s.faults.put x true ∧
        t.queue = [] ∧ t.axis.state = .idle ∧ (s.runningHead.isSome → t.axis.speed = 0) ∧
        (s.notices.length < 16 →
          (t.notices.drop s.notices.length).head? = some (.fault x s.command)) ∧
        (s.config.propagate.getLsbD flag = true → t.ownHalt.raised = true ∧
          (s.ownHalt.raised = false →
            t.ownHalt.reason = reason ∧ t.ownHalt.kind = .immediate ∧ t.ownHalt.how = .cause)) ∧
        (s.config.propagate.getLsbD flag = false → t.ownHalt = s.ownHalt) ∧
        { t with
          inputs := s.inputs, faults := s.faults, queue := s.queue, axis := s.axis, ownHalt := s.ownHalt
          notices := s.notices, lost := s.lost, outbound := s.outbound, nextFrame := s.nextFrame
          lif := s.lif } = s
    ((s.inputs.get i).level = high → exec (.inputChange i high) s = .next s) ∧
    stops .estop .estop 0 1 ∧ stops .drvflt .drvflt 1 2 ∧
    (i = .home ∨ i = .limp ∨ i = .limn → s.inputActive i = false → NoWatchArmed s →
      ∀ (e : Entry) (zero : Bool) (k : StopKind) (r : Ramp), s.queue = [e] → e.state = .running →
      e.segment.body = .seek s.axis.dir i zero k r → e.segment.endMark = none → e.origin = .localPort →
      s.axis.state = .rampUp ∨ s.axis.state = .cruise → s.axis.found = false →
      ∃ t, becomesActive i = .next t ∧ t.inputActive i = true ∧
        t.command = (if zero then 0 else s.command) ∧ t.measured = (if zero then 0 else s.measured) ∧
        (k = .immediate ∨ s.axis.speed ≤ s.config.baseSpeed.toNat * 65536 →
          t.queue = [] ∧ t.axis.state = .idle ∧ t.axis.speed = 0 ∧
          (s.notices.length < 16 → t.notices = s.notices ++
            [.segmentRetired e.segment.tag .localPort .completed t.command])) ∧
        (k = .decelerating → s.config.baseSpeed.toNat * 65536 < s.axis.speed →
          t.queue = [e] ∧ t.notices = s.notices ∧
          t.axis = { s.axis with state := .rampDown, blend := none, committed := true, found := true }) ∧
        { t with
          inputs := s.inputs, queue := s.queue, axis := s.axis, command := s.command, measured := s.measured
          notices := s.notices, lost := s.lost } = s) ∧
    (i = .home ∨ i = .limp ∨ i = .limn → (s.inputs.get i).level ≠ high →
      ∀ (e : Entry) (n : Nat), s.queue = [e] → e.state = .waiting → e.consumed = false →
      e.segment.gate = .input i (high == s.config.activeHigh.getLsbD (inputCode i)) → e.segment.body = .dwell n →
      e.segment.startMark = none → s.mayStart → s.axis.state.moving = false →
      ∃ t, exec (.inputChange i high) s = .next t ∧ (t.inputs.get i).level = high ∧
        t.queue = [{ e with state := .running }] ∧
        t.axis = { s.axis.ended with state := .dwell, dwellTimer := 16000 * n } ∧
        { t with inputs := s.inputs, queue := s.queue, axis := s.axis } = s)

/-- ENCODER_EDGE: with the encoder Off only the levels change; in quadrature one place forward in the cycle adds 1, one
backward takes 1 away and a change of both counts nothing; in up/down a rise of ENCA adds 1 and a rise of ENCB takes 1
away. The measured position wraps (R44). A count that takes the following gap beyond its limit raises FOLLOWING_GAP: the
cause enters with its notice, the axis stops at once and the queue is flushed, and the own halt is raised where the cause
propagates (R45, R84, R89, R94). A count whose new value finds the condition of an Armed watch on Measured true makes it
hit: the notice, its mark as a MARK frame stamped with the command position, and its cut, which brakes a head moving above
base speed, a Committed entry back in Waiting (R40, R52, R71, R73). Both up/down inputs rising together are the model's
reading (log 18), and so is when the Committed entry returns (log 38). -/
def Obligations.EncoderEdgesCount : Prop :=
  ∀ (s : State) (a b : Bool),
    AtRest s →
    let before := (s.encA, s.encB)
    let after := (a, b)
    let forward := [((false, false), (true, false)), ((true, false), (true, true)),
      ((true, true), (false, true)), ((false, true), (false, false))]
    let δ : Position :=
      match s.config.encoder with
      | .off => 0
      | .quadrature =>
        if (before, after) ∈ forward then 1 else if (after, before) ∈ forward then -1 else 0
      | .upDown => (if s.encA = false ∧ a then 1 else 0) - (if s.encB = false ∧ b then 1 else 0)
    let p := s.measured + δ
    let u := { s with encA := a, encB := b, measured := p }
    let within := s.config.gapLimit = 0 ∨ (s.command - p).toInt.natAbs ≤ s.config.gapLimit.toNat
    (NoWatchArmed s → s.config.gapLimit = 0 ∨ s.faults.followingGap ∨ (δ ≠ 0 ∧ within) →
      exec (.encoderEdge a b) s = .next u) ∧
    (NoWatchArmed s → QueueInOrder s → δ ≠ 0 → ¬within → s.faults.followingGap = false →
      ∃ t, exec (.encoderEdge a b) s = .next t ∧ t.measured = p ∧
        t.faults = { s.faults with followingGap := true } ∧ StopMade .immediate s t ∧
        (s.notices.length < 16 →
          (t.notices.drop s.notices.length).head? = some (.fault .followingGap s.command)) ∧
        (s.config.propagate.getLsbD 2 = true → t.ownHalt.raised = true ∧
          (s.ownHalt.raised = false →
            t.ownHalt.reason = 3 ∧ t.ownHalt.kind = .immediate ∧ t.ownHalt.how = .cause)) ∧
        (s.config.propagate.getLsbD 2 = false → t.ownHalt = s.ownHalt) ∧
        { t with
          encA := s.encA, encB := s.encB, measured := s.measured, faults := s.faults, queue := s.queue
          axis := s.axis, ownHalt := s.ownHalt, notices := s.notices, lost := s.lost, outbound := s.outbound
          nextFrame := s.nextFrame, lif := s.lif } = s) ∧
    (∀ (w : Fin 4), TablesFit s → δ ≠ 0 → within → (s.watch w).state = .armed → (s.watch w).source = .measured →
      (s.watch w).condition.hits (s.watch w).value p (s.watch w).previous = true →
      (∀ k : Fin 4, k ≠ w → (s.watch k).state ≠ .armed ∨ (s.watch k).source ≠ .measured) →
      let hit : State :=
        notify (.watchHit w (s.queue.head?.map fun e => e.segment.tag))
          { u with watches := s.watches.set w.val { s.watch w with previous := p, state := .hit } }
      ((s.watch w).mark = none → (s.watch w).cutOnHit = false → HeadStays hit →
        exec (.encoderEdge a b) s = .next hit) ∧
      (∀ m ∈ (s.watch w).mark, (s.watch w).cutOnHit = false → HeadStays hit → s.canSend → s.outbound.length < 10 →
        ∃ t, exec (.encoderEdge a b) s = .next t ∧
          t.outbound = s.outbound ++
            [{ id := s.nextFrame, dest := .broadcast, payload := .mark m (some s.command)
               sequence := s.lif.sequence, attempts := 0, inFlight := false, held := none }] ∧
          t.emissions = s.emissions ++
            [{ mark := m, stamp := some s.command, origin := .watch, index := BitVec.ofNat 8 w.val
               frame := s.nextFrame }] ∧
          t.watches = hit.watches ∧ t.notices = hit.notices ∧ t.measured = p ∧
          { t with
            encA := s.encA, encB := s.encB, measured := s.measured, watches := s.watches, notices := s.notices
            lost := s.lost, outbound := s.outbound, emissions := s.emissions, nextFrame := s.nextFrame
            lif := s.lif } = s) ∧
      ((s.watch w).mark = none → (s.watch w).cutOnHit = true → ∀ e ∈ s.runningHead,
        e.segment.chain = false ∨ e.segment.body.isRun = false ∨ s.axis.committed = true → s.axis.found = false →
        s.config.baseSpeed.toNat * 65536 < s.axis.speed →
        (s.axis.state = .rampUp ∨ s.axis.state = .cruise ∨ s.axis.state = .rampDown) →
        exec (.encoderEdge a b) s = .next
          { hit with
            queue := s.queue.take 1 ++ (s.queue.drop 1).map fun n =>
              if n.state = .committed then { n with state := .waiting, consumed := true } else n
            axis := { s.axis with
              state := .braking, braking := .cut, brakeRate := e.decelRate, blend := none
              committed := true, found := false } }))

/-- STEP_PULSE of a RUN or a SEEK: one pulse, the command position one count on in the axis direction and the measured
position with it, on the output that the mode of its start and the direction give. In CRUISE the speed stays; in RAMP_UP
it rises by the acceleration over the speed, up to the top speed; in BRAKING it falls by the braking rate over the
speed, and at the pulse that reaches base speed the segment retires Stopped after a stop, and after a cut Completed if
it is a RUN and Cut otherwise; in RAMP_DOWN after a SEEK's find it falls by the segment's deceleration over the speed,
and the SEEK retires Completed at the pulse that reaches base speed (R25, R26, R29, R33, R40, R41, R43, R88). A pulse in
CRUISE whose new command position finds the condition of an Armed watch on Command true makes it hit, with its notice;
its cut then brakes from the speed of the pulse, and without one the motion goes on (R40, R71, R73). -/
def Obligations.StepPulseMovesTheAxis : Prop :=
  ∀ (s : State) (e : Entry) (r : Ramp) (d : Dir) (i : Input) (zero : Bool) (k : StopKind),
    AtRest s → s.runningHead = some e → (e.segment.body = .run d r ∨ e.segment.body = .seek d i zero k r) →
    e.segment.chain = false → e.origin = .localPort → e.segment.endMark = none →
    s.config.encoder = .off → s.config.softEnabled = false → s.queue = [e] →
    (s.axis.dir = .plus → s.command.toInt < 2147483647) →
    (s.axis.dir = .minus → -2147483648 < s.command.toInt) →
    (s.axis.state = .cruise ∨ s.axis.state = .rampUp ∨ (s.axis.state = .braking ∧ s.axis.braking ≠ .none) ∨
      (s.axis.state = .rampDown ∧ s.axis.found = true ∧ s.axis.blend = none ∧ e.segment.body.isRun = false)) →
    let v := s.axis.speed
    let base := s.config.baseSpeed.toNat * 65536
    let up := v + 1000 * r.accel * 65536 * 65536 / v
    let down := v - (if s.axis.state = .braking then s.axis.brakeRate
      else 1000 * (if r.decel = 0 then r.accel else r.decel)) * 65536 * 65536 / v
    let outcome : Retirement :=
      if s.axis.state = .rampDown then .completed else if s.axis.braking = .stop then .stopped
      else if e.segment.body.isRun then .completed else .cut
    let p := match s.axis.dir with | .plus => s.command + 1 | .minus => s.command - 1
    (∀ (w : Fin 4), TablesFit s → s.axis.state = .cruise → base < v →
      (s.watch w).state = .armed → (s.watch w).source = .command → (s.watch w).mark = none →
      (s.watch w).condition.hits (s.watch w).value p (s.watch w).previous = true →
      (∀ k : Fin 4, k ≠ w → (s.watch k).state ≠ .armed) →
      ∃ t, exec .stepPulse s = .next t ∧ t.command = p ∧ t.measured = p ∧ t.queue = s.queue ∧
        t.watches = s.watches.set w.val { s.watch w with previous := p, state := .hit } ∧
        (s.notices.length < 16 → t.notices = s.notices ++ [.watchHit w (some e.segment.tag)]) ∧
        t.axis.speed = v ∧ t.axis.dir = s.axis.dir ∧ t.axis.pulseTimer = interval v ∧
        ((s.watch w).cutOnHit = false → t.axis.state = .cruise) ∧
        ((s.watch w).cutOnHit = true → s.axis.found = false →
          t.axis.state = .braking ∧ t.axis.braking = .cut ∧ t.axis.brakeRate = e.decelRate) ∧
        { t with
          axis := s.axis, command := s.command, measured := s.measured, watches := s.watches
          notices := s.notices, lost := s.lost } = s) ∧
    (NoWatchArmed s → ∃ t, exec .stepPulse s = .next t ∧
      t.command = p ∧
      t.measured = t.command ∧ t.axis.dir = s.axis.dir ∧ t.axis.pulseMode = s.axis.pulseMode ∧
      t.axis.pulseOut = some (if s.axis.pulseMode = .cwCcw ∧ s.axis.dir = .minus then .dirCcw else .stepCw) ∧
      (s.axis.state = .cruise → t.axis.state = .cruise ∧ t.axis.speed = v ∧ t.queue = s.queue) ∧
      (s.axis.state = .rampUp → t.queue = s.queue ∧
        (r.top * 65536 ≤ up → t.axis.state = .cruise ∧ t.axis.speed = r.top * 65536) ∧
        (up < r.top * 65536 → t.axis.state = .rampUp ∧ t.axis.speed = up)) ∧
      (s.axis.state = .braking ∨ s.axis.state = .rampDown →
        (base < down → t.axis.state = s.axis.state ∧ t.axis.braking = s.axis.braking ∧ t.axis.speed = down ∧
          t.queue = s.queue ∧ t.notices = s.notices) ∧
        (down ≤ base → t.axis.state = .idle ∧ t.axis.speed = 0 ∧ t.queue = [] ∧
          (s.notices.length < 16 → t.notices = s.notices ++
            [.segmentRetired e.segment.tag .localPort outcome t.command]))) ∧
      (t.queue ≠ [] → t.axis.pulseTimer = interval t.axis.speed) ∧
      { t with
        axis := s.axis, command := s.command, measured := s.measured, queue := s.queue
        notices := s.notices, lost := s.lost } = s)

/-- STEP_PULSE of a MOVE_REL or MOVE_ABS alone in the queue: one pulse, one count, one pulse fewer remaining. From the
deceleration point on, where the pulses remaining are no more than a ramp down to base speed takes, the axis is in
RAMP_DOWN and the speed falls by the deceleration over the speed, not below base speed; before it the speed stays in
CRUISE and rises in RAMP_UP. The last pulse retires the segment Completed. With its chain flag set and an ungated move in
the same direction behind it, its deceleration point is that of the blend speed, the lower of the two top speeds, and there
the move behind is Committed; at the last pulse the Committed move takes over, Running, at the greater of the speed reached
and base speed, its first pulse one interval later. In BRAKING the speed falls by the braking rate over the speed; at the
pulse that reaches base speed, or at the last pulse, the segment retires Cut after a cut and Stopped after a stop (R14, R25,
R26, R28, R29, R36, R37, R40, R41). -/
def Obligations.MovesRampDownAndComplete : Prop :=
  ∀ (s : State) (e n : Entry) (x y : Position) (r q : Ramp),
    AtRest s → NoWatchArmed s → e.state = .running →
    (e.segment.body = .moveRel x r ∨ e.segment.body = .moveAbs x r) → e.origin = .localPort →
    e.segment.endMark = none → s.config.encoder = .off → s.config.softEnabled = false →
    (s.axis.state = .rampUp ∨ s.axis.state = .cruise ∨ s.axis.state = .rampDown ∨
      (s.axis.state = .braking ∧ s.axis.braking ≠ .none)) →
    s.axis.found = false → 1 ≤ s.axis.remaining →
    (s.axis.dir = .plus → s.command.toInt < 2147483647) →
    (s.axis.dir = .minus → -2147483648 < s.command.toInt) →
    let v := s.axis.speed
    let base := s.config.baseSpeed.toNat * 65536
    let decel := 1000 * (if r.decel = 0 then r.accel else r.decel)
    let up := v + 1000 * r.accel * 65536 * 65536 / v
    let slows := s.axis.state = .rampDown ∨
      (base < v ∧ (s.axis.remaining - 1) * (2 * decel * (65536 * 65536)) < v * v - base * base)
    0 < decel →
    (s.queue = [e] → s.axis.state = .braking →
      let down := v - s.axis.brakeRate * 65536 * 65536 / v
      ∃ t, exec .stepPulse s = .next t ∧
        t.command = (match s.axis.dir with | .plus => s.command + 1 | .minus => s.command - 1) ∧
        t.measured = t.command ∧ t.axis.dir = s.axis.dir ∧
        (2 ≤ s.axis.remaining → base < down → t.queue = s.queue ∧ t.axis.state = .braking ∧
          t.axis.braking = s.axis.braking ∧ t.axis.speed = down ∧ t.axis.remaining = s.axis.remaining - 1 ∧
          t.axis.pulseTimer = interval down ∧ t.notices = s.notices) ∧
        (s.axis.remaining = 1 ∨ down ≤ base → t.queue = [] ∧ t.axis.state = .idle ∧ t.axis.speed = 0 ∧
          (s.notices.length < 16 → t.notices = s.notices ++ [.segmentRetired e.segment.tag .localPort
            (if s.axis.braking = .stop then .stopped else .cut) t.command])) ∧
        { t with
          axis := s.axis, command := s.command, measured := s.measured, queue := s.queue
          notices := s.notices, lost := s.lost } = s) ∧
    (s.queue = [e] → s.axis.state ≠ .braking → s.axis.blend = none → ∃ t, exec .stepPulse s = .next t ∧
      t.command = (match s.axis.dir with | .plus => s.command + 1 | .minus => s.command - 1) ∧
      t.measured = t.command ∧ t.axis.dir = s.axis.dir ∧
      (s.axis.remaining = 1 → t.queue = [] ∧ t.axis.state = .idle ∧ t.axis.speed = 0 ∧
        (s.notices.length < 16 → t.notices = s.notices ++
          [.segmentRetired e.segment.tag .localPort .completed t.command])) ∧
      (2 ≤ s.axis.remaining → t.queue = s.queue ∧ t.axis.remaining = s.axis.remaining - 1 ∧
        t.axis.pulseTimer = interval t.axis.speed ∧ t.notices = s.notices ∧
        (slows → t.axis.state = .rampDown ∧ t.axis.speed =
          (if v ≤ base then v else max base (v - decel * 65536 * 65536 / v))) ∧
        (¬slows → s.axis.state = .cruise → t.axis.state = .cruise ∧ t.axis.speed = v) ∧
        (¬slows → s.axis.state = .rampUp →
          (r.top * 65536 ≤ up → t.axis.state = .cruise ∧ t.axis.speed = r.top * 65536) ∧
          (up < r.top * 65536 → t.axis.state = .rampUp ∧ t.axis.speed = up))) ∧
      { t with
        axis := s.axis, command := s.command, measured := s.measured, queue := s.queue
        notices := s.notices, lost := s.lost } = s) ∧
    (s.queue = [e, n] → n.segment.body = .moveRel y q → n.segment.gate = .absent → n.segment.startMark = none →
      (s.axis.dir = .minus ↔ y.msb = true) →
      let blend := min r.top q.top
      let floor := max (blend * 65536) base
      (e.segment.chain → n.state = .waiting → s.axis.committed = false → s.axis.state = .cruise →
        2 ≤ s.axis.remaining → floor < v →
        (s.axis.remaining - 1) * (2 * decel * (65536 * 65536)) < v * v - floor * floor →
        ∃ t, exec .stepPulse s = .next t ∧
          t.queue = [e, { n with state := .committed, consumed := false }] ∧ t.axis.state = .rampDown ∧
          t.axis.blend = some blend ∧ t.axis.committed = true ∧
          t.axis.speed = max floor (v - decel * 65536 * 65536 / v) ∧
          t.axis.remaining = s.axis.remaining - 1 ∧
          { t with axis := s.axis, command := s.command, measured := s.measured, queue := s.queue } = s) ∧
      (n.state = .committed → s.axis.committed = true → s.axis.blend = some blend → s.axis.state = .rampDown →
        s.axis.remaining = 1 →
        let last := if v ≤ floor then v else max floor (v - decel * 65536 * 65536 / v)
        ∃ t, exec .stepPulse s = .next t ∧
          t.queue = [{ n with state := .running, consumed := false }] ∧ t.axis.dir = s.axis.dir ∧
          t.axis.remaining = y.toInt.natAbs ∧ t.axis.committed = false ∧ t.axis.blend = none ∧
          t.axis.speed = (if q.top * 65536 ≤ base then q.top * 65536 else max last base) ∧
          t.axis.state = (if t.axis.speed = q.top * 65536 then .cruise else .rampUp) ∧
          (4 ≤ interval t.axis.speed → t.axis.pulseTimer = interval t.axis.speed) ∧
          (s.notices.length < 16 → t.notices = s.notices ++
            [.segmentRetired e.segment.tag .localPort .completed t.command]) ∧
          { t with
            axis := s.axis, command := s.command, measured := s.measured, queue := s.queue
            notices := s.notices, lost := s.lost } = s))

/-- A step beyond the software limit of its direction, or beyond the range, is not emitted: SOFT_PLUS or SOFT_MINUS
enters the fault set with FAULT first and the queue is flushed. With the immediate stop kind the segment retires Stopped
at the last position inside. With the decelerating one it does so at or below base speed; above it the axis brakes from
its present speed at its stop's rate, and while the cause stands the braking's steps are emitted past the software
limit. A step refused in BRAKING ends the braking there, Stopped, and its cause enters. A hard limit that becomes
Active in the way of the motion, which is no SEEK on it, enters its cause and makes the stop of its kind; an axis that
does not move, or moves away from it, goes on (R34, R41, R46, R84, R86, R87, R88). The model's own: the first step of the
braking comes one interval after the refused one (log 30), and at a step refused in BRAKING the SEGMENT_RETIRED comes
before the FAULT (log 31). -/
def Obligations.RefusedStepStopsTheAxis : Prop :=
  ∀ (s : State) (e : Entry) (d : Dir),
    AtRest s → QueueInOrder s → s.runningHead = some e →
    let active := exec (.inputChange (limitInput d) (s.config.activeHigh.getLsbD (inputCode (limitInput d)))) s
    let seeks : Prop := ∃ (x : Dir) (z : Bool) (k : StopKind) (r : Ramp), e.segment.body = .seek x (limitInput d) z k r
    let soft : Cause := match d with | .plus => .softPlus | .minus => .softMinus
    let atRangeEnd : Prop := s.command.toInt = (match d with | .plus => 2147483647 | .minus => -2147483648)
    let atLimit : Prop := s.config.softEnabled = true ∧
      (match d with | .plus => s.config.softMax | .minus => s.config.softMin) = s.command
    let base := s.config.baseSpeed.toNat * 65536
    (e.segment.chain = false → (s.axis.state = .cruise ∨ s.axis.state = .rampUp) → s.axis.dir = d →
      atLimit ∨ atRangeEnd → s.faults.has soft = false →
      ∃ t, exec .stepPulse s = .next t ∧ t.faults = s.faults.put soft true ∧
        (s.config.softStop = .immediate ∨ s.axis.speed ≤ base →
          t.queue = [] ∧ t.axis.state = .idle ∧ t.axis.speed = 0) ∧
        (s.config.softStop = .decelerating → base < s.axis.speed → t.queue = [e] ∧
          t.axis = { s.axis with
            state := .braking, braking := .stop, brakeRate := max e.decelRate (1000 * s.config.stopRate.toNat)
            blend := none, committed := true, found := false, pulseTimer := interval s.axis.speed }) ∧
        (s.notices.length < 16 → (t.notices.drop s.notices.length).head? = some (.fault soft s.command)) ∧
        (s.notices.length < 15 → s.config.softStop = .immediate →
          (t.notices.drop (s.notices.length + 1)).head? =
            some (.segmentRetired e.segment.tag e.origin .stopped s.command)) ∧
        { t with
          faults := s.faults, queue := s.queue, axis := s.axis, notices := s.notices, lost := s.lost
          outbound := s.outbound, nextFrame := s.nextFrame, lif := s.lif } = s) ∧
    (s.axis.state = .braking → s.axis.dir = d → s.axis.committed = true → s.faults.has soft = true →
      s.config.encoder = .off → NoWatchArmed s → ¬atRangeEnd →
      (e.segment.body.isMove = true → 2 ≤ s.axis.remaining) →
      let p := match d with | .plus => s.command + 1 | .minus => s.command - 1
      let down := s.axis.speed - s.axis.brakeRate * 65536 * 65536 / s.axis.speed
      base < down →
      exec .stepPulse s = .next
        { s with
          command := p, measured := p
          axis := { s.axis with
            speed := down, remaining := if e.segment.body.isMove then s.axis.remaining - 1 else s.axis.remaining
            pulseTimer := interval down
            pulseOut := some (if s.axis.pulseMode = .cwCcw ∧ d = .minus then .dirCcw else .stepCw) } }) ∧
    (s.axis.state = .braking → s.axis.dir = d → s.queue = [e] → e.origin = .localPort →
      atLimit ∧ s.faults.has soft = false ∨ atRangeEnd →
      ∃ t, exec .stepPulse s = .next t ∧ t.faults = s.faults.put soft true ∧ t.queue = [] ∧
        t.axis.state = .idle ∧ t.axis.speed = 0 ∧
        (s.notices.length < 15 → t.notices = s.notices ++ .segmentRetired e.segment.tag .localPort .stopped s.command ::
          (if s.faults.has soft then [] else [.fault soft s.command])) ∧
        { t with
          faults := s.faults, queue := s.queue, axis := s.axis, notices := s.notices, lost := s.lost } = s) ∧
    (s.inputActive (limitInput d) = false → ¬seeks →
      (s.axis.state.moving → s.axis.dir = d → s.faults.has (limitCause d) = false →
        ∃ t, active = .next t ∧ t.inputActive (limitInput d) = true ∧
          t.faults = s.faults.put (limitCause d) true ∧ StopMade s.config.hardStop s t ∧
          (s.notices.length < 16 →
            (t.notices.drop s.notices.length).head? = some (.fault (limitCause d) s.command)) ∧
          { t with
            inputs := s.inputs, faults := s.faults, queue := s.queue, axis := s.axis, notices := s.notices
            lost := s.lost, outbound := s.outbound, nextFrame := s.nextFrame, lif := s.lif } = s) ∧
      (s.axis.state.moving = false ∨ s.axis.dir ≠ d →
        ∃ t, active = .next t ∧ t.inputActive (limitInput d) = true ∧ { t with inputs := s.inputs } = s))

/-- DWELL_EXPIRY retires the running DWELL Completed, with SEGMENT_RETIRED, and for a posted segment an ANSWER Finished
to its poster where the queue admits it. Alone in the queue it leaves the axis IDLE. With an entry behind it, that entry
becomes head, the axis GATED, and it is evaluated at once: behind a shut gate it waits, and with its gate open it starts
in the same operation, said of a DWELL, a Tally gate giving up one count. An end mark is asked for first, stamped with
the command position: a MARK is admitted with its emission pending, or MARK_NOT_SENT is queued (R11, R12, R17, R18, R24,
R35, R50, R51). That the pulses remaining and the plan are cleared when the segment ends is the model's (log 25). -/
def Obligations.DwellExpiryCompletesTheDwell : Prop :=
  ∀ (s : State) (e x : Entry) (rest : List Entry) (k : Nat),
    AtRest s → e.state = .running → s.axis.state = .dwell →
    (s.queue = [e] → e.segment.endMark = none → ∃ t, exec .dwellExpiry s = .next t ∧
      t.queue = [] ∧ t.axis.state = .idle ∧ t.axis.dwellTimer = 0 ∧
      (s.notices.length < 15 → (t.notices.drop s.notices.length).head? =
        some (.segmentRetired e.segment.tag e.origin .completed s.command)) ∧
      (∀ n : Fin 32, ∀ q : Fin 16, e.origin = .peer n q →
        (s.canSend → s.outbound.length < 10 → t.outbound = s.outbound ++
          [{ id := s.nextFrame, dest := .station n
             payload := .answer q (.finished .completed) e.segment.tag, sequence := s.lif.sequence
             attempts := 0, inFlight := false, held := none }]) ∧
        (s.canSend = false → s.notices.length < 15 →
          (t.notices.drop (s.notices.length + 1)).head? =
            some (.answerDropped e.segment.tag n q (.finished .completed)))) ∧
      { t with
        queue := s.queue, axis := s.axis, notices := s.notices, lost := s.lost, outbound := s.outbound
        nextFrame := s.nextFrame, lif := s.lif } = s) ∧
    (∀ m ∈ e.segment.endMark, s.queue = [e] → e.origin = .localPort →
      (s.canSend → s.outbound.length < 10 → ∃ t, exec .dwellExpiry s = .next t ∧
        t.queue = [] ∧ t.axis.state = .idle ∧
        t.outbound = s.outbound ++
          [{ id := s.nextFrame, dest := .broadcast, payload := .mark m (some s.command)
             sequence := s.lif.sequence, attempts := 0, inFlight := false, held := none }] ∧
        t.emissions = s.emissions ++
          [{ mark := m, stamp := some s.command, origin := .finish, index := e.segment.tag
             frame := s.nextFrame }] ∧
        (s.notices.length < 16 → t.notices = s.notices ++
          [.segmentRetired e.segment.tag .localPort .completed s.command]) ∧
        { t with
          queue := s.queue, axis := s.axis, notices := s.notices, lost := s.lost, outbound := s.outbound
          emissions := s.emissions, nextFrame := s.nextFrame, lif := s.lif } = s) ∧
      (s.canSend = false ∨ 10 ≤ s.outbound.length → NoEntryActs m (some s.command) s →
        ∃ t, exec .dwellExpiry s = .next t ∧ t.queue = [] ∧ t.axis.state = .idle ∧
          (s.notices.length < 15 → t.notices = s.notices ++
            [.markNotSent m (if s.canSend then .refused else if s.lifecycle = .online then .withdrawn
              else .notOnline) .finish e.segment.tag,
             .segmentRetired e.segment.tag .localPort .completed s.command]) ∧
          { t with queue := s.queue, axis := s.axis, notices := s.notices, lost := s.lost } = s)) ∧
    (s.queue = e :: x :: rest → QueueInOrder s → e.segment.endMark = none → e.origin = .localPort →
      x.state = .waiting →
      (s.mayStart = false ∨ (x.consumed = false ∧ s.gateOpen x.segment.gate = false) →
        ∃ t, exec .dwellExpiry s = .next t ∧ t.queue = x :: rest ∧
          t.axis = { s.axis.ended with state := .gated } ∧
          (s.notices.length < 16 → t.notices = s.notices ++
            [.segmentRetired e.segment.tag .localPort .completed s.command]) ∧
          { t with queue := s.queue, axis := s.axis, notices := s.notices, lost := s.lost } = s) ∧
      (s.mayStart → x.consumed ∨ s.gateOpen x.segment.gate → x.segment.body = .dwell k →
        x.segment.startMark = none →
        ∃ t, exec .dwellExpiry s = .next t ∧
          t.queue = { x with state := .running, consumed := false } :: rest ∧
          t.axis = { s.axis.ended with state := .dwell, dwellTimer := 16000 * k } ∧
          t.reactions =
            (match x.consumed, x.segment.gate with
            | false, .tally m => s.reactions.set m.val { s.reaction m with tally := (s.reaction m).tally - 1 }
            | _, _ => s.reactions) ∧
          (s.notices.length < 16 → t.notices = s.notices ++
            [.segmentRetired e.segment.tag .localPort .completed s.command]) ∧
          { t with
            queue := s.queue, axis := s.axis, reactions := s.reactions, notices := s.notices
            lost := s.lost } = s))

/-! ### The line -/

/-- FRAME_START_RECOGNISED: the receiver follows, the yield flag clears, and a Waiting transmitter drops its pick.
LINE_ACTIVITY while the receiver hunts: at a dominant level that is no frame start the transmitter drops its pick and the
counts stand at 0; when the line is recessive again the counts begin anew and the transmitter picks the first frame with
its gap, when it may send. That one row is sent for both changes of the level is the model's reading (log 46) (R109, R112,
R113, R114). -/
def Obligations.FrameStartAndActivityEndTheWait : Prop :=
  ∀ (s : State),
    LineAgrees s → s.lif.flight = none →
    (s.lif.receiver ≠ .off → exec .frameStartRecognised s =
      .next { s with
        lif := { s.lif with
          receiver := .following, dominant := false, transmitter := .silent, picked := none, yielding := false
          quiet := 0, rejectDriven := false
          reception := some { chars := 0, noisy := false, fault := false, afterEcho := false } } }) ∧
    (s.lif.dominant = false → s.lif.receiver = .hunting → exec .lineActivity s =
      .next { s with
        lif := { s.lif with
          dominant := true, transmitter := .silent, picked := none, idle := 0, quiet := 0
          roundDone := false } }) ∧
    (s.lif.dominant → s.lif.receiver = .hunting → ∃ t, exec .lineActivity s = .next t ∧
      t.lif.dominant = false ∧ t.bitPhase = 0 ∧
      t.lif.idle = 0 ∧ t.lif.quiet = 0 ∧ t.lif.roundDone = false ∧ t.lif.yielding = s.lif.yielding ∧
      (∀ f ∈ firstFrame s.outbound, s.canSend →
        t.lif.transmitter = .waiting ∧ t.lif.picked = some { frame := f.id, gap := s.gapOf f }) ∧
      (s.outbound = [] ∨ s.canSend = false → t.lif.transmitter = .silent ∧ t.lif.picked = none) ∧
      { t with lif := s.lif, bitPhase := s.bitPhase } = s) ∧
    (s.lif.receiver ≠ .hunting → exec .lineActivity s =
      .next { s with lif := { s.lif with dominant := !s.lif.dominant } })

/-- QUIET_PERIOD begins the quiet count again and, for a Withdrawn station on the line, counts one observation up to 48,
where auto-rejoin returns it to Engaged. IDLE_ROUND begins the idle count again and picks. For a Withdrawn station the end
of a clean frame from another station, RECEIVED_FRAME_END, is an observation too; that of a faulty one and FRAME_TRUNCATED
are none, and leave the count, the score and the standing (R109, R113, R148). The ten bit times of idle line that count
from a truncated frame are the model's (log 14). -/
def Obligations.QuietPeriodsAndIdleRounds : Prop :=
  ∀ (s : State),
    LineAgrees s → s.lif.receiver ≠ .off → s.lif.flight = none →
    (s.standing ≠ .withdrawn →
      exec .quietPeriod s = .next { s with lif := { s.lif with quiet := 0 } }) ∧
    (s.standing = .withdrawn → s.onLine → (s.recovery < 47 ∨ s.config.autoRejoin = false) →
      exec .quietPeriod s =
        .next { s with lif := { s.lif with quiet := 0 }, recovery := min 48 (s.recovery + 1) }) ∧
    (s.standing = .withdrawn → s.onLine → 47 ≤ s.recovery → s.config.autoRejoin →
      ∃ t, exec .quietPeriod s = .next t ∧ t.standing = .engaged ∧ t.score = 0 ∧ t.recovery = 0) ∧
    (∃ t, exec .idleRound s = .next t ∧ t.lif.idle = 0 ∧ t.lif.roundDone = true ∧
      t.lif.quiet = s.lif.quiet ∧
      (∀ f ∈ firstFrame s.outbound, s.canSend →
        t.lif.transmitter = .waiting ∧ t.lif.picked = some { frame := f.id, gap := s.gapOf f }) ∧
      { t with lif := s.lif } = s) ∧
    (AtRest s → s.standing = .withdrawn → s.onLine → (s.recovery < 47 ∨ s.config.autoRejoin = false) →
      (∀ f : RxFrame, ∃ t, exec (.receivedFrameEnd f) s = .next t ∧
        t.recovery = (if rxClean f then min 48 (s.recovery + 1) else s.recovery) ∧
        t.lif.receiver = .hunting ∧ t.lif.idle = 0 ∧ t.lif.quiet = 0 ∧ t.lif.rejectDriven = false ∧
        { t with lif := s.lif, recovery := s.recovery, bitPhase := s.bitPhase } = s) ∧
      ∃ t, exec .frameTruncated s = .next t ∧
        t.lif.receiver = .hunting ∧ t.lif.idle = 10 ∧ t.lif.quiet = 10 ∧ t.lif.rejectDriven = false ∧
        { t with lif := s.lif, bitPhase := s.bitPhase } = s)

/-- DEFERRAL_GAP_REACHED: the picked frame becomes the frame in flight, the transmitter sends, the idle count is the gap
it reports as reached, and the characters on the line are the frame's, with its retry flag. Where the count has already
passed the gap in the present round nothing happens: the frame waits for the next round (R107, R113, R114, R119, R129).
That a count still short of the gap is taken as the row reports it is the model's choice (log 1). -/
def Obligations.DeferralGapStartsTheAttempt : Prop :=
  ∀ (s : State) (p : Pick) (f : OutFrame),
    s.lif.picked = some p → s.lif.transmitter = .waiting → s.lif.receiver = .hunting → s.lif.dominant = false →
    s.canSend →
    (s.outbound.find? fun g => g.id == p.frame) = some f →
    (p.gap < s.lif.idle → exec .deferralGapReached s = .next s) ∧
    (s.lif.idle ≤ p.gap → ∃ t, exec .deferralGapReached s = .next t ∧
      t.lif.transmitter = .sending ∧ t.lif.flight = some { frame := p.frame, bits := 0 } ∧
      t.lif.picked = none ∧ t.lif.idle = p.gap ∧
      t.outbound = s.outbound.map (fun g => if g.id = p.frame then { g with inFlight := true } else g) ∧
      t.charsInFlight = some (frameChars s.station f) ∧
      ((frameChars s.station f).getD 1 0).getLsbD 6 = decide (f.attempts ≠ 0) ∧
      { t with lif := s.lif, outbound := s.outbound, bitPhase := s.bitPhase } = s)

/-- A failed attempt, ECHO_FAULT while Sending or ATTEMPT_END rejected in Listening-back (in Sending too, log 20): the
frame stays in its place with one attempt more, the score rises by 8 with the standing it gives, and the yield flag
stays; on its eighth attempt the frame is abandoned with FRAME_ABANDONED. A pending emission leaves the list when the
frame was carried, though rejected, and when it is abandoned (R112, R115, R116, R117, R135, R136, R143, R145). -/
def Obligations.FailedAttemptsRaiseTheScore : Prop :=
  ∀ (s : State) (fl : Flight) (f : OutFrame) (rejected : Bool),
    AtRest s → s.lif.flight = some fl → s.sends → (rejected = false → s.lif.transmitter = .sending) →
    (s.outbound.find? fun g => g.id == fl.frame) = some f → f.held = none →
    (∀ e ∈ s.emissions, e.frame = fl.frame → NoEntryActs e.mark e.stamp s) → s.ownHalt.owed = .none →
    s.lifecycle = .online → s.standing ≠ .withdrawn → s.score + 8 < 192 →
    ∃ t, exec (if rejected then .attemptEnd true else .echoFault) s = .next t ∧
      t.score = s.score + 8 ∧ t.standing = (if 96 ≤ s.score + 8 then .reticent else .engaged) ∧
      t.lif.flight = none ∧ t.lif.yielding = s.lif.yielding ∧
      t.lif.receiver = (if rejected then s.lif.receiver else .following) ∧
      (f.attempts < 7 → t.posts = s.posts ∧
        t.outbound = s.outbound.map (fun g =>
          if g.id = fl.frame then { f with attempts := f.attempts + 1, inFlight := false } else g)) ∧
      (7 ≤ f.attempts → t.outbound = s.outbound.filter (fun g => g.id != fl.frame) ∧
        (s.notices.length < 16 → (t.notices.drop s.notices.length).head? =
          some (.frameAbandoned f.payload.kind f.dest f.sequence (!rejected)))) ∧
      t.emissions = (if rejected ∨ 7 ≤ f.attempts then s.emissions.filter (fun e => e.frame != fl.frame)
        else s.emissions) ∧
      { t with
        emissions := s.emissions, outbound := s.outbound, posts := s.posts, score := s.score, standing := s.standing
        notices := s.notices, lost := s.lost, lif := s.lif, bitPhase := s.bitPhase } = s

/-- ATTEMPT_END carried clean, where no reaction entry acts on the mark carried: a pending emission of the frame leaves the
list, the frame leaves the queue, the yield flag is set, the score falls by 1, not below 0, and the idle reference is set
(R52, R112, R116, R117, R135, R143). That the row is taken from Sending as well as from Listening-back is the model's
reading (log 20). -/
def Obligations.CarriedFramesLeaveTheQueue : Prop :=
  ∀ (s : State) (fl : Flight) (f : OutFrame),
    AtRest s → s.lif.flight = some fl → s.sends →
    (s.outbound.find? fun g => g.id == fl.frame) = some f → f.held = none →
    (∀ e ∈ s.emissions, e.frame = fl.frame → NoEntryActs e.mark e.stamp s) →
    s.ownHalt.owed = .none → s.lifecycle = .online → s.standing ≠ .withdrawn → s.score < 192 →
    ∃ t, exec (.attemptEnd false) s = .next t ∧
      t.outbound = s.outbound.filter (fun g => g.id != fl.frame) ∧
      t.emissions = s.emissions.filter (fun e => e.frame != fl.frame) ∧
      t.posts = s.posts.map (fun e => if e.frame = some fl.frame then { e with frame := none } else e) ∧
      t.score = s.score - 1 ∧ t.standing = (if 96 ≤ s.score - 1 then .reticent else .engaged) ∧
      t.lif.yielding = true ∧ t.lif.flight = none ∧ t.lif.idle = 0 ∧ t.lif.quiet = 0 ∧
      { t with
        outbound := s.outbound, emissions := s.emissions, posts := s.posts, score := s.score
        standing := s.standing, notices := s.notices, lost := s.lost, lif := s.lif
        bitPhase := s.bitPhase } = s

/-- RECEIVED_FRAME_END and FRAME_TRUNCATED: a clean frame takes 1 from the score, a faulty or truncated one adds 1, the
standing follows, and the receiver hunts. The reject window is driven for a faulty frame only, by an Online station that
was Engaged before the result, and for a truncated one never. A faulty frame at a score of 191 makes the station
Withdrawn: STANDING_CHANGED is queued first, and Online the Outbound Queue, whose frames have identities of their own, is
emptied, the posts whose frames it held given up (R109, R110, R122, R138, R139, R144, R145, R146). -/
def Obligations.ReceiveResultsMoveTheScore : Prop :=
  ∀ (s : State) (f : RxFrame),
    AtRest s → s.receives → s.standing ≠ .withdrawn → frameWhole f →
    let standing (n : Nat) : Standing := if s.lifecycle = .online then (if 96 ≤ n then .reticent else .engaged)
      else s.standing
    (s.score < 191 → ∃ t, exec (.receivedFrameEnd f) s = .next t ∧
      t.score = (if rxClean f then s.score - 1 else s.score + 1) ∧ t.standing = standing t.score ∧
      t.lif.rejectDriven = (!rxClean f && s.lifecycle == .online && s.standing == .engaged) ∧
      t.lif.receiver = .hunting ∧ t.lif.idle = 0 ∧ t.lif.quiet = 0 ∧
      { t with
        score := s.score, standing := s.standing, notices := s.notices, lost := s.lost, lif := s.lif
        bitPhase := s.bitPhase } = s) ∧
    (s.score = 191 → rxClean f = false → (∀ e ∈ s.emissions, NoEntryActs e.mark e.stamp s) →
      (s.outbound.map fun g => g.id).Nodup →
      ∃ t, exec (.receivedFrameEnd f) s = .next t ∧
        t.score = 192 ∧ t.standing = .withdrawn ∧ t.recovery = 0 ∧
        (s.notices.length < 16 → (t.notices.drop s.notices.length).head? =
          some (.standingChanged s.standing .withdrawn 192 .receive)) ∧
        (s.lifecycle = .online → t.outbound = [] ∧ t.lif.transmitter = .silent ∧ t.lif.picked = none ∧
          ∀ e ∈ t.posts, e ∈ s.posts ∧ ∀ g ∈ s.outbound, g.payload.kind = .post → e.frame ≠ some g.id) ∧
        (s.lifecycle = .listening → t.outbound = s.outbound ∧ t.posts = s.posts) ∧
        t.queue = s.queue ∧ t.axis = s.axis ∧ t.roster = s.roster ∧ t.halts = s.halts ∧ t.faults = s.faults) ∧
    (s.score < 191 → (∀ r ∈ s.lif.reception, r.afterEcho = false) → ∃ t, exec .frameTruncated s = .next t ∧
      t.score = s.score + 1 ∧ t.standing = standing t.score ∧ t.lif.rejectDriven = false ∧
      t.lif.receiver = .hunting ∧
      { t with
        score := s.score, standing := s.standing, notices := s.notices, lost := s.lost, lif := s.lif
        bitPhase := s.bitPhase } = s)

/-- FRAME_TAKEN: a clean frame from another station refreshes its roster entry and records its sequence; a repeat, a frame
for another station, and in Listening a frame of a kind other than PRESENCE, do nothing more. A faulty frame reaches nothing
(R122, R124, R125, R162). The retry of a POST that was received clean gives no second entry and no second answer either,
though frames of lower classes from its source came between the two (R177). What is held for that: after a POST its own
retry, after a PRESENCE none, after a frame of a lower class what was held before. That a retry is known so is the
model's (log 51). -/
def Obligations.FramesTakenFollowTheSequenceLaw : Prop :=
  ∀ (s : State) (f : RxFrame),
    AtRest s → s.receives → StationTablesFit s →
    let due (h : RxHeader) : Option RxHeader :=
      if h.kind = .post then some { h with retry := true }
      else if h.kind = .presence then none else (s.peer h.source).postRetry
    (rxClean f = false → ∃ t, exec (.frameTaken f) s = .next t ∧ { t with lif := s.lif } = s) ∧
    (∀ h ∈ rxHeader f, rxClean f → h.source ≠ s.station →
      (¬NewFrame h s ∨ RetriesPost h s ∨
        (h.dest ≠ .broadcast ∧ h.dest ≠ .station s.station) ∨
        (s.lifecycle = .listening ∧ h.kind ≠ .presence)) →
      ∃ t, exec (.frameTaken f) s = .next t ∧
        t.peer h.source = { s.peer h.source with
          state := .present, lastSequence := some h.sequence, postRetry := due h
          lapse := 160000 * (3 * ((s.peer h.source).period.getD s.config.presencePeriod).toNat) } ∧
        (∀ n : Fin 32, n ≠ h.source → t.peer n = s.peer n) ∧
        (s.notices.length < 16 → t.notices = s.notices ++
          (match (s.peer h.source).state with
            | .absent => [Notice.peerJoined h.source h.kind]
            | .lapsed => [Notice.peerReturned h.source h.kind]
            | _ => [])) ∧
        { t with roster := s.roster, lif := s.lif, notices := s.notices, lost := s.lost } = s) ∧
    (∀ h ∈ rxHeader f, rxClean f → h.source ≠ s.station →
      ∃ t, exec (.frameTaken f) s = .next t ∧
        (t.peer h.source).state = .present ∧ (t.peer h.source).lastSequence = some h.sequence ∧
        (t.peer h.source).postRetry = due h ∧ ∀ n : Fin 32, n ≠ h.source → t.peer n = s.peer n)

/-- A new HALT taken Online adds or replaces its source's entry, queues HALT_ENTERED and makes its stop: an immediate
one ends the head at speed 0, a decelerating one brakes a moving head above base speed at its stop's rate. A new LIFT
removes the entry; when that empties the list and nothing else halts, a Waiting head starts, said of a DWELL, and for a
head that does not start nothing more happens (R11, R19, R41, R42, R88, R89, R99, R100). That the pulses remaining and
the plan are clear when a segment that does not move starts is the model's (log 25). -/
def Obligations.HaltsAndLiftsAreTaken : Prop :=
  ∀ (s : State) (f : RxFrame) (h : RxHeader) (x : Entry) (k : Nat),
    AtRest s → QueueInOrder s → s.receives → StationTablesFit s → s.lifecycle = .online →
    rxClean f → rxHeader f = some h → h.source ≠ s.station → h.dest = .broadcast →
    NewFrame h s →
    (h.kind = .halt → ∃ t, exec (.frameTaken f) s = .next t ∧
      t.haltOf h.source = some
        { reason := byteAt h.payload 0
          kind := if byteAt h.payload 1 = 0 then .decelerating else .immediate, learned := .frame } ∧
      (∀ n : Fin 32, n ≠ h.source → t.haltOf n = s.haltOf n) ∧
      (∀ e ∈ t.queue, e.state = .running) ∧ (byteAt h.payload 1 ≠ 0 → t.queue = []) ∧
      StopMade (if byteAt h.payload 1 = 0 then .decelerating else .immediate) s t ∧
      (s.notices.length < 15 → .haltEntered h.source (byteAt h.payload 0)
        (if byteAt h.payload 1 = 0 then .decelerating else .immediate) .frame ∈ t.notices) ∧
      { t with
        roster := s.roster, halts := s.halts, queue := s.queue, axis := s.axis, notices := s.notices
        lost := s.lost, outbound := s.outbound, nextFrame := s.nextFrame, lif := s.lif } = s) ∧
    (h.kind = .lift → HeadStays s → ∃ t, exec (.frameTaken f) s = .next t ∧
      t.haltOf h.source = none ∧ (∀ n : Fin 32, n ≠ h.source → t.haltOf n = s.haltOf n) ∧
      ((s.haltOf h.source).isSome → s.notices.length < 15 → .haltCleared h.source .lift ∈ t.notices) ∧
      { t with
        roster := s.roster, halts := s.halts, notices := s.notices, lost := s.lost, lif := s.lif } = s) ∧
    (h.kind = .lift → DwellWaits x k s → s.faults = .empty → s.ownHalt.raised = false →
      (s.haltOf h.source).isSome → (∀ n : Fin 32, n ≠ h.source → s.haltOf n = none) →
      ∃ t, exec (.frameTaken f) s = .next t ∧ t.haltListed = false ∧ DwellStarts x k s t ∧
        { t with
          roster := s.roster, halts := s.halts, queue := s.queue, axis := s.axis, notices := s.notices
          lost := s.lost, lif := s.lif } = s)

/-- A new PRESENCE records its period, not below 2, and its summary, field by field, restarts the lapse timer at three
periods, and brings its source's halt-list entry into agreement with its halt-raised flag, an entry learned from it with
its decelerating stop; when that empties the list and nothing else halts, a Waiting head starts, said of a DWELL, and
for a head that does not start nothing more happens (R11, R101, R163, R196). That a summary is held as it is read, its
reason 0 while the flag is clear, is the model's reading (log 13). That the pulses remaining and the plan are clear when a segment that does not move starts is the model's (log 25). -/
def Obligations.PresenceIsRecordedAndReconciled : Prop :=
  ∀ (s : State) (f : RxFrame) (h : RxHeader) (x : Entry) (k : Nat),
    AtRest s → QueueInOrder s → s.receives → StationTablesFit s →
    rxClean f → rxHeader f = some h → h.kind = .presence → h.source ≠ s.station → h.dest = .broadcast →
    NewFrame h s →
    let raised := (byteAt h.payload 1).getLsbD 4
    (HeadStays s → ∃ t, exec (.frameTaken f) s = .next t ∧
      (t.peer h.source).state = .present ∧ (t.peer h.source).lastSequence = some h.sequence ∧
      (t.peer h.source).period =
        some (if (byteAt h.payload 0).toNat < 2 then 2 else byteAt h.payload 0) ∧
      (t.peer h.source).lapse = 160000 * (3 * (max 2 (byteAt h.payload 0).toNat)) ∧
      (t.peer h.source).summary = some
        { period := if (byteAt h.payload 0).toNat < 2 then 2 else byteAt h.payload 0
          axis := (byteAt h.payload 1).truncate 3, reticent := (byteAt h.payload 1).getLsbD 3
          haltRaised := raised, faults := (byteAt h.payload 1).getLsbD 5, halts := (byteAt h.payload 1).getLsbD 6
          depth := byteAt h.payload 2, reason := if raised then byteAt h.payload 3 else 0 } ∧
      (∀ n : Fin 32, n ≠ h.source → t.haltOf n = s.haltOf n) ∧
      t.haltOf h.source =
        (if raised then
          some ((s.haltOf h.source).getD
            { reason := byteAt h.payload 3, kind := .decelerating, learned := .presence })
        else none) ∧
      (raised → s.haltOf h.source = none → StopMade .decelerating s t) ∧
      (raised = false ∨ (s.haltOf h.source).isSome → t.queue = s.queue ∧ t.axis = s.axis) ∧
      { t with
        roster := s.roster, halts := s.halts, queue := s.queue, axis := s.axis, notices := s.notices
        lost := s.lost, outbound := s.outbound, nextFrame := s.nextFrame, lif := s.lif } = s) ∧
    (raised = false → DwellWaits x k s → s.lifecycle = .online → s.faults = .empty → s.ownHalt.raised = false →
      (s.haltOf h.source).isSome → (∀ n : Fin 32, n ≠ h.source → s.haltOf n = none) →
      ∃ t, exec (.frameTaken f) s = .next t ∧ t.haltListed = false ∧ DwellStarts x k s t ∧
        { t with
          roster := s.roster, halts := s.halts, queue := s.queue, axis := s.axis, notices := s.notices
          lost := s.lost, lif := s.lif } = s)

/-- A new POST for this station, taken Online, is checked in order and appended with origin Peer behind the entries
held, or refused; either way an ANSWER to its poster is admitted where the queue has room, or ANSWER_DROPPED takes its
place. Appended to an empty queue it becomes head, the axis GATED, and is evaluated in the same operation: behind a shut
gate it waits, and with its gate open it starts, said of a DWELL, a Tally gate giving up one count. Where a LEAVE or a
frame with the own number comes next, the POST is taken so, or waits for it, handed on and not yet taken (a free value,
log 50). A new ANSWER is taken at its post: Taken stops the timer, Refused and Finished close the entry with their
notice, and one that matches no entry or says nothing gives LATE_ANSWER. A new MARK is handed to the own Reaction Table
as an arrival from its source, and nothing else comes of it but its source's roster entry: its number is the low six
bits of its first byte, and its length decides the stamp (R7, R8, R11, R58, R124, R125, R172, R173, R176, R195, R196).
The retry of a POST received clean: FramesTakenFollowTheSequenceLaw. The model's choices here: how such a retry is known
(log 51), and that the pulses remaining and the plan are clear when a segment that does not move starts (log 25). -/
def Obligations.PostsAndAnswersAreTaken : Prop :=
  ∀ (s : State) (f : RxFrame) (h : RxHeader) (k : Nat),
    AtRest s → s.receives → StationTablesFit s → s.lifecycle = .online →
    rxClean f → rxHeader f = some h → h.source ≠ s.station →
    (h.dest = .station s.station ∨ h.kind = .mark ∧ h.dest = .broadcast) →
    NewFrame h s → ¬RetriesPost h s →
    let base := s.notices ++
      (match (s.peer h.source).state with
        | .absent => [Notice.peerJoined h.source h.kind]
        | .lapsed => [Notice.peerReturned h.source h.kind]
        | _ => [])
    let tag := byteAt h.payload 1
    let kind : AnswerKind :=
      if s.config.postMask.getLsbD h.source.val = false then .refused .notPermitted
      else if s.halted then .refused .halted
      else if 32 ≤ s.queue.length then .refused .full
      else if (validSegment s.config h.payload).isNone then .refused .invalid
      else .taken
    let q : Seq := Fin.ofNat 16 ((byteAt h.payload 0).toNat % 16)
    let mine (e : PostEntry) : Bool := e.dest == h.source && e.sequence == q
    let said := rxAnswer h.payload
    let entry (g : Segment) : Entry :=
      { segment := g, origin := .peer h.source h.sequence, state := .waiting, consumed := false }
    let stays : Prop := s.queue ≠ [] ∨ kind ≠ .taken
    let starts (g : Segment) : Prop := s.gateOpen g.gate ∧ g.body = .dwell k ∧ g.startMark = none
    let within : Prop := stays ∨ ∀ g ∈ validSegment s.config h.payload, s.gateOpen g.gate = false ∨ starts g
    let taken (t : State) : Prop :=
      (stays → t.axis = s.axis ∧ t.reactions = s.reactions ∧ t.queue = s.queue ++
        (if kind = .taken then (validSegment s.config h.payload).toList.map entry else [])) ∧
      (¬stays → ∀ g ∈ validSegment s.config h.payload,
        (s.gateOpen g.gate = false →
          t.queue = [entry g] ∧ t.axis = { s.axis with state := .gated } ∧ t.reactions = s.reactions) ∧
        (starts g → t.queue = [{ entry g with state := .running }] ∧
          t.axis = { s.axis.ended with state := .dwell, dwellTimer := 16000 * k } ∧
          t.reactions =
            (match g.gate with
            | .tally m => s.reactions.set m.val { s.reaction m with tally := (s.reaction m).tally - 1 }
            | _ => s.reactions))) ∧
      (s.canSend → s.outbound.length < 10 → t.outbound = s.outbound ++
        [{ id := s.nextFrame, dest := .station h.source, payload := .answer h.sequence kind tag
           sequence := s.lif.sequence, attempts := 0, inFlight := false, held := none }]) ∧
      (s.canSend = false ∨ 10 ≤ s.outbound.length → base.length < 16 →
        t.outbound = s.outbound ∧ t.notices = base ++ [.answerDropped tag h.source h.sequence kind]) ∧
      { t with
        queue := s.queue, axis := s.axis, reactions := s.reactions, outbound := s.outbound, nextFrame := s.nextFrame
        lif := s.lif, roster := s.roster, notices := s.notices, lost := s.lost, free := s.free } = s
    (h.kind = .post → within → s.overtaken = false →
      ∃ t, exec (.frameTaken f) s = .next t ∧ taken t ∧ t.free = s.free) ∧
    (h.kind = .post → within → s.overtaken →
      ∃ t, exec (.frameTaken f) s = .next t ∧ (taken t ∨
        t.posted = s.posted ++ [{ source := h.source, sequence := h.sequence, segment := h.payload }] ∧
        (base.length ≤ 16 → t.notices = base) ∧
        { t with
          posted := s.posted, lif := s.lif, roster := s.roster, notices := s.notices, lost := s.lost
          free := s.free } = s)) ∧
    (h.kind = .answer → ∃ t, exec (.frameTaken f) s = .next t ∧
      (said = none ∨ s.posts.find? mine = none → t.posts = s.posts ∧
        (base.length < 16 → t.notices = base ++ [.lateAnswer h.source q
          (BitVec.ofNat 2 ((byteAt h.payload 0).toNat / 16 % 4)) (byteAt h.payload 2)])) ∧
      (∀ e ∈ s.posts.find? mine,
        (said = some .taken → (base.length ≤ 16 → t.notices = base) ∧
          t.posts = s.posts.map fun x => if mine x then { x with state := .taken, timer := 0 } else x) ∧
        (∀ r ∈ [RefusalReason.notPermitted, .state, .halted, .full, .invalid], said = some (.refused r) →
          t.posts = s.posts.filter (fun x => !mine x) ∧
          (base.length < 16 → t.notices = base ++ [.postRefused h.source q e.tag r])) ∧
        (∀ o ∈ [Retirement.completed, .cut, .stopped, .flushed], said = some (.finished o) →
          t.posts = s.posts.filter (fun x => !mine x) ∧
          (base.length < 16 → t.notices = base ++ [.postFinished h.source q e.tag o]))) ∧
      { t with
        roster := s.roster, lif := s.lif, posts := s.posts, notices := s.notices, lost := s.lost } = s) ∧
    (h.kind = .mark → ∃ m ∈ rxMark h.payload, m.1.val = (byteAt h.payload 0).toNat % 64 ∧
      (m.2.isSome ↔ h.payload.length = 5) ∧ ∃ u,
      exec (.frameTaken f) s = .next (settle (takeArrival { source := h.source, mark := m.1, stamp := m.2 } u)) ∧
      (u.peer h.source).state = .present ∧ (u.peer h.source).lastSequence = some h.sequence ∧
      (base.length ≤ 16 → u.notices = base) ∧
      { u with roster := s.roster, lif := s.lif, notices := s.notices, lost := s.lost } = s)

/-- A clean frame with the own number as source brings Conflict: the receiver Off, the transmitter Silent, the Outbound
Queue empty, CONFLICT queued first, the fault set as it was; where no reaction entry acts on a mark then looped back,
the decelerating stop is made: a moving head above base speed brakes at its stop's rate, any other ends at once, and the
rest of the queue is flushed. Every POST handed on before it and not yet taken is then refused, and ANSWER_DROPPED takes the
place of its answer (R7, R41, R42, R88, R123, R138, R159, R176). -/
def Obligations.OwnNumberBringsConflict : Prop :=
  ∀ (s : State) (f : RxFrame) (h : RxHeader),
    AtRest s → QueueInOrder s → s.receives → rxClean f → rxHeader f = some h → h.source = s.station →
    (s.lifecycle = .online ∨ s.outbound = []) →
    ∃ t, exec (.frameTaken f) s = .next t ∧
      t.lifecycle = .conflict ∧ t.listenTimer = 0 ∧ t.presenceTimer = 0 ∧
      t.lif.receiver = .off ∧ t.lif.transmitter = .silent ∧ t.outbound = [] ∧
      t.standing ≠ .reticent ∧ (∀ e ∈ t.queue, e.state = .running) ∧
      ((∀ e ∈ s.emissions, NoEntryActs e.mark e.stamp s) → StopMade .decelerating s t) ∧
      (s.notices.length < 16 → (t.notices.drop s.notices.length).head? =
        some (.conflict h.kind h.sequence s.lifecycle s.standing)) ∧
      t.faults = s.faults ∧ t.roster = s.roster ∧ t.halts = s.halts ∧ t.command = s.command ∧
      t.measured = s.measured ∧ t.config = s.config ∧ t.posted = [] ∧
      (t.notices.length < 16 → t.notices.drop (t.notices.length - s.posted.length) = s.posted.map fun p =>
        .answerDropped (byteAt p.segment 1) p.source p.sequence
          (.refused (if s.config.postMask.getLsbD p.source.val then .state else .notPermitted)))

/-! ### The timers -/

/-- LISTENING_TIMER_EXPIRY brings the station Online. Not Withdrawn, it is Engaged with score 0, its first PRESENCE is
admitted and picked with its gap, and the presence timer starts; Withdrawn, it stays so and sends nothing. A Waiting
head that nothing halts then starts, said of a DWELL; for a head that does not start nothing more happens (R11, R156,
R165). That the pulses remaining and the plan are clear when a segment that does not move starts is the model's (log
25). -/
def Obligations.ListeningExpiryBringsTheStationOnline : Prop :=
  ∀ (s : State) (x : Entry) (k : Nat),
    AtRest s → LineAgrees s → s.lifecycle = .listening → s.lif.flight = none →
    s.outbound = [] → s.ownHalt.raised = false → s.ownHalt.owed = .none →
    (s.standing ≠ .withdrawn → HeadStays { s with lifecycle := .online } → ∃ t, exec .listeningTimerExpiry s = .next t ∧
      t.lifecycle = .online ∧ t.listenTimer = 0 ∧ t.score = 0 ∧ t.standing = .engaged ∧
      t.presenceTimer = 16000 * (10 * s.config.presencePeriod.toNat) ∧
      (∃ p, t.outbound = [{ id := s.nextFrame, dest := .broadcast, payload := .presence p
                            sequence := s.lif.sequence, attempts := 0, inFlight := false, held := none }] ∧
        p.period = s.config.presencePeriod ∧ p.reticent = false ∧ p.haltRaised = false) ∧
      t.lif.transmitter = .waiting ∧
      t.lif.picked = some { frame := s.nextFrame
                            gap := 200 + s.station.val + (if s.lif.yielding then 32 else 0) } ∧
      { t with
        lifecycle := s.lifecycle, listenTimer := s.listenTimer, presenceTimer := s.presenceTimer
        score := s.score, standing := s.standing, outbound := s.outbound, nextFrame := s.nextFrame
        lif := s.lif } = s) ∧
    (s.standing = .withdrawn → HeadStays { s with lifecycle := .online } → exec .listeningTimerExpiry s = .next
      (pickIfSilent { s with
        lifecycle := .online, listenTimer := 0
        presenceTimer := 16000 * (10 * s.config.presencePeriod.toNat) })) ∧
    (DwellWaits x k s → s.faults = .empty → s.haltListed = false → ∃ t, exec .listeningTimerExpiry s = .next t ∧
      t.lifecycle = .online ∧ DwellStarts x k s t ∧
      { t with
        lifecycle := s.lifecycle, listenTimer := s.listenTimer, presenceTimer := s.presenceTimer
        score := s.score, standing := s.standing, queue := s.queue, axis := s.axis, outbound := s.outbound
        nextFrame := s.nextFrame, lif := s.lif } = s)

/-- PRESENCE_TIMER_EXPIRY restarts the timer and asks for a PRESENCE with the present summary: admitted, or in place of
the payload of one never attempted. LAPSE_TIMER_EXPIRY makes a Present peer Lapsed, forgets its last sequence and
what it held of its POSTs, and gives its posts up; where a clean frame of that peer is taken first, the timer is set again and no lapse is taken.
ANSWER_TIMER_EXPIRY gives up the awaiting post with POST_LOST reason Unanswered (R133, R162, R164, R165, R171, R175). The
order of the notices of several posts is the model's (log 49), and so is that a timer set again is known by the whole
lapse time still to run (log 1). -/
def Obligations.TimersExpire : Prop :=
  ∀ (s : State) (n : Station) (q : Seq),
    StationTablesFit s →
    let lapseTime := 160000 * (3 * ((s.peer n).period.getD s.config.presencePeriod).toNat)
    (s.lifecycle = .online → ∃ t, exec .presenceTimerExpiry s = .next t ∧
      t.presenceTimer = 16000 * (10 * s.config.presencePeriod.toNat) ∧
      (s.standing ≠ .withdrawn → (∀ f ∈ s.outbound, f.payload.kind ≠ .presence) → s.outbound.length < 10 →
        t.outbound = s.outbound ++
          [{ id := s.nextFrame, dest := .broadcast, payload := .presence s.summary
             sequence := s.lif.sequence, attempts := 0, inFlight := false, held := none }]) ∧
      (∀ f ∈ s.outbound.find? OutFrame.isPresence, s.standing ≠ .withdrawn → f.attempts = 0 →
        f.inFlight = false →
        t.outbound = s.outbound.map (fun g =>
          if g.id = f.id then { f with payload := .presence s.summary } else g) ∧
        t.lif = s.lif) ∧
      (s.standing = .withdrawn → t.outbound = s.outbound ∧ t.lif = s.lif) ∧
      { t with
        presenceTimer := s.presenceTimer, outbound := s.outbound, nextFrame := s.nextFrame, lif := s.lif
        ownHalt := s.ownHalt } = s) ∧
    (s.onLine → (s.peer n).state = .present → (s.peer n).lapse ≠ lapseTime → ∃ t, exec (.lapseTimerExpiry n) s = .next t ∧
      t.peer n = { s.peer n with state := .lapsed, lapse := 0, lastSequence := none, postRetry := none } ∧
      (∀ k : Fin 32, k ≠ n → t.peer k = s.peer k) ∧
      t.posts = s.posts.filter (fun e => e.dest != n) ∧
      (s.notices.length + s.posts.length < 16 → t.notices = s.notices ++
        .peerLapsed n (3 * ((s.peer n).period.getD s.config.presencePeriod).toNat) ::
          (s.posts.filter fun e => e.dest == n).map
            (fun e => .postLost e.dest e.sequence e.tag .lapsed)) ∧
      { t with roster := s.roster, posts := s.posts, notices := s.notices, lost := s.lost } = s) ∧
    (∀ (f : RxFrame) (h : RxHeader), s.receives → rxClean f → rxHeader f = some h → h.source = n → n ≠ s.station →
      ∃ t, exec (.frameTaken f) s = .next t ∧ (t.peer n).state = .present ∧ exec (.lapseTimerExpiry n) t = .next t) ∧
    (∀ e ∈ s.posts, e.dest = n → e.sequence = q → e.state = .awaitingTake →
      ∃ t, exec (.answerTimerExpiry n q) s = .next t ∧
        t.posts = s.posts.filter (fun x => !(x.dest == n && x.sequence == q && x.state == .awaitingTake)) ∧
        (s.notices.length < 16 →
          (t.notices.drop s.notices.length).head? = some (.postLost n q e.tag .unanswered) ∨
          ∃ x ∈ s.posts, x ≠ e ∧ x.dest = n ∧ x.sequence = q ∧ x.state = .awaitingTake) ∧
        { t with posts := s.posts, notices := s.notices, lost := s.lost } = s)

/-! ### Gaps, sequences, checks, layouts -/

/-- R111: the deferral gap is the stated sum, lies in 8..519, never leaves the band of its class, and is never the same for
two stations with different numbers; among stations not Reticent a lower class comes first, within a class one that is not
yielding, then the lower number; a Reticent station comes behind every other. -/
def Obligations.DeferralGapsNeverMeet : Prop :=
  ∀ (s t : State) (f g : OutFrame),
    (s.gapOf f = 8 + 64 * f.cls + s.station.val + (if s.lif.yielding then 32 else 0) +
      (if s.standing = .reticent then 256 else 0)) ∧
    f.cls ≤ 3 ∧ 8 ≤ s.gapOf f ∧ s.gapOf f ≤ 519 ∧
    (s.gapOf f = 8 ↔ f.cls = 0 ∧ s.station = 0 ∧ s.lif.yielding = false ∧ s.standing ≠ .reticent) ∧
    (s.gapOf f = 519 ↔ f.cls = 3 ∧ s.station = 31 ∧ s.lif.yielding = true ∧ s.standing = .reticent) ∧
    (s.station ≠ t.station → s.gapOf f ≠ t.gapOf g) ∧
    (s.standing ≠ .reticent → t.standing = .reticent → s.gapOf f < t.gapOf g) ∧
    ((s.standing = .reticent ↔ t.standing = .reticent) →
      (f.cls < g.cls → s.gapOf f < t.gapOf g) ∧
      (f.cls = g.cls → s.lif.yielding = false → t.lif.yielding = true → s.gapOf f < t.gapOf g) ∧
      (f.cls = g.cls → s.lif.yielding = t.lif.yielding → s.station < t.station → s.gapOf f < t.gapOf g))

/-- R118: an admitted frame takes the counter's value and the counter advances by one, from 15 to 0; a failed attempt keeps
the frame's number; an update in place takes no new number and a supersession takes one. -/
def Obligations.SequenceNumbersComeFromOneCounter : Prop :=
  ∀ (s : State) (d : Dest) (p : Payload) (f : OutFrame) (x : Presence) (echo : Bool),
    (∀ t ∈ admission d p s, ∃ g, t.outbound = s.outbound ++ [g] ∧ g.sequence = s.lif.sequence ∧
      t.lif.sequence.val = (s.lif.sequence.val + 1) % 16) ∧
    (f.attempts < 7 → f.held = none →
      (failFrame echo f s).outbound.map (fun g => g.sequence) =
        s.outbound.map (fun g => if g.id = f.id then f.sequence else g.sequence) ∧
      (failFrame echo f s).lif.sequence = s.lif.sequence) ∧
    (∀ h ∈ s.outbound.find? OutFrame.isPresence, h.attempts = 0 → h.inFlight = false →
      (updatePresence (fun _ => x) s).lif.sequence = s.lif.sequence ∧
      (updatePresence (fun _ => x) s).outbound.map (fun g => g.sequence) =
        s.outbound.map (fun g => if g.id = h.id then h.sequence else g.sequence)) ∧
    (∀ h ∈ s.outbound.find? OutFrame.isPresence, h.attempts ≠ 0 → h.inFlight = false →
      s.ownHalt.owed = .none →
      (updatePresence (fun _ => x) s).lif.sequence.val = (s.lif.sequence.val + 1) % 16 ∧
      (updatePresence (fun _ => x) s).outbound.map (fun g => g.sequence) =
        s.outbound.map (fun g => if g.id = h.id then s.lif.sequence else g.sequence))

/-- R126: the check register starts at FFFFh, takes every character from its most significant bit on, shifts left and is
combined with 1021h when the bits differ; it is sent high byte first, with no inversion, and a frame has a Check error
exactly when the register over its header and payload differs from what it carries. Over 31h to 39h it ends at 29B1h. -/
def Obligations.CheckCharactersFollowTheRule : Prop :=
  (∀ (chars : List Byte),
    crc16 chars = (chars.flatMap fun c => [7, 6, 5, 4, 3, 2, 1, 0].map fun k => c.getLsbD k).foldl
      (fun (r : BitVec 16) (b : Bool) => if r.msb = b then r <<< 1 else (r <<< 1) ^^^ 0x1021#16) 0xFFFF#16) ∧
  (∀ (n : Station) (f : OutFrame),
    let body := headerBytes n f ++ f.payload.bytes
    frameChars n f = body ++ [(crc16 body).extractLsb' 8 8, (crc16 body).extractLsb' 0 8]) ∧
  (∀ (f : RxFrame),
    let body := f.chars.take (3 + headerLength f.chars)
    (RxError.check ∈ rxErrors f ↔ f.chars.drop (3 + headerLength f.chars) ≠
      [(crc16 body).extractLsb' 8 8, (crc16 body).extractLsb' 0 8])) ∧
  crc16 [0x31, 0x32, 0x33, 0x34, 0x35, 0x36, 0x37, 0x38, 0x39] = 0x29B1#16

/-- Whatever own frame is sent, a receiver that gets its characters as they were sent finds it clean and reads from its
header and payload what was sent, in every kind and with every operand (R107, R121, R126, R195, R196). -/
def Obligations.OwnFramesReadBackAsSent : Prop :=
  ∀ (n : Station) (f : OutFrame) (framing noise : Bool),
    framing = false → noise = false →
    (match f.payload with
      | .post segment => 4 ≤ segment.length ∧ segment.length ≤ 16
      | .presence p => 2 ≤ p.period.toNat ∧ (p.haltRaised = false → p.reason = 0)
      | _ => True) →
    (match f.payload with
      | .answer .. | .post _ => ∃ m : Fin 32, f.dest = .station m ∧ m ≠ n
      | _ => f.dest = .broadcast) →
    let rx : RxFrame := { chars := frameChars n f, framing, noise }
    rxClean rx = true ∧
    rxHeader rx = some { kind := f.payload.kind, source := n, dest := f.dest, retry := decide (0 < f.attempts)
                         sequence := f.sequence
                         payload := f.payload.bytes } ∧
    (match f.payload with
      | .halt reason kind => byteAt f.payload.bytes 0 = reason ∧ rxStopKind (byteAt f.payload.bytes 1) = kind
      | .lift => f.payload.bytes = []
      | .mark m stamp => rxMark f.payload.bytes = some (m, stamp)
      | .answer q kind tag => rxAnswer f.payload.bytes = some kind ∧ answeredSeq f.payload.bytes = q ∧
          byteAt f.payload.bytes 2 = tag
      | .post segment => f.payload.bytes = segment
      | .presence p => rxPresence f.payload.bytes = p)

/-- The layouts of the Local Port. The 23 bytes of a configuration block whose fields lie in their ranges spell that block
again, and bytes spell one only if every field is in range and every bit without a meaning is 0. Bytes spell a segment
exactly when they are the bytes of a segment valid under the field rules, and an append refuses besides a MOVE_ABS target
outside enabled software limits. Each command code takes its argument bytes and spells its command, four-byte values low
byte first; a code outside the set is UNKNOWN at once. A byte goes most significant bit first (R5, R6, R182, R185, R187,
R188, R194, R197, R198, R199, R200). -/
def Obligations.ConfigurationReadsBackAsWritten : Prop :=
  (∀ (c : ConfigBlock),
    2 ≤ c.presencePeriod.toNat → 1 ≤ c.answerWindow.toNat → 1 ≤ c.baseSpeed.toNat → 1 ≤ c.stopRate.toNat →
    (c.softEnabled = true → c.softMin.toInt ≤ c.softMax.toInt) →
    c.bytes.length = 23 ∧ configOfBytes c.bytes = some c) ∧
  (∀ (b : List Byte), (configOfBytes b).isSome = true ↔
    b.length = 23 ∧ 2 ≤ (byteAt b 0).toNat ∧ 1 ≤ (byteAt b 1).toNat ∧
    (byteAt b 6 ≠ 0 ∨ byteAt b 7 ≠ 0) ∧ (byteAt b 8 ≠ 0 ∨ byteAt b 9 ≠ 0) ∧
    (byteAt b 10).toNat < 128 ∧ (byteAt b 10).toNat / 2 % 4 ≠ 3 ∧
    (byteAt b 21).toNat < 128 ∧ (byteAt b 22).toNat < 8 ∧
    ((byteAt b 10).getLsbD 5 = true → (wordAt 32 b 13 4).toInt ≤ (wordAt 32 b 17 4).toInt)) ∧
  (∀ (b : List Byte) (g : Segment), segmentOfBytes b = some g ↔ SegmentFits g ∧ b = g.bytes) ∧
  (∀ (c : ConfigBlock) (b : List Byte) (g : Segment), validSegment c b = some g ↔ segmentOfBytes b = some g ∧
    (∀ (x : Position) (r : Ramp), g.body = .moveAbs x r → c.softEnabled = true →
      c.softMin.toInt ≤ x.toInt ∧ x.toInt ≤ c.softMax.toInt)) ∧
  (∀ (straps : Straps) (b0 b1 b2 b3 b4 b5 : Byte) (v : Position) (l : List Byte),
    let spelt := commandOf straps
    (l.length = 23 → spelt 0x10 l = some (.writeConfig l)) ∧ spelt 0x11 [] = some .join ∧
    spelt 0x12 [] = some .leave ∧ spelt 0x13 [] = some .rejoin ∧ spelt 0x14 [] = some (.restart straps) ∧
    (l.length = takenLength l → spelt 0x20 l = some (.appendSegment l) ∧
      spelt 0x60 (b0 :: l) = some (.postSegment b0 l)) ∧
    spelt 0x21 [] = some .flush ∧ spelt 0x22 [] = some .stop ∧ spelt 0x23 [] = some .abort ∧
    spelt 0x24 [] = some .acknowledge ∧ spelt 0x30 [b0, b1] = some (.raiseHalt b0 b1) ∧
    spelt 0x31 [] = some .liftHalt ∧ spelt 0x32 [] = some .dismiss ∧
    spelt 0x40 ([b0, b1] ++ bytesOf 4 v) = some (.emitMark b0 b1 v) ∧
    spelt 0x41 [b0, b1, b2, b3, b4, b5] = some (.setReaction b0 b1 b2 b3 b4 b5) ∧
    spelt 0x42 [b0] = some (.clearReaction b0) ∧ spelt 0x43 [b0] = some (.rearm b0) ∧
    spelt 0x50 ([b0, b1, b2, b3] ++ bytesOf 4 v ++ [b4, b5]) = some (.setWatch b0 b1 b2 b3 v b4 b5) ∧
    spelt 0x51 [b0, b1] = some (.setCapture b0 b1) ∧ spelt 0x52 [b0] = some (.readCapture b0) ∧
    spelt 0x70 [] = some .readStatus ∧ spelt 0x71 [b0] = some (.readRoster b0) ∧
    spelt 0x72 [] = some .readHaltList ∧ spelt 0x73 [] = some .readNotice ∧
    (b0 ∉ commandCodes → spelt b0 [] = some (.unknown b0)) ∧ (b0 ∈ commandCodes → spelt b0 [] ≠ some (.unknown b0)) ∧
    byteOfBits (bitsOfByte b0) = b0 ∧ bitsOfByte b0 = (List.range 8).map (fun k => b0.getLsbD (7 - k)))

/-! ### Invariants -/

/-- R3, R57, R70, R76, R98, R130, R161, R169, R190: every step keeps the capacities and ranges of the collections: the
queue, the notices, the Outbound Queue, the tables, the tallies, the posts, the roster and the halt list. R44: every step
keeps the measured position equal to the command position while the encoder is Off. -/
def Obligations.EveryStepKeepsTheCapacitiesAndPositions : Prop :=
  ∀ (s t : State),
    step s = .next t →
    (Fits s → QueueFits s → PostsFit s → StationTablesFit s →
      Fits t ∧ QueueFits t ∧ PostsFit t ∧ StationTablesFit t) ∧
    (PositionsAgree s → PositionsAgree t)

/-- R142: every step keeps the score and the recovery count in their ranges and the standing as its table has it: Reticent
exactly when Online, not Withdrawn and with a score of 96 or more. -/
def Obligations.EveryStepKeepsTheStandingTable : Prop :=
  ∀ (s t : State), StandingFits s → step s = .next t → StandingFits t

/-- R3, R9, R23: every step keeps the entry states and the axis state as the queue has them: only the head runs, only a
second entry behind a running head is Committed, and the axis is IDLE, GATED, moving or in DWELL accordingly. -/
def Obligations.EveryStepKeepsTheQueueInOrder : Prop :=
  ∀ (s t : State), QueueInOrder s → step s = .next t → QueueInOrder t

/-- Log 5 (the model's own): every step leaves nothing handed on between blocks. With it, the table of the Line
Interface: the transmitter is Waiting exactly with a picked frame, and Sending or Listening-back exactly with a frame in
flight. A POST handed on stays untaken only while the command that comes next takes the part out of Online (log 50). -/
def Obligations.EveryStepEndsAtRestWithTheLineInAgreement : Prop :=
  ∀ (s t : State), AtRest s → LineAgrees s → step s = .next t →
    AtRest t ∧ LineAgrees t ∧ (PostedIsOvertaken s → PostedIsOvertaken t)

/-- The part right after a hard reset, whatever the straps and whatever was before it, meets every invariant. State.reset is
such a state, with every strap low (log 3, the model's choice). -/
def Obligations.ResetMeetsEveryInvariant : Prop :=
  ∀ (s : State) (straps : Straps), AtRest s → ∃ t, exec (.hardReset straps) s = .next t ∧
    Fits t ∧ QueueFits t ∧ PostsFit t ∧ StationTablesFit t ∧ PositionsAgree t ∧ StandingFits t ∧ QueueInOrder t ∧
    AtRest t ∧ LineAgrees t ∧ PostedIsOvertaken t ∧
  Fits State.reset ∧ QueueFits State.reset ∧ PostsFit State.reset ∧ StationTablesFit State.reset ∧
    PositionsAgree State.reset ∧ StandingFits State.reset ∧ QueueInOrder State.reset ∧ AtRest State.reset ∧
    LineAgrees State.reset ∧ PostedIsOvertaken State.reset
end

