-- ==== Sys2Proof/Laws/State.lean ====
section
/-! SUPPORT. What the operations that update a fixed part of the state do to each field, true by rfl. -/

set_option Elab.async false

namespace Sys2Proof.Machine

/-! ### respond -/

@[simp] theorem respond_config (code : ResultCode) (data : List Byte) (s : State) :
    (respond code data s).config = s.config := rfl
@[simp] theorem respond_station (code : ResultCode) (data : List Byte) (s : State) :
    (respond code data s).station = s.station := rfl
@[simp] theorem respond_bitRate (code : ResultCode) (data : List Byte) (s : State) :
    (respond code data s).bitRate = s.bitRate := rfl
@[simp] theorem respond_lifecycle (code : ResultCode) (data : List Byte) (s : State) :
    (respond code data s).lifecycle = s.lifecycle := rfl
@[simp] theorem respond_listenTimer (code : ResultCode) (data : List Byte) (s : State) :
    (respond code data s).listenTimer = s.listenTimer := rfl
@[simp] theorem respond_presenceTimer (code : ResultCode) (data : List Byte) (s : State) :
    (respond code data s).presenceTimer = s.presenceTimer := rfl
@[simp] theorem respond_roster (code : ResultCode) (data : List Byte) (s : State) :
    (respond code data s).roster = s.roster := rfl
@[simp] theorem respond_queue (code : ResultCode) (data : List Byte) (s : State) :
    (respond code data s).queue = s.queue := rfl
@[simp] theorem respond_axis (code : ResultCode) (data : List Byte) (s : State) :
    (respond code data s).axis = s.axis := rfl
@[simp] theorem respond_command (code : ResultCode) (data : List Byte) (s : State) :
    (respond code data s).command = s.command := rfl
@[simp] theorem respond_measured (code : ResultCode) (data : List Byte) (s : State) :
    (respond code data s).measured = s.measured := rfl
@[simp] theorem respond_encA (code : ResultCode) (data : List Byte) (s : State) :
    (respond code data s).encA = s.encA := rfl
@[simp] theorem respond_encB (code : ResultCode) (data : List Byte) (s : State) :
    (respond code data s).encB = s.encB := rfl
@[simp] theorem respond_watches (code : ResultCode) (data : List Byte) (s : State) :
    (respond code data s).watches = s.watches := rfl
@[simp] theorem respond_captures (code : ResultCode) (data : List Byte) (s : State) :
    (respond code data s).captures = s.captures := rfl
@[simp] theorem respond_reactions (code : ResultCode) (data : List Byte) (s : State) :
    (respond code data s).reactions = s.reactions := rfl
@[simp] theorem respond_emissions (code : ResultCode) (data : List Byte) (s : State) :
    (respond code data s).emissions = s.emissions := rfl
@[simp] theorem respond_inputs (code : ResultCode) (data : List Byte) (s : State) :
    (respond code data s).inputs = s.inputs := rfl
@[simp] theorem respond_faults (code : ResultCode) (data : List Byte) (s : State) :
    (respond code data s).faults = s.faults := rfl
@[simp] theorem respond_ownHalt (code : ResultCode) (data : List Byte) (s : State) :
    (respond code data s).ownHalt = s.ownHalt := rfl
@[simp] theorem respond_halts (code : ResultCode) (data : List Byte) (s : State) :
    (respond code data s).halts = s.halts := rfl
@[simp] theorem respond_lif (code : ResultCode) (data : List Byte) (s : State) :
    (respond code data s).lif = s.lif := rfl
@[simp] theorem respond_outbound (code : ResultCode) (data : List Byte) (s : State) :
    (respond code data s).outbound = s.outbound := rfl
@[simp] theorem respond_nextFrame (code : ResultCode) (data : List Byte) (s : State) :
    (respond code data s).nextFrame = s.nextFrame := rfl
@[simp] theorem respond_score (code : ResultCode) (data : List Byte) (s : State) :
    (respond code data s).score = s.score := rfl
@[simp] theorem respond_standing (code : ResultCode) (data : List Byte) (s : State) :
    (respond code data s).standing = s.standing := rfl
@[simp] theorem respond_recovery (code : ResultCode) (data : List Byte) (s : State) :
    (respond code data s).recovery = s.recovery := rfl
@[simp] theorem respond_posts (code : ResultCode) (data : List Byte) (s : State) :
    (respond code data s).posts = s.posts := rfl
@[simp] theorem respond_posted (code : ResultCode) (data : List Byte) (s : State) :
    (respond code data s).posted = s.posted := rfl
@[simp] theorem respond_port (code : ResultCode) (data : List Byte) (s : State) :
    (respond code data s).port = { s.port with taken := true, result := code.byte :: data } := rfl
@[simp] theorem respond_notices (code : ResultCode) (data : List Byte) (s : State) :
    (respond code data s).notices = s.notices := rfl
@[simp] theorem respond_lost (code : ResultCode) (data : List Byte) (s : State) :
    (respond code data s).lost = s.lost := rfl
@[simp] theorem respond_bitPhase (code : ResultCode) (data : List Byte) (s : State) :
    (respond code data s).bitPhase = s.bitPhase := rfl
@[simp] theorem respond_closing (code : ResultCode) (data : List Byte) (s : State) :
    (respond code data s).closing = s.closing := rfl
@[simp] theorem respond_pending (code : ResultCode) (data : List Byte) (s : State) :
    (respond code data s).pending = s.pending := rfl
@[simp] theorem respond_handed (code : ResultCode) (data : List Byte) (s : State) :
    (respond code data s).handed = s.handed := rfl
@[simp] theorem respond_free (code : ResultCode) (data : List Byte) (s : State) :
    (respond code data s).free = s.free := rfl

/-! ### handEvaluate -/

@[simp] theorem handEvaluate_config (s : State) : (handEvaluate s).config = s.config := rfl
@[simp] theorem handEvaluate_station (s : State) : (handEvaluate s).station = s.station := rfl
@[simp] theorem handEvaluate_bitRate (s : State) : (handEvaluate s).bitRate = s.bitRate := rfl
@[simp] theorem handEvaluate_lifecycle (s : State) : (handEvaluate s).lifecycle = s.lifecycle := rfl
@[simp] theorem handEvaluate_listenTimer (s : State) : (handEvaluate s).listenTimer = s.listenTimer := rfl
@[simp] theorem handEvaluate_presenceTimer (s : State) : (handEvaluate s).presenceTimer = s.presenceTimer := rfl
@[simp] theorem handEvaluate_roster (s : State) : (handEvaluate s).roster = s.roster := rfl
@[simp] theorem handEvaluate_queue (s : State) : (handEvaluate s).queue = s.queue := rfl
@[simp] theorem handEvaluate_axis (s : State) : (handEvaluate s).axis = s.axis := rfl
@[simp] theorem handEvaluate_command (s : State) : (handEvaluate s).command = s.command := rfl
@[simp] theorem handEvaluate_measured (s : State) : (handEvaluate s).measured = s.measured := rfl
@[simp] theorem handEvaluate_encA (s : State) : (handEvaluate s).encA = s.encA := rfl
@[simp] theorem handEvaluate_encB (s : State) : (handEvaluate s).encB = s.encB := rfl
@[simp] theorem handEvaluate_watches (s : State) : (handEvaluate s).watches = s.watches := rfl
@[simp] theorem handEvaluate_captures (s : State) : (handEvaluate s).captures = s.captures := rfl
@[simp] theorem handEvaluate_reactions (s : State) : (handEvaluate s).reactions = s.reactions := rfl
@[simp] theorem handEvaluate_emissions (s : State) : (handEvaluate s).emissions = s.emissions := rfl
@[simp] theorem handEvaluate_inputs (s : State) : (handEvaluate s).inputs = s.inputs := rfl
@[simp] theorem handEvaluate_faults (s : State) : (handEvaluate s).faults = s.faults := rfl
@[simp] theorem handEvaluate_ownHalt (s : State) : (handEvaluate s).ownHalt = s.ownHalt := rfl
@[simp] theorem handEvaluate_halts (s : State) : (handEvaluate s).halts = s.halts := rfl
@[simp] theorem handEvaluate_lif (s : State) : (handEvaluate s).lif = s.lif := rfl
@[simp] theorem handEvaluate_outbound (s : State) : (handEvaluate s).outbound = s.outbound := rfl
@[simp] theorem handEvaluate_nextFrame (s : State) : (handEvaluate s).nextFrame = s.nextFrame := rfl
@[simp] theorem handEvaluate_score (s : State) : (handEvaluate s).score = s.score := rfl
@[simp] theorem handEvaluate_standing (s : State) : (handEvaluate s).standing = s.standing := rfl
@[simp] theorem handEvaluate_recovery (s : State) : (handEvaluate s).recovery = s.recovery := rfl
@[simp] theorem handEvaluate_posts (s : State) : (handEvaluate s).posts = s.posts := rfl
@[simp] theorem handEvaluate_posted (s : State) : (handEvaluate s).posted = s.posted := rfl
@[simp] theorem handEvaluate_port (s : State) : (handEvaluate s).port = s.port := rfl
@[simp] theorem handEvaluate_notices (s : State) : (handEvaluate s).notices = s.notices := rfl
@[simp] theorem handEvaluate_lost (s : State) : (handEvaluate s).lost = s.lost := rfl
@[simp] theorem handEvaluate_bitPhase (s : State) : (handEvaluate s).bitPhase = s.bitPhase := rfl
@[simp] theorem handEvaluate_closing (s : State) : (handEvaluate s).closing = s.closing := rfl
@[simp] theorem handEvaluate_pending (s : State) : (handEvaluate s).pending = s.pending := rfl
@[simp] theorem handEvaluate_handed (s : State) : (handEvaluate s).handed = { s.handed with evaluate := true } := rfl
@[simp] theorem handEvaluate_free (s : State) : (handEvaluate s).free = s.free := rfl

/-! ### handLoopBack -/

@[simp] theorem handLoopBack_config (m : Mark) (p : Option Position) (s : State) :
    (handLoopBack m p s).config = s.config := rfl
@[simp] theorem handLoopBack_station (m : Mark) (p : Option Position) (s : State) :
    (handLoopBack m p s).station = s.station := rfl
@[simp] theorem handLoopBack_bitRate (m : Mark) (p : Option Position) (s : State) :
    (handLoopBack m p s).bitRate = s.bitRate := rfl
@[simp] theorem handLoopBack_lifecycle (m : Mark) (p : Option Position) (s : State) :
    (handLoopBack m p s).lifecycle = s.lifecycle := rfl
@[simp] theorem handLoopBack_listenTimer (m : Mark) (p : Option Position) (s : State) :
    (handLoopBack m p s).listenTimer = s.listenTimer := rfl
@[simp] theorem handLoopBack_presenceTimer (m : Mark) (p : Option Position) (s : State) :
    (handLoopBack m p s).presenceTimer = s.presenceTimer := rfl
@[simp] theorem handLoopBack_roster (m : Mark) (p : Option Position) (s : State) :
    (handLoopBack m p s).roster = s.roster := rfl
@[simp] theorem handLoopBack_queue (m : Mark) (p : Option Position) (s : State) :
    (handLoopBack m p s).queue = s.queue := rfl
@[simp] theorem handLoopBack_axis (m : Mark) (p : Option Position) (s : State) :
    (handLoopBack m p s).axis = s.axis := rfl
@[simp] theorem handLoopBack_command (m : Mark) (p : Option Position) (s : State) :
    (handLoopBack m p s).command = s.command := rfl
@[simp] theorem handLoopBack_measured (m : Mark) (p : Option Position) (s : State) :
    (handLoopBack m p s).measured = s.measured := rfl
@[simp] theorem handLoopBack_encA (m : Mark) (p : Option Position) (s : State) :
    (handLoopBack m p s).encA = s.encA := rfl
@[simp] theorem handLoopBack_encB (m : Mark) (p : Option Position) (s : State) :
    (handLoopBack m p s).encB = s.encB := rfl
@[simp] theorem handLoopBack_watches (m : Mark) (p : Option Position) (s : State) :
    (handLoopBack m p s).watches = s.watches := rfl
@[simp] theorem handLoopBack_captures (m : Mark) (p : Option Position) (s : State) :
    (handLoopBack m p s).captures = s.captures := rfl
@[simp] theorem handLoopBack_reactions (m : Mark) (p : Option Position) (s : State) :
    (handLoopBack m p s).reactions = s.reactions := rfl
@[simp] theorem handLoopBack_emissions (m : Mark) (p : Option Position) (s : State) :
    (handLoopBack m p s).emissions = s.emissions := rfl
@[simp] theorem handLoopBack_inputs (m : Mark) (p : Option Position) (s : State) :
    (handLoopBack m p s).inputs = s.inputs := rfl
@[simp] theorem handLoopBack_faults (m : Mark) (p : Option Position) (s : State) :
    (handLoopBack m p s).faults = s.faults := rfl
@[simp] theorem handLoopBack_ownHalt (m : Mark) (p : Option Position) (s : State) :
    (handLoopBack m p s).ownHalt = s.ownHalt := rfl
@[simp] theorem handLoopBack_halts (m : Mark) (p : Option Position) (s : State) :
    (handLoopBack m p s).halts = s.halts := rfl
@[simp] theorem handLoopBack_lif (m : Mark) (p : Option Position) (s : State) :
    (handLoopBack m p s).lif = s.lif := rfl
@[simp] theorem handLoopBack_outbound (m : Mark) (p : Option Position) (s : State) :
    (handLoopBack m p s).outbound = s.outbound := rfl
@[simp] theorem handLoopBack_nextFrame (m : Mark) (p : Option Position) (s : State) :
    (handLoopBack m p s).nextFrame = s.nextFrame := rfl
@[simp] theorem handLoopBack_score (m : Mark) (p : Option Position) (s : State) :
    (handLoopBack m p s).score = s.score := rfl
@[simp] theorem handLoopBack_standing (m : Mark) (p : Option Position) (s : State) :
    (handLoopBack m p s).standing = s.standing := rfl
@[simp] theorem handLoopBack_recovery (m : Mark) (p : Option Position) (s : State) :
    (handLoopBack m p s).recovery = s.recovery := rfl
@[simp] theorem handLoopBack_posts (m : Mark) (p : Option Position) (s : State) :
    (handLoopBack m p s).posts = s.posts := rfl
@[simp] theorem handLoopBack_posted (m : Mark) (p : Option Position) (s : State) :
    (handLoopBack m p s).posted = s.posted := rfl
@[simp] theorem handLoopBack_port (m : Mark) (p : Option Position) (s : State) :
    (handLoopBack m p s).port = s.port := rfl
@[simp] theorem handLoopBack_notices (m : Mark) (p : Option Position) (s : State) :
    (handLoopBack m p s).notices = s.notices := rfl
@[simp] theorem handLoopBack_lost (m : Mark) (p : Option Position) (s : State) :
    (handLoopBack m p s).lost = s.lost := rfl
@[simp] theorem handLoopBack_bitPhase (m : Mark) (p : Option Position) (s : State) :
    (handLoopBack m p s).bitPhase = s.bitPhase := rfl
@[simp] theorem handLoopBack_closing (m : Mark) (p : Option Position) (s : State) :
    (handLoopBack m p s).closing = s.closing := rfl
@[simp] theorem handLoopBack_pending (m : Mark) (p : Option Position) (s : State) :
    (handLoopBack m p s).pending = s.pending := rfl
@[simp] theorem handLoopBack_handed (m : Mark) (p : Option Position) (s : State) :
    (handLoopBack m p s).handed = { s.handed with loopBacks := s.handed.loopBacks ++ [(m, p)] } := rfl
@[simp] theorem handLoopBack_free (m : Mark) (p : Option Position) (s : State) :
    (handLoopBack m p s).free = s.free := rfl

/-! ### startPresenceTimer -/

@[simp] theorem startPresenceTimer_config (s : State) : (startPresenceTimer s).config = s.config := rfl
@[simp] theorem startPresenceTimer_station (s : State) : (startPresenceTimer s).station = s.station := rfl
@[simp] theorem startPresenceTimer_bitRate (s : State) : (startPresenceTimer s).bitRate = s.bitRate := rfl
@[simp] theorem startPresenceTimer_lifecycle (s : State) : (startPresenceTimer s).lifecycle = s.lifecycle := rfl
@[simp] theorem startPresenceTimer_listenTimer (s : State) : (startPresenceTimer s).listenTimer = s.listenTimer := rfl
@[simp] theorem startPresenceTimer_presenceTimer (s : State) :
    (startPresenceTimer s).presenceTimer = ms (10 * s.config.presencePeriod.toNat) := rfl
@[simp] theorem startPresenceTimer_roster (s : State) : (startPresenceTimer s).roster = s.roster := rfl
@[simp] theorem startPresenceTimer_queue (s : State) : (startPresenceTimer s).queue = s.queue := rfl
@[simp] theorem startPresenceTimer_axis (s : State) : (startPresenceTimer s).axis = s.axis := rfl
@[simp] theorem startPresenceTimer_command (s : State) : (startPresenceTimer s).command = s.command := rfl
@[simp] theorem startPresenceTimer_measured (s : State) : (startPresenceTimer s).measured = s.measured := rfl
@[simp] theorem startPresenceTimer_encA (s : State) : (startPresenceTimer s).encA = s.encA := rfl
@[simp] theorem startPresenceTimer_encB (s : State) : (startPresenceTimer s).encB = s.encB := rfl
@[simp] theorem startPresenceTimer_watches (s : State) : (startPresenceTimer s).watches = s.watches := rfl
@[simp] theorem startPresenceTimer_captures (s : State) : (startPresenceTimer s).captures = s.captures := rfl
@[simp] theorem startPresenceTimer_reactions (s : State) : (startPresenceTimer s).reactions = s.reactions := rfl
@[simp] theorem startPresenceTimer_emissions (s : State) : (startPresenceTimer s).emissions = s.emissions := rfl
@[simp] theorem startPresenceTimer_inputs (s : State) : (startPresenceTimer s).inputs = s.inputs := rfl
@[simp] theorem startPresenceTimer_faults (s : State) : (startPresenceTimer s).faults = s.faults := rfl
@[simp] theorem startPresenceTimer_ownHalt (s : State) : (startPresenceTimer s).ownHalt = s.ownHalt := rfl
@[simp] theorem startPresenceTimer_halts (s : State) : (startPresenceTimer s).halts = s.halts := rfl
@[simp] theorem startPresenceTimer_lif (s : State) : (startPresenceTimer s).lif = s.lif := rfl
@[simp] theorem startPresenceTimer_outbound (s : State) : (startPresenceTimer s).outbound = s.outbound := rfl
@[simp] theorem startPresenceTimer_nextFrame (s : State) : (startPresenceTimer s).nextFrame = s.nextFrame := rfl
@[simp] theorem startPresenceTimer_score (s : State) : (startPresenceTimer s).score = s.score := rfl
@[simp] theorem startPresenceTimer_standing (s : State) : (startPresenceTimer s).standing = s.standing := rfl
@[simp] theorem startPresenceTimer_recovery (s : State) : (startPresenceTimer s).recovery = s.recovery := rfl
@[simp] theorem startPresenceTimer_posts (s : State) : (startPresenceTimer s).posts = s.posts := rfl
@[simp] theorem startPresenceTimer_posted (s : State) : (startPresenceTimer s).posted = s.posted := rfl
@[simp] theorem startPresenceTimer_port (s : State) : (startPresenceTimer s).port = s.port := rfl
@[simp] theorem startPresenceTimer_notices (s : State) : (startPresenceTimer s).notices = s.notices := rfl
@[simp] theorem startPresenceTimer_lost (s : State) : (startPresenceTimer s).lost = s.lost := rfl
@[simp] theorem startPresenceTimer_bitPhase (s : State) : (startPresenceTimer s).bitPhase = s.bitPhase := rfl
@[simp] theorem startPresenceTimer_closing (s : State) : (startPresenceTimer s).closing = s.closing := rfl
@[simp] theorem startPresenceTimer_pending (s : State) : (startPresenceTimer s).pending = s.pending := rfl
@[simp] theorem startPresenceTimer_handed (s : State) : (startPresenceTimer s).handed = s.handed := rfl
@[simp] theorem startPresenceTimer_free (s : State) : (startPresenceTimer s).free = s.free := rfl

/-! ### setTally -/

@[simp] theorem setTally_config (e : Fin 24) (n : Nat) (s : State) : (setTally e n s).config = s.config := rfl
@[simp] theorem setTally_station (e : Fin 24) (n : Nat) (s : State) : (setTally e n s).station = s.station := rfl
@[simp] theorem setTally_bitRate (e : Fin 24) (n : Nat) (s : State) : (setTally e n s).bitRate = s.bitRate := rfl
@[simp] theorem setTally_lifecycle (e : Fin 24) (n : Nat) (s : State) :
    (setTally e n s).lifecycle = s.lifecycle := rfl
@[simp] theorem setTally_listenTimer (e : Fin 24) (n : Nat) (s : State) :
    (setTally e n s).listenTimer = s.listenTimer := rfl
@[simp] theorem setTally_presenceTimer (e : Fin 24) (n : Nat) (s : State) :
    (setTally e n s).presenceTimer = s.presenceTimer := rfl
@[simp] theorem setTally_roster (e : Fin 24) (n : Nat) (s : State) : (setTally e n s).roster = s.roster := rfl
@[simp] theorem setTally_queue (e : Fin 24) (n : Nat) (s : State) : (setTally e n s).queue = s.queue := rfl
@[simp] theorem setTally_axis (e : Fin 24) (n : Nat) (s : State) : (setTally e n s).axis = s.axis := rfl
@[simp] theorem setTally_command (e : Fin 24) (n : Nat) (s : State) : (setTally e n s).command = s.command := rfl
@[simp] theorem setTally_measured (e : Fin 24) (n : Nat) (s : State) : (setTally e n s).measured = s.measured := rfl
@[simp] theorem setTally_encA (e : Fin 24) (n : Nat) (s : State) : (setTally e n s).encA = s.encA := rfl
@[simp] theorem setTally_encB (e : Fin 24) (n : Nat) (s : State) : (setTally e n s).encB = s.encB := rfl
@[simp] theorem setTally_watches (e : Fin 24) (n : Nat) (s : State) : (setTally e n s).watches = s.watches := rfl
@[simp] theorem setTally_captures (e : Fin 24) (n : Nat) (s : State) : (setTally e n s).captures = s.captures := rfl
@[simp] theorem setTally_reactions (e : Fin 24) (n : Nat) (s : State) :
    (setTally e n s).reactions = s.reactions.set e.val { s.reactions.getD e.val .cleared with tally := n } := rfl
@[simp] theorem setTally_emissions (e : Fin 24) (n : Nat) (s : State) :
    (setTally e n s).emissions = s.emissions := rfl
@[simp] theorem setTally_inputs (e : Fin 24) (n : Nat) (s : State) : (setTally e n s).inputs = s.inputs := rfl
@[simp] theorem setTally_faults (e : Fin 24) (n : Nat) (s : State) : (setTally e n s).faults = s.faults := rfl
@[simp] theorem setTally_ownHalt (e : Fin 24) (n : Nat) (s : State) : (setTally e n s).ownHalt = s.ownHalt := rfl
@[simp] theorem setTally_halts (e : Fin 24) (n : Nat) (s : State) : (setTally e n s).halts = s.halts := rfl
@[simp] theorem setTally_lif (e : Fin 24) (n : Nat) (s : State) : (setTally e n s).lif = s.lif := rfl
@[simp] theorem setTally_outbound (e : Fin 24) (n : Nat) (s : State) : (setTally e n s).outbound = s.outbound := rfl
@[simp] theorem setTally_nextFrame (e : Fin 24) (n : Nat) (s : State) :
    (setTally e n s).nextFrame = s.nextFrame := rfl
@[simp] theorem setTally_score (e : Fin 24) (n : Nat) (s : State) : (setTally e n s).score = s.score := rfl
@[simp] theorem setTally_standing (e : Fin 24) (n : Nat) (s : State) : (setTally e n s).standing = s.standing := rfl
@[simp] theorem setTally_recovery (e : Fin 24) (n : Nat) (s : State) : (setTally e n s).recovery = s.recovery := rfl
@[simp] theorem setTally_posts (e : Fin 24) (n : Nat) (s : State) : (setTally e n s).posts = s.posts := rfl
@[simp] theorem setTally_posted (e : Fin 24) (n : Nat) (s : State) : (setTally e n s).posted = s.posted := rfl
@[simp] theorem setTally_port (e : Fin 24) (n : Nat) (s : State) : (setTally e n s).port = s.port := rfl
@[simp] theorem setTally_notices (e : Fin 24) (n : Nat) (s : State) : (setTally e n s).notices = s.notices := rfl
@[simp] theorem setTally_lost (e : Fin 24) (n : Nat) (s : State) : (setTally e n s).lost = s.lost := rfl
@[simp] theorem setTally_bitPhase (e : Fin 24) (n : Nat) (s : State) : (setTally e n s).bitPhase = s.bitPhase := rfl
@[simp] theorem setTally_closing (e : Fin 24) (n : Nat) (s : State) : (setTally e n s).closing = s.closing := rfl
@[simp] theorem setTally_pending (e : Fin 24) (n : Nat) (s : State) : (setTally e n s).pending = s.pending := rfl
@[simp] theorem setTally_handed (e : Fin 24) (n : Nat) (s : State) : (setTally e n s).handed = s.handed := rfl
@[simp] theorem setTally_free (e : Fin 24) (n : Nat) (s : State) : (setTally e n s).free = s.free := rfl

/-! ### releasePost -/

@[simp] theorem releasePost_config (id : Nat) (s : State) : (releasePost id s).config = s.config := rfl
@[simp] theorem releasePost_station (id : Nat) (s : State) : (releasePost id s).station = s.station := rfl
@[simp] theorem releasePost_bitRate (id : Nat) (s : State) : (releasePost id s).bitRate = s.bitRate := rfl
@[simp] theorem releasePost_lifecycle (id : Nat) (s : State) : (releasePost id s).lifecycle = s.lifecycle := rfl
@[simp] theorem releasePost_listenTimer (id : Nat) (s : State) : (releasePost id s).listenTimer = s.listenTimer := rfl
@[simp] theorem releasePost_presenceTimer (id : Nat) (s : State) :
    (releasePost id s).presenceTimer = s.presenceTimer := rfl
@[simp] theorem releasePost_roster (id : Nat) (s : State) : (releasePost id s).roster = s.roster := rfl
@[simp] theorem releasePost_queue (id : Nat) (s : State) : (releasePost id s).queue = s.queue := rfl
@[simp] theorem releasePost_axis (id : Nat) (s : State) : (releasePost id s).axis = s.axis := rfl
@[simp] theorem releasePost_command (id : Nat) (s : State) : (releasePost id s).command = s.command := rfl
@[simp] theorem releasePost_measured (id : Nat) (s : State) : (releasePost id s).measured = s.measured := rfl
@[simp] theorem releasePost_encA (id : Nat) (s : State) : (releasePost id s).encA = s.encA := rfl
@[simp] theorem releasePost_encB (id : Nat) (s : State) : (releasePost id s).encB = s.encB := rfl
@[simp] theorem releasePost_watches (id : Nat) (s : State) : (releasePost id s).watches = s.watches := rfl
@[simp] theorem releasePost_captures (id : Nat) (s : State) : (releasePost id s).captures = s.captures := rfl
@[simp] theorem releasePost_reactions (id : Nat) (s : State) : (releasePost id s).reactions = s.reactions := rfl
@[simp] theorem releasePost_emissions (id : Nat) (s : State) : (releasePost id s).emissions = s.emissions := rfl
@[simp] theorem releasePost_inputs (id : Nat) (s : State) : (releasePost id s).inputs = s.inputs := rfl
@[simp] theorem releasePost_faults (id : Nat) (s : State) : (releasePost id s).faults = s.faults := rfl
@[simp] theorem releasePost_ownHalt (id : Nat) (s : State) : (releasePost id s).ownHalt = s.ownHalt := rfl
@[simp] theorem releasePost_halts (id : Nat) (s : State) : (releasePost id s).halts = s.halts := rfl
@[simp] theorem releasePost_lif (id : Nat) (s : State) : (releasePost id s).lif = s.lif := rfl
@[simp] theorem releasePost_outbound (id : Nat) (s : State) : (releasePost id s).outbound = s.outbound := rfl
@[simp] theorem releasePost_nextFrame (id : Nat) (s : State) : (releasePost id s).nextFrame = s.nextFrame := rfl
@[simp] theorem releasePost_score (id : Nat) (s : State) : (releasePost id s).score = s.score := rfl
@[simp] theorem releasePost_standing (id : Nat) (s : State) : (releasePost id s).standing = s.standing := rfl
@[simp] theorem releasePost_recovery (id : Nat) (s : State) : (releasePost id s).recovery = s.recovery := rfl
@[simp] theorem releasePost_posts (id : Nat) (s : State) :
    (releasePost id s).posts = s.posts.map fun e => if e.frame = some id then { e with frame := none } else e := rfl
@[simp] theorem releasePost_posted (id : Nat) (s : State) : (releasePost id s).posted = s.posted := rfl
@[simp] theorem releasePost_port (id : Nat) (s : State) : (releasePost id s).port = s.port := rfl
@[simp] theorem releasePost_notices (id : Nat) (s : State) : (releasePost id s).notices = s.notices := rfl
@[simp] theorem releasePost_lost (id : Nat) (s : State) : (releasePost id s).lost = s.lost := rfl
@[simp] theorem releasePost_bitPhase (id : Nat) (s : State) : (releasePost id s).bitPhase = s.bitPhase := rfl
@[simp] theorem releasePost_closing (id : Nat) (s : State) : (releasePost id s).closing = s.closing := rfl
@[simp] theorem releasePost_pending (id : Nat) (s : State) : (releasePost id s).pending = s.pending := rfl
@[simp] theorem releasePost_handed (id : Nat) (s : State) : (releasePost id s).handed = s.handed := rfl
@[simp] theorem releasePost_free (id : Nat) (s : State) : (releasePost id s).free = s.free := rfl

/-! ### noReject -/

@[simp] theorem noReject_config (s : State) : (noReject s).config = s.config := rfl
@[simp] theorem noReject_station (s : State) : (noReject s).station = s.station := rfl
@[simp] theorem noReject_bitRate (s : State) : (noReject s).bitRate = s.bitRate := rfl
@[simp] theorem noReject_lifecycle (s : State) : (noReject s).lifecycle = s.lifecycle := rfl
@[simp] theorem noReject_listenTimer (s : State) : (noReject s).listenTimer = s.listenTimer := rfl
@[simp] theorem noReject_presenceTimer (s : State) : (noReject s).presenceTimer = s.presenceTimer := rfl
@[simp] theorem noReject_roster (s : State) : (noReject s).roster = s.roster := rfl
@[simp] theorem noReject_queue (s : State) : (noReject s).queue = s.queue := rfl
@[simp] theorem noReject_axis (s : State) : (noReject s).axis = s.axis := rfl
@[simp] theorem noReject_command (s : State) : (noReject s).command = s.command := rfl
@[simp] theorem noReject_measured (s : State) : (noReject s).measured = s.measured := rfl
@[simp] theorem noReject_encA (s : State) : (noReject s).encA = s.encA := rfl
@[simp] theorem noReject_encB (s : State) : (noReject s).encB = s.encB := rfl
@[simp] theorem noReject_watches (s : State) : (noReject s).watches = s.watches := rfl
@[simp] theorem noReject_captures (s : State) : (noReject s).captures = s.captures := rfl
@[simp] theorem noReject_reactions (s : State) : (noReject s).reactions = s.reactions := rfl
@[simp] theorem noReject_emissions (s : State) : (noReject s).emissions = s.emissions := rfl
@[simp] theorem noReject_inputs (s : State) : (noReject s).inputs = s.inputs := rfl
@[simp] theorem noReject_faults (s : State) : (noReject s).faults = s.faults := rfl
@[simp] theorem noReject_ownHalt (s : State) : (noReject s).ownHalt = s.ownHalt := rfl
@[simp] theorem noReject_halts (s : State) : (noReject s).halts = s.halts := rfl
@[simp] theorem noReject_lif (s : State) : (noReject s).lif = { s.lif with rejectDriven := false } := rfl
@[simp] theorem noReject_outbound (s : State) : (noReject s).outbound = s.outbound := rfl
@[simp] theorem noReject_nextFrame (s : State) : (noReject s).nextFrame = s.nextFrame := rfl
@[simp] theorem noReject_score (s : State) : (noReject s).score = s.score := rfl
@[simp] theorem noReject_standing (s : State) : (noReject s).standing = s.standing := rfl
@[simp] theorem noReject_recovery (s : State) : (noReject s).recovery = s.recovery := rfl
@[simp] theorem noReject_posts (s : State) : (noReject s).posts = s.posts := rfl
@[simp] theorem noReject_posted (s : State) : (noReject s).posted = s.posted := rfl
@[simp] theorem noReject_port (s : State) : (noReject s).port = s.port := rfl
@[simp] theorem noReject_notices (s : State) : (noReject s).notices = s.notices := rfl
@[simp] theorem noReject_lost (s : State) : (noReject s).lost = s.lost := rfl
@[simp] theorem noReject_bitPhase (s : State) : (noReject s).bitPhase = s.bitPhase := rfl
@[simp] theorem noReject_closing (s : State) : (noReject s).closing = s.closing := rfl
@[simp] theorem noReject_pending (s : State) : (noReject s).pending = s.pending := rfl
@[simp] theorem noReject_handed (s : State) : (noReject s).handed = s.handed := rfl
@[simp] theorem noReject_free (s : State) : (noReject s).free = s.free := rfl

/-! ### watchLater -/

@[simp] theorem watchLater_config (l : List (WatchSource × Position)) (s : State) :
    (watchLater l s).config = s.config := rfl
@[simp] theorem watchLater_station (l : List (WatchSource × Position)) (s : State) :
    (watchLater l s).station = s.station := rfl
@[simp] theorem watchLater_bitRate (l : List (WatchSource × Position)) (s : State) :
    (watchLater l s).bitRate = s.bitRate := rfl
@[simp] theorem watchLater_lifecycle (l : List (WatchSource × Position)) (s : State) :
    (watchLater l s).lifecycle = s.lifecycle := rfl
@[simp] theorem watchLater_listenTimer (l : List (WatchSource × Position)) (s : State) :
    (watchLater l s).listenTimer = s.listenTimer := rfl
@[simp] theorem watchLater_presenceTimer (l : List (WatchSource × Position)) (s : State) :
    (watchLater l s).presenceTimer = s.presenceTimer := rfl
@[simp] theorem watchLater_roster (l : List (WatchSource × Position)) (s : State) :
    (watchLater l s).roster = s.roster := rfl
@[simp] theorem watchLater_queue (l : List (WatchSource × Position)) (s : State) :
    (watchLater l s).queue = s.queue := rfl
@[simp] theorem watchLater_axis (l : List (WatchSource × Position)) (s : State) : (watchLater l s).axis = s.axis := rfl
@[simp] theorem watchLater_command (l : List (WatchSource × Position)) (s : State) :
    (watchLater l s).command = s.command := rfl
@[simp] theorem watchLater_measured (l : List (WatchSource × Position)) (s : State) :
    (watchLater l s).measured = s.measured := rfl
@[simp] theorem watchLater_encA (l : List (WatchSource × Position)) (s : State) : (watchLater l s).encA = s.encA := rfl
@[simp] theorem watchLater_encB (l : List (WatchSource × Position)) (s : State) : (watchLater l s).encB = s.encB := rfl
@[simp] theorem watchLater_watches (l : List (WatchSource × Position)) (s : State) :
    (watchLater l s).watches = s.watches := rfl
@[simp] theorem watchLater_captures (l : List (WatchSource × Position)) (s : State) :
    (watchLater l s).captures = s.captures := rfl
@[simp] theorem watchLater_reactions (l : List (WatchSource × Position)) (s : State) :
    (watchLater l s).reactions = s.reactions := rfl
@[simp] theorem watchLater_emissions (l : List (WatchSource × Position)) (s : State) :
    (watchLater l s).emissions = s.emissions := rfl
@[simp] theorem watchLater_inputs (l : List (WatchSource × Position)) (s : State) :
    (watchLater l s).inputs = s.inputs := rfl
@[simp] theorem watchLater_faults (l : List (WatchSource × Position)) (s : State) :
    (watchLater l s).faults = s.faults := rfl
@[simp] theorem watchLater_ownHalt (l : List (WatchSource × Position)) (s : State) :
    (watchLater l s).ownHalt = s.ownHalt := rfl
@[simp] theorem watchLater_halts (l : List (WatchSource × Position)) (s : State) :
    (watchLater l s).halts = s.halts := rfl
@[simp] theorem watchLater_lif (l : List (WatchSource × Position)) (s : State) : (watchLater l s).lif = s.lif := rfl
@[simp] theorem watchLater_outbound (l : List (WatchSource × Position)) (s : State) :
    (watchLater l s).outbound = s.outbound := rfl
@[simp] theorem watchLater_nextFrame (l : List (WatchSource × Position)) (s : State) :
    (watchLater l s).nextFrame = s.nextFrame := rfl
@[simp] theorem watchLater_score (l : List (WatchSource × Position)) (s : State) :
    (watchLater l s).score = s.score := rfl
@[simp] theorem watchLater_standing (l : List (WatchSource × Position)) (s : State) :
    (watchLater l s).standing = s.standing := rfl
@[simp] theorem watchLater_recovery (l : List (WatchSource × Position)) (s : State) :
    (watchLater l s).recovery = s.recovery := rfl
@[simp] theorem watchLater_posts (l : List (WatchSource × Position)) (s : State) :
    (watchLater l s).posts = s.posts := rfl
@[simp] theorem watchLater_posted (l : List (WatchSource × Position)) (s : State) :
    (watchLater l s).posted = s.posted := rfl
@[simp] theorem watchLater_port (l : List (WatchSource × Position)) (s : State) : (watchLater l s).port = s.port := rfl
@[simp] theorem watchLater_notices (l : List (WatchSource × Position)) (s : State) :
    (watchLater l s).notices = s.notices := rfl
@[simp] theorem watchLater_lost (l : List (WatchSource × Position)) (s : State) : (watchLater l s).lost = s.lost := rfl
@[simp] theorem watchLater_bitPhase (l : List (WatchSource × Position)) (s : State) :
    (watchLater l s).bitPhase = s.bitPhase := rfl
@[simp] theorem watchLater_closing (l : List (WatchSource × Position)) (s : State) :
    (watchLater l s).closing = s.closing := rfl
@[simp] theorem watchLater_pending (l : List (WatchSource × Position)) (s : State) :
    (watchLater l s).pending = s.pending := rfl
@[simp] theorem watchLater_handed (l : List (WatchSource × Position)) (s : State) :
    (watchLater l s).handed = { s.handed with values := s.handed.values ++ l } := rfl
@[simp] theorem watchLater_free (l : List (WatchSource × Position)) (s : State) : (watchLater l s).free = s.free := rfl

/-! ### setCommand -/

@[simp] theorem setCommand_config (p : Position) (s : State) : (setCommand p s).config = s.config := rfl
@[simp] theorem setCommand_station (p : Position) (s : State) : (setCommand p s).station = s.station := rfl
@[simp] theorem setCommand_bitRate (p : Position) (s : State) : (setCommand p s).bitRate = s.bitRate := rfl
@[simp] theorem setCommand_lifecycle (p : Position) (s : State) : (setCommand p s).lifecycle = s.lifecycle := rfl
@[simp] theorem setCommand_listenTimer (p : Position) (s : State) :
    (setCommand p s).listenTimer = s.listenTimer := rfl
@[simp] theorem setCommand_presenceTimer (p : Position) (s : State) :
    (setCommand p s).presenceTimer = s.presenceTimer := rfl
@[simp] theorem setCommand_roster (p : Position) (s : State) : (setCommand p s).roster = s.roster := rfl
@[simp] theorem setCommand_queue (p : Position) (s : State) : (setCommand p s).queue = s.queue := rfl
@[simp] theorem setCommand_axis (p : Position) (s : State) : (setCommand p s).axis = s.axis := rfl
@[simp] theorem setCommand_command (p : Position) (s : State) : (setCommand p s).command = p := rfl
@[simp] theorem setCommand_measured (p : Position) (s : State) :
    (setCommand p s).measured = if s.config.encoder = .off then p else s.measured := rfl
@[simp] theorem setCommand_encA (p : Position) (s : State) : (setCommand p s).encA = s.encA := rfl
@[simp] theorem setCommand_encB (p : Position) (s : State) : (setCommand p s).encB = s.encB := rfl
@[simp] theorem setCommand_watches (p : Position) (s : State) : (setCommand p s).watches = s.watches := rfl
@[simp] theorem setCommand_captures (p : Position) (s : State) : (setCommand p s).captures = s.captures := rfl
@[simp] theorem setCommand_reactions (p : Position) (s : State) : (setCommand p s).reactions = s.reactions := rfl
@[simp] theorem setCommand_emissions (p : Position) (s : State) : (setCommand p s).emissions = s.emissions := rfl
@[simp] theorem setCommand_inputs (p : Position) (s : State) : (setCommand p s).inputs = s.inputs := rfl
@[simp] theorem setCommand_faults (p : Position) (s : State) : (setCommand p s).faults = s.faults := rfl
@[simp] theorem setCommand_ownHalt (p : Position) (s : State) : (setCommand p s).ownHalt = s.ownHalt := rfl
@[simp] theorem setCommand_halts (p : Position) (s : State) : (setCommand p s).halts = s.halts := rfl
@[simp] theorem setCommand_lif (p : Position) (s : State) : (setCommand p s).lif = s.lif := rfl
@[simp] theorem setCommand_outbound (p : Position) (s : State) : (setCommand p s).outbound = s.outbound := rfl
@[simp] theorem setCommand_nextFrame (p : Position) (s : State) : (setCommand p s).nextFrame = s.nextFrame := rfl
@[simp] theorem setCommand_score (p : Position) (s : State) : (setCommand p s).score = s.score := rfl
@[simp] theorem setCommand_standing (p : Position) (s : State) : (setCommand p s).standing = s.standing := rfl
@[simp] theorem setCommand_recovery (p : Position) (s : State) : (setCommand p s).recovery = s.recovery := rfl
@[simp] theorem setCommand_posts (p : Position) (s : State) : (setCommand p s).posts = s.posts := rfl
@[simp] theorem setCommand_posted (p : Position) (s : State) : (setCommand p s).posted = s.posted := rfl
@[simp] theorem setCommand_port (p : Position) (s : State) : (setCommand p s).port = s.port := rfl
@[simp] theorem setCommand_notices (p : Position) (s : State) : (setCommand p s).notices = s.notices := rfl
@[simp] theorem setCommand_lost (p : Position) (s : State) : (setCommand p s).lost = s.lost := rfl
@[simp] theorem setCommand_bitPhase (p : Position) (s : State) : (setCommand p s).bitPhase = s.bitPhase := rfl
@[simp] theorem setCommand_closing (p : Position) (s : State) : (setCommand p s).closing = s.closing := rfl
@[simp] theorem setCommand_pending (p : Position) (s : State) : (setCommand p s).pending = s.pending := rfl
@[simp] theorem setCommand_handed (p : Position) (s : State) : (setCommand p s).handed = s.handed := rfl
@[simp] theorem setCommand_free (p : Position) (s : State) : (setCommand p s).free = s.free := rfl

/-! ### setPeer -/

@[simp] theorem setPeer_config (n : Station) (e : RosterEntry) (s : State) : (setPeer n e s).config = s.config := rfl
@[simp] theorem setPeer_station (n : Station) (e : RosterEntry) (s : State) :
    (setPeer n e s).station = s.station := rfl
@[simp] theorem setPeer_bitRate (n : Station) (e : RosterEntry) (s : State) :
    (setPeer n e s).bitRate = s.bitRate := rfl
@[simp] theorem setPeer_lifecycle (n : Station) (e : RosterEntry) (s : State) :
    (setPeer n e s).lifecycle = s.lifecycle := rfl
@[simp] theorem setPeer_listenTimer (n : Station) (e : RosterEntry) (s : State) :
    (setPeer n e s).listenTimer = s.listenTimer := rfl
@[simp] theorem setPeer_presenceTimer (n : Station) (e : RosterEntry) (s : State) :
    (setPeer n e s).presenceTimer = s.presenceTimer := rfl
@[simp] theorem setPeer_roster (n : Station) (e : RosterEntry) (s : State) :
    (setPeer n e s).roster = s.roster.set n.val e := rfl
@[simp] theorem setPeer_queue (n : Station) (e : RosterEntry) (s : State) : (setPeer n e s).queue = s.queue := rfl
@[simp] theorem setPeer_axis (n : Station) (e : RosterEntry) (s : State) : (setPeer n e s).axis = s.axis := rfl
@[simp] theorem setPeer_command (n : Station) (e : RosterEntry) (s : State) :
    (setPeer n e s).command = s.command := rfl
@[simp] theorem setPeer_measured (n : Station) (e : RosterEntry) (s : State) :
    (setPeer n e s).measured = s.measured := rfl
@[simp] theorem setPeer_encA (n : Station) (e : RosterEntry) (s : State) : (setPeer n e s).encA = s.encA := rfl
@[simp] theorem setPeer_encB (n : Station) (e : RosterEntry) (s : State) : (setPeer n e s).encB = s.encB := rfl
@[simp] theorem setPeer_watches (n : Station) (e : RosterEntry) (s : State) :
    (setPeer n e s).watches = s.watches := rfl
@[simp] theorem setPeer_captures (n : Station) (e : RosterEntry) (s : State) :
    (setPeer n e s).captures = s.captures := rfl
@[simp] theorem setPeer_reactions (n : Station) (e : RosterEntry) (s : State) :
    (setPeer n e s).reactions = s.reactions := rfl
@[simp] theorem setPeer_emissions (n : Station) (e : RosterEntry) (s : State) :
    (setPeer n e s).emissions = s.emissions := rfl
@[simp] theorem setPeer_inputs (n : Station) (e : RosterEntry) (s : State) : (setPeer n e s).inputs = s.inputs := rfl
@[simp] theorem setPeer_faults (n : Station) (e : RosterEntry) (s : State) : (setPeer n e s).faults = s.faults := rfl
@[simp] theorem setPeer_ownHalt (n : Station) (e : RosterEntry) (s : State) :
    (setPeer n e s).ownHalt = s.ownHalt := rfl
@[simp] theorem setPeer_halts (n : Station) (e : RosterEntry) (s : State) : (setPeer n e s).halts = s.halts := rfl
@[simp] theorem setPeer_lif (n : Station) (e : RosterEntry) (s : State) : (setPeer n e s).lif = s.lif := rfl
@[simp] theorem setPeer_outbound (n : Station) (e : RosterEntry) (s : State) :
    (setPeer n e s).outbound = s.outbound := rfl
@[simp] theorem setPeer_nextFrame (n : Station) (e : RosterEntry) (s : State) :
    (setPeer n e s).nextFrame = s.nextFrame := rfl
@[simp] theorem setPeer_score (n : Station) (e : RosterEntry) (s : State) : (setPeer n e s).score = s.score := rfl
@[simp] theorem setPeer_standing (n : Station) (e : RosterEntry) (s : State) :
    (setPeer n e s).standing = s.standing := rfl
@[simp] theorem setPeer_recovery (n : Station) (e : RosterEntry) (s : State) :
    (setPeer n e s).recovery = s.recovery := rfl
@[simp] theorem setPeer_posts (n : Station) (e : RosterEntry) (s : State) : (setPeer n e s).posts = s.posts := rfl
@[simp] theorem setPeer_posted (n : Station) (e : RosterEntry) (s : State) :
    (setPeer n e s).posted = s.posted := rfl
@[simp] theorem setPeer_port (n : Station) (e : RosterEntry) (s : State) : (setPeer n e s).port = s.port := rfl
@[simp] theorem setPeer_notices (n : Station) (e : RosterEntry) (s : State) :
    (setPeer n e s).notices = s.notices := rfl
@[simp] theorem setPeer_lost (n : Station) (e : RosterEntry) (s : State) : (setPeer n e s).lost = s.lost := rfl
@[simp] theorem setPeer_bitPhase (n : Station) (e : RosterEntry) (s : State) :
    (setPeer n e s).bitPhase = s.bitPhase := rfl
@[simp] theorem setPeer_closing (n : Station) (e : RosterEntry) (s : State) :
    (setPeer n e s).closing = s.closing := rfl
@[simp] theorem setPeer_pending (n : Station) (e : RosterEntry) (s : State) :
    (setPeer n e s).pending = s.pending := rfl
@[simp] theorem setPeer_handed (n : Station) (e : RosterEntry) (s : State) : (setPeer n e s).handed = s.handed := rfl
@[simp] theorem setPeer_free (n : Station) (e : RosterEntry) (s : State) : (setPeer n e s).free = s.free := rfl

/-! ### closePost -/

@[simp] theorem closePost_config (n : Station) (q : Seq) (s : State) : (closePost n q s).config = s.config := rfl
@[simp] theorem closePost_station (n : Station) (q : Seq) (s : State) : (closePost n q s).station = s.station := rfl
@[simp] theorem closePost_bitRate (n : Station) (q : Seq) (s : State) : (closePost n q s).bitRate = s.bitRate := rfl
@[simp] theorem closePost_lifecycle (n : Station) (q : Seq) (s : State) :
    (closePost n q s).lifecycle = s.lifecycle := rfl
@[simp] theorem closePost_listenTimer (n : Station) (q : Seq) (s : State) :
    (closePost n q s).listenTimer = s.listenTimer := rfl
@[simp] theorem closePost_presenceTimer (n : Station) (q : Seq) (s : State) :
    (closePost n q s).presenceTimer = s.presenceTimer := rfl
@[simp] theorem closePost_roster (n : Station) (q : Seq) (s : State) : (closePost n q s).roster = s.roster := rfl
@[simp] theorem closePost_queue (n : Station) (q : Seq) (s : State) : (closePost n q s).queue = s.queue := rfl
@[simp] theorem closePost_axis (n : Station) (q : Seq) (s : State) : (closePost n q s).axis = s.axis := rfl
@[simp] theorem closePost_command (n : Station) (q : Seq) (s : State) : (closePost n q s).command = s.command := rfl
@[simp] theorem closePost_measured (n : Station) (q : Seq) (s : State) :
    (closePost n q s).measured = s.measured := rfl
@[simp] theorem closePost_encA (n : Station) (q : Seq) (s : State) : (closePost n q s).encA = s.encA := rfl
@[simp] theorem closePost_encB (n : Station) (q : Seq) (s : State) : (closePost n q s).encB = s.encB := rfl
@[simp] theorem closePost_watches (n : Station) (q : Seq) (s : State) : (closePost n q s).watches = s.watches := rfl
@[simp] theorem closePost_captures (n : Station) (q : Seq) (s : State) :
    (closePost n q s).captures = s.captures := rfl
@[simp] theorem closePost_reactions (n : Station) (q : Seq) (s : State) :
    (closePost n q s).reactions = s.reactions := rfl
@[simp] theorem closePost_emissions (n : Station) (q : Seq) (s : State) :
    (closePost n q s).emissions = s.emissions := rfl
@[simp] theorem closePost_inputs (n : Station) (q : Seq) (s : State) : (closePost n q s).inputs = s.inputs := rfl
@[simp] theorem closePost_faults (n : Station) (q : Seq) (s : State) : (closePost n q s).faults = s.faults := rfl
@[simp] theorem closePost_ownHalt (n : Station) (q : Seq) (s : State) : (closePost n q s).ownHalt = s.ownHalt := rfl
@[simp] theorem closePost_halts (n : Station) (q : Seq) (s : State) : (closePost n q s).halts = s.halts := rfl
@[simp] theorem closePost_lif (n : Station) (q : Seq) (s : State) : (closePost n q s).lif = s.lif := rfl
@[simp] theorem closePost_outbound (n : Station) (q : Seq) (s : State) :
    (closePost n q s).outbound = s.outbound := rfl
@[simp] theorem closePost_nextFrame (n : Station) (q : Seq) (s : State) :
    (closePost n q s).nextFrame = s.nextFrame := rfl
@[simp] theorem closePost_score (n : Station) (q : Seq) (s : State) : (closePost n q s).score = s.score := rfl
@[simp] theorem closePost_standing (n : Station) (q : Seq) (s : State) :
    (closePost n q s).standing = s.standing := rfl
@[simp] theorem closePost_recovery (n : Station) (q : Seq) (s : State) :
    (closePost n q s).recovery = s.recovery := rfl
@[simp] theorem closePost_posts (n : Station) (q : Seq) (s : State) :
    (closePost n q s).posts = s.posts.filter fun e => !e.isFor n q := rfl
@[simp] theorem closePost_posted (n : Station) (q : Seq) (s : State) :
    (closePost n q s).posted = s.posted := rfl
@[simp] theorem closePost_port (n : Station) (q : Seq) (s : State) : (closePost n q s).port = s.port := rfl
@[simp] theorem closePost_notices (n : Station) (q : Seq) (s : State) : (closePost n q s).notices = s.notices := rfl
@[simp] theorem closePost_lost (n : Station) (q : Seq) (s : State) : (closePost n q s).lost = s.lost := rfl
@[simp] theorem closePost_bitPhase (n : Station) (q : Seq) (s : State) :
    (closePost n q s).bitPhase = s.bitPhase := rfl
@[simp] theorem closePost_closing (n : Station) (q : Seq) (s : State) :
    (closePost n q s).closing = s.closing := rfl
@[simp] theorem closePost_pending (n : Station) (q : Seq) (s : State) : (closePost n q s).pending = s.pending := rfl
@[simp] theorem closePost_handed (n : Station) (q : Seq) (s : State) : (closePost n q s).handed = s.handed := rfl
@[simp] theorem closePost_free (n : Station) (q : Seq) (s : State) : (closePost n q s).free = s.free := rfl

/-! ### noteFrame -/

@[simp] theorem noteFrame_config (f : RxFrame) (s : State) : (noteFrame f s).config = s.config := rfl
@[simp] theorem noteFrame_station (f : RxFrame) (s : State) : (noteFrame f s).station = s.station := rfl
@[simp] theorem noteFrame_bitRate (f : RxFrame) (s : State) : (noteFrame f s).bitRate = s.bitRate := rfl
@[simp] theorem noteFrame_lifecycle (f : RxFrame) (s : State) : (noteFrame f s).lifecycle = s.lifecycle := rfl
@[simp] theorem noteFrame_listenTimer (f : RxFrame) (s : State) : (noteFrame f s).listenTimer = s.listenTimer := rfl
@[simp] theorem noteFrame_presenceTimer (f : RxFrame) (s : State) :
    (noteFrame f s).presenceTimer = s.presenceTimer := rfl
@[simp] theorem noteFrame_roster (f : RxFrame) (s : State) : (noteFrame f s).roster = s.roster := rfl
@[simp] theorem noteFrame_queue (f : RxFrame) (s : State) : (noteFrame f s).queue = s.queue := rfl
@[simp] theorem noteFrame_axis (f : RxFrame) (s : State) : (noteFrame f s).axis = s.axis := rfl
@[simp] theorem noteFrame_command (f : RxFrame) (s : State) : (noteFrame f s).command = s.command := rfl
@[simp] theorem noteFrame_measured (f : RxFrame) (s : State) : (noteFrame f s).measured = s.measured := rfl
@[simp] theorem noteFrame_encA (f : RxFrame) (s : State) : (noteFrame f s).encA = s.encA := rfl
@[simp] theorem noteFrame_encB (f : RxFrame) (s : State) : (noteFrame f s).encB = s.encB := rfl
@[simp] theorem noteFrame_watches (f : RxFrame) (s : State) : (noteFrame f s).watches = s.watches := rfl
@[simp] theorem noteFrame_captures (f : RxFrame) (s : State) : (noteFrame f s).captures = s.captures := rfl
@[simp] theorem noteFrame_reactions (f : RxFrame) (s : State) : (noteFrame f s).reactions = s.reactions := rfl
@[simp] theorem noteFrame_emissions (f : RxFrame) (s : State) : (noteFrame f s).emissions = s.emissions := rfl
@[simp] theorem noteFrame_inputs (f : RxFrame) (s : State) : (noteFrame f s).inputs = s.inputs := rfl
@[simp] theorem noteFrame_faults (f : RxFrame) (s : State) : (noteFrame f s).faults = s.faults := rfl
@[simp] theorem noteFrame_ownHalt (f : RxFrame) (s : State) : (noteFrame f s).ownHalt = s.ownHalt := rfl
@[simp] theorem noteFrame_halts (f : RxFrame) (s : State) : (noteFrame f s).halts = s.halts := rfl
@[simp] theorem noteFrame_outbound (f : RxFrame) (s : State) : (noteFrame f s).outbound = s.outbound := rfl
@[simp] theorem noteFrame_nextFrame (f : RxFrame) (s : State) : (noteFrame f s).nextFrame = s.nextFrame := rfl
@[simp] theorem noteFrame_score (f : RxFrame) (s : State) : (noteFrame f s).score = s.score := rfl
@[simp] theorem noteFrame_standing (f : RxFrame) (s : State) : (noteFrame f s).standing = s.standing := rfl
@[simp] theorem noteFrame_recovery (f : RxFrame) (s : State) : (noteFrame f s).recovery = s.recovery := rfl
@[simp] theorem noteFrame_posts (f : RxFrame) (s : State) : (noteFrame f s).posts = s.posts := rfl
@[simp] theorem noteFrame_posted (f : RxFrame) (s : State) : (noteFrame f s).posted = s.posted := rfl
@[simp] theorem noteFrame_port (f : RxFrame) (s : State) : (noteFrame f s).port = s.port := rfl
@[simp] theorem noteFrame_notices (f : RxFrame) (s : State) : (noteFrame f s).notices = s.notices := rfl
@[simp] theorem noteFrame_lost (f : RxFrame) (s : State) : (noteFrame f s).lost = s.lost := rfl
@[simp] theorem noteFrame_bitPhase (f : RxFrame) (s : State) : (noteFrame f s).bitPhase = s.bitPhase := rfl
@[simp] theorem noteFrame_closing (f : RxFrame) (s : State) : (noteFrame f s).closing = s.closing := rfl
@[simp] theorem noteFrame_pending (f : RxFrame) (s : State) : (noteFrame f s).pending = s.pending := rfl
@[simp] theorem noteFrame_handed (f : RxFrame) (s : State) : (noteFrame f s).handed = s.handed := rfl
@[simp] theorem noteFrame_free (f : RxFrame) (s : State) : (noteFrame f s).free = s.free := rfl

/-! ### setReactionAt -/

@[simp] theorem setReactionAt_config (e : Fin 24) (r : Reaction) (s : State) :
    (setReactionAt e r s).config = s.config := rfl
@[simp] theorem setReactionAt_station (e : Fin 24) (r : Reaction) (s : State) :
    (setReactionAt e r s).station = s.station := rfl
@[simp] theorem setReactionAt_bitRate (e : Fin 24) (r : Reaction) (s : State) :
    (setReactionAt e r s).bitRate = s.bitRate := rfl
@[simp] theorem setReactionAt_lifecycle (e : Fin 24) (r : Reaction) (s : State) :
    (setReactionAt e r s).lifecycle = s.lifecycle := rfl
@[simp] theorem setReactionAt_listenTimer (e : Fin 24) (r : Reaction) (s : State) :
    (setReactionAt e r s).listenTimer = s.listenTimer := rfl
@[simp] theorem setReactionAt_presenceTimer (e : Fin 24) (r : Reaction) (s : State) :
    (setReactionAt e r s).presenceTimer = s.presenceTimer := rfl
@[simp] theorem setReactionAt_roster (e : Fin 24) (r : Reaction) (s : State) :
    (setReactionAt e r s).roster = s.roster := rfl
@[simp] theorem setReactionAt_queue (e : Fin 24) (r : Reaction) (s : State) :
    (setReactionAt e r s).queue = s.queue := rfl
@[simp] theorem setReactionAt_axis (e : Fin 24) (r : Reaction) (s : State) :
    (setReactionAt e r s).axis = s.axis := rfl
@[simp] theorem setReactionAt_command (e : Fin 24) (r : Reaction) (s : State) :
    (setReactionAt e r s).command = s.command := rfl
@[simp] theorem setReactionAt_measured (e : Fin 24) (r : Reaction) (s : State) :
    (setReactionAt e r s).measured = s.measured := rfl
@[simp] theorem setReactionAt_encA (e : Fin 24) (r : Reaction) (s : State) :
    (setReactionAt e r s).encA = s.encA := rfl
@[simp] theorem setReactionAt_encB (e : Fin 24) (r : Reaction) (s : State) :
    (setReactionAt e r s).encB = s.encB := rfl
@[simp] theorem setReactionAt_watches (e : Fin 24) (r : Reaction) (s : State) :
    (setReactionAt e r s).watches = s.watches := rfl
@[simp] theorem setReactionAt_captures (e : Fin 24) (r : Reaction) (s : State) :
    (setReactionAt e r s).captures = s.captures := rfl
@[simp] theorem setReactionAt_reactions (e : Fin 24) (r : Reaction) (s : State) :
    (setReactionAt e r s).reactions = s.reactions.set e.val r := rfl
@[simp] theorem setReactionAt_emissions (e : Fin 24) (r : Reaction) (s : State) :
    (setReactionAt e r s).emissions = s.emissions := rfl
@[simp] theorem setReactionAt_inputs (e : Fin 24) (r : Reaction) (s : State) :
    (setReactionAt e r s).inputs = s.inputs := rfl
@[simp] theorem setReactionAt_faults (e : Fin 24) (r : Reaction) (s : State) :
    (setReactionAt e r s).faults = s.faults := rfl
@[simp] theorem setReactionAt_ownHalt (e : Fin 24) (r : Reaction) (s : State) :
    (setReactionAt e r s).ownHalt = s.ownHalt := rfl
@[simp] theorem setReactionAt_halts (e : Fin 24) (r : Reaction) (s : State) :
    (setReactionAt e r s).halts = s.halts := rfl
@[simp] theorem setReactionAt_lif (e : Fin 24) (r : Reaction) (s : State) : (setReactionAt e r s).lif = s.lif := rfl
@[simp] theorem setReactionAt_outbound (e : Fin 24) (r : Reaction) (s : State) :
    (setReactionAt e r s).outbound = s.outbound := rfl
@[simp] theorem setReactionAt_nextFrame (e : Fin 24) (r : Reaction) (s : State) :
    (setReactionAt e r s).nextFrame = s.nextFrame := rfl
@[simp] theorem setReactionAt_score (e : Fin 24) (r : Reaction) (s : State) :
    (setReactionAt e r s).score = s.score := rfl
@[simp] theorem setReactionAt_standing (e : Fin 24) (r : Reaction) (s : State) :
    (setReactionAt e r s).standing = s.standing := rfl
@[simp] theorem setReactionAt_recovery (e : Fin 24) (r : Reaction) (s : State) :
    (setReactionAt e r s).recovery = s.recovery := rfl
@[simp] theorem setReactionAt_posts (e : Fin 24) (r : Reaction) (s : State) :
    (setReactionAt e r s).posts = s.posts := rfl
@[simp] theorem setReactionAt_posted (e : Fin 24) (r : Reaction) (s : State) :
    (setReactionAt e r s).posted = s.posted := rfl
@[simp] theorem setReactionAt_port (e : Fin 24) (r : Reaction) (s : State) :
    (setReactionAt e r s).port = s.port := rfl
@[simp] theorem setReactionAt_notices (e : Fin 24) (r : Reaction) (s : State) :
    (setReactionAt e r s).notices = s.notices := rfl
@[simp] theorem setReactionAt_lost (e : Fin 24) (r : Reaction) (s : State) :
    (setReactionAt e r s).lost = s.lost := rfl
@[simp] theorem setReactionAt_bitPhase (e : Fin 24) (r : Reaction) (s : State) :
    (setReactionAt e r s).bitPhase = s.bitPhase := rfl
@[simp] theorem setReactionAt_closing (e : Fin 24) (r : Reaction) (s : State) :
    (setReactionAt e r s).closing = s.closing := rfl
@[simp] theorem setReactionAt_pending (e : Fin 24) (r : Reaction) (s : State) :
    (setReactionAt e r s).pending = s.pending := rfl
@[simp] theorem setReactionAt_handed (e : Fin 24) (r : Reaction) (s : State) :
    (setReactionAt e r s).handed = s.handed := rfl
@[simp] theorem setReactionAt_free (e : Fin 24) (r : Reaction) (s : State) :
    (setReactionAt e r s).free = s.free := rfl

/-! ### zeroTallies -/

@[simp] theorem zeroTallies_config (s : State) : (zeroTallies s).config = s.config := rfl
@[simp] theorem zeroTallies_station (s : State) : (zeroTallies s).station = s.station := rfl
@[simp] theorem zeroTallies_bitRate (s : State) : (zeroTallies s).bitRate = s.bitRate := rfl
@[simp] theorem zeroTallies_lifecycle (s : State) : (zeroTallies s).lifecycle = s.lifecycle := rfl
@[simp] theorem zeroTallies_listenTimer (s : State) : (zeroTallies s).listenTimer = s.listenTimer := rfl
@[simp] theorem zeroTallies_presenceTimer (s : State) : (zeroTallies s).presenceTimer = s.presenceTimer := rfl
@[simp] theorem zeroTallies_roster (s : State) : (zeroTallies s).roster = s.roster := rfl
@[simp] theorem zeroTallies_queue (s : State) : (zeroTallies s).queue = s.queue := rfl
@[simp] theorem zeroTallies_axis (s : State) : (zeroTallies s).axis = s.axis := rfl
@[simp] theorem zeroTallies_command (s : State) : (zeroTallies s).command = s.command := rfl
@[simp] theorem zeroTallies_measured (s : State) : (zeroTallies s).measured = s.measured := rfl
@[simp] theorem zeroTallies_encA (s : State) : (zeroTallies s).encA = s.encA := rfl
@[simp] theorem zeroTallies_encB (s : State) : (zeroTallies s).encB = s.encB := rfl
@[simp] theorem zeroTallies_watches (s : State) : (zeroTallies s).watches = s.watches := rfl
@[simp] theorem zeroTallies_captures (s : State) : (zeroTallies s).captures = s.captures := rfl
@[simp] theorem zeroTallies_reactions (s : State) :
    (zeroTallies s).reactions = s.reactions.map fun r => { r with tally := 0, overflow := false } := rfl
@[simp] theorem zeroTallies_emissions (s : State) : (zeroTallies s).emissions = s.emissions := rfl
@[simp] theorem zeroTallies_inputs (s : State) : (zeroTallies s).inputs = s.inputs := rfl
@[simp] theorem zeroTallies_faults (s : State) : (zeroTallies s).faults = s.faults := rfl
@[simp] theorem zeroTallies_ownHalt (s : State) : (zeroTallies s).ownHalt = s.ownHalt := rfl
@[simp] theorem zeroTallies_halts (s : State) : (zeroTallies s).halts = s.halts := rfl
@[simp] theorem zeroTallies_lif (s : State) : (zeroTallies s).lif = s.lif := rfl
@[simp] theorem zeroTallies_outbound (s : State) : (zeroTallies s).outbound = s.outbound := rfl
@[simp] theorem zeroTallies_nextFrame (s : State) : (zeroTallies s).nextFrame = s.nextFrame := rfl
@[simp] theorem zeroTallies_score (s : State) : (zeroTallies s).score = s.score := rfl
@[simp] theorem zeroTallies_standing (s : State) : (zeroTallies s).standing = s.standing := rfl
@[simp] theorem zeroTallies_recovery (s : State) : (zeroTallies s).recovery = s.recovery := rfl
@[simp] theorem zeroTallies_posts (s : State) : (zeroTallies s).posts = s.posts := rfl
@[simp] theorem zeroTallies_posted (s : State) : (zeroTallies s).posted = s.posted := rfl
@[simp] theorem zeroTallies_port (s : State) : (zeroTallies s).port = s.port := rfl
@[simp] theorem zeroTallies_notices (s : State) : (zeroTallies s).notices = s.notices := rfl
@[simp] theorem zeroTallies_lost (s : State) : (zeroTallies s).lost = s.lost := rfl
@[simp] theorem zeroTallies_bitPhase (s : State) : (zeroTallies s).bitPhase = s.bitPhase := rfl
@[simp] theorem zeroTallies_closing (s : State) : (zeroTallies s).closing = s.closing := rfl
@[simp] theorem zeroTallies_pending (s : State) : (zeroTallies s).pending = s.pending := rfl
@[simp] theorem zeroTallies_handed (s : State) : (zeroTallies s).handed = s.handed := rfl
@[simp] theorem zeroTallies_free (s : State) : (zeroTallies s).free = s.free := rfl

/-! ### clearHaltTable -/

@[simp] theorem clearHaltTable_config (s : State) : (clearHaltTable s).config = s.config := rfl
@[simp] theorem clearHaltTable_station (s : State) : (clearHaltTable s).station = s.station := rfl
@[simp] theorem clearHaltTable_bitRate (s : State) : (clearHaltTable s).bitRate = s.bitRate := rfl
@[simp] theorem clearHaltTable_lifecycle (s : State) : (clearHaltTable s).lifecycle = s.lifecycle := rfl
@[simp] theorem clearHaltTable_listenTimer (s : State) : (clearHaltTable s).listenTimer = s.listenTimer := rfl
@[simp] theorem clearHaltTable_presenceTimer (s : State) : (clearHaltTable s).presenceTimer = s.presenceTimer := rfl
@[simp] theorem clearHaltTable_roster (s : State) : (clearHaltTable s).roster = s.roster := rfl
@[simp] theorem clearHaltTable_queue (s : State) : (clearHaltTable s).queue = s.queue := rfl
@[simp] theorem clearHaltTable_axis (s : State) : (clearHaltTable s).axis = s.axis := rfl
@[simp] theorem clearHaltTable_command (s : State) : (clearHaltTable s).command = s.command := rfl
@[simp] theorem clearHaltTable_measured (s : State) : (clearHaltTable s).measured = s.measured := rfl
@[simp] theorem clearHaltTable_encA (s : State) : (clearHaltTable s).encA = s.encA := rfl
@[simp] theorem clearHaltTable_encB (s : State) : (clearHaltTable s).encB = s.encB := rfl
@[simp] theorem clearHaltTable_watches (s : State) : (clearHaltTable s).watches = s.watches := rfl
@[simp] theorem clearHaltTable_captures (s : State) : (clearHaltTable s).captures = s.captures := rfl
@[simp] theorem clearHaltTable_reactions (s : State) : (clearHaltTable s).reactions = s.reactions := rfl
@[simp] theorem clearHaltTable_emissions (s : State) : (clearHaltTable s).emissions = s.emissions := rfl
@[simp] theorem clearHaltTable_inputs (s : State) : (clearHaltTable s).inputs = s.inputs := rfl
@[simp] theorem clearHaltTable_faults (s : State) : (clearHaltTable s).faults = s.faults := rfl
@[simp] theorem clearHaltTable_ownHalt (s : State) : (clearHaltTable s).ownHalt = .clear := rfl
@[simp] theorem clearHaltTable_halts (s : State) : (clearHaltTable s).halts = List.replicate 32 none := rfl
@[simp] theorem clearHaltTable_lif (s : State) : (clearHaltTable s).lif = s.lif := rfl
@[simp] theorem clearHaltTable_outbound (s : State) : (clearHaltTable s).outbound = s.outbound := rfl
@[simp] theorem clearHaltTable_nextFrame (s : State) : (clearHaltTable s).nextFrame = s.nextFrame := rfl
@[simp] theorem clearHaltTable_score (s : State) : (clearHaltTable s).score = s.score := rfl
@[simp] theorem clearHaltTable_standing (s : State) : (clearHaltTable s).standing = s.standing := rfl
@[simp] theorem clearHaltTable_recovery (s : State) : (clearHaltTable s).recovery = s.recovery := rfl
@[simp] theorem clearHaltTable_posts (s : State) : (clearHaltTable s).posts = s.posts := rfl
@[simp] theorem clearHaltTable_posted (s : State) : (clearHaltTable s).posted = s.posted := rfl
@[simp] theorem clearHaltTable_port (s : State) : (clearHaltTable s).port = s.port := rfl
@[simp] theorem clearHaltTable_notices (s : State) : (clearHaltTable s).notices = s.notices := rfl
@[simp] theorem clearHaltTable_lost (s : State) : (clearHaltTable s).lost = s.lost := rfl
@[simp] theorem clearHaltTable_bitPhase (s : State) : (clearHaltTable s).bitPhase = s.bitPhase := rfl
@[simp] theorem clearHaltTable_closing (s : State) : (clearHaltTable s).closing = s.closing := rfl
@[simp] theorem clearHaltTable_pending (s : State) : (clearHaltTable s).pending = s.pending := rfl
@[simp] theorem clearHaltTable_handed (s : State) : (clearHaltTable s).handed = s.handed := rfl
@[simp] theorem clearHaltTable_free (s : State) : (clearHaltTable s).free = s.free := rfl

/-! ### clearRoster -/

@[simp] theorem clearRoster_config (s : State) : (clearRoster s).config = s.config := rfl
@[simp] theorem clearRoster_station (s : State) : (clearRoster s).station = s.station := rfl
@[simp] theorem clearRoster_bitRate (s : State) : (clearRoster s).bitRate = s.bitRate := rfl
@[simp] theorem clearRoster_lifecycle (s : State) : (clearRoster s).lifecycle = s.lifecycle := rfl
@[simp] theorem clearRoster_listenTimer (s : State) : (clearRoster s).listenTimer = s.listenTimer := rfl
@[simp] theorem clearRoster_presenceTimer (s : State) : (clearRoster s).presenceTimer = s.presenceTimer := rfl
@[simp] theorem clearRoster_roster (s : State) : (clearRoster s).roster = rosterOf s.station := rfl
@[simp] theorem clearRoster_queue (s : State) : (clearRoster s).queue = s.queue := rfl
@[simp] theorem clearRoster_axis (s : State) : (clearRoster s).axis = s.axis := rfl
@[simp] theorem clearRoster_command (s : State) : (clearRoster s).command = s.command := rfl
@[simp] theorem clearRoster_measured (s : State) : (clearRoster s).measured = s.measured := rfl
@[simp] theorem clearRoster_encA (s : State) : (clearRoster s).encA = s.encA := rfl
@[simp] theorem clearRoster_encB (s : State) : (clearRoster s).encB = s.encB := rfl
@[simp] theorem clearRoster_watches (s : State) : (clearRoster s).watches = s.watches := rfl
@[simp] theorem clearRoster_captures (s : State) : (clearRoster s).captures = s.captures := rfl
@[simp] theorem clearRoster_reactions (s : State) : (clearRoster s).reactions = s.reactions := rfl
@[simp] theorem clearRoster_emissions (s : State) : (clearRoster s).emissions = s.emissions := rfl
@[simp] theorem clearRoster_inputs (s : State) : (clearRoster s).inputs = s.inputs := rfl
@[simp] theorem clearRoster_faults (s : State) : (clearRoster s).faults = s.faults := rfl
@[simp] theorem clearRoster_ownHalt (s : State) : (clearRoster s).ownHalt = s.ownHalt := rfl
@[simp] theorem clearRoster_halts (s : State) : (clearRoster s).halts = s.halts := rfl
@[simp] theorem clearRoster_lif (s : State) : (clearRoster s).lif = { s.lif with yielding := false } := rfl
@[simp] theorem clearRoster_outbound (s : State) : (clearRoster s).outbound = s.outbound := rfl
@[simp] theorem clearRoster_nextFrame (s : State) : (clearRoster s).nextFrame = s.nextFrame := rfl
@[simp] theorem clearRoster_score (s : State) : (clearRoster s).score = s.score := rfl
@[simp] theorem clearRoster_standing (s : State) : (clearRoster s).standing = s.standing := rfl
@[simp] theorem clearRoster_recovery (s : State) : (clearRoster s).recovery = s.recovery := rfl
@[simp] theorem clearRoster_posts (s : State) : (clearRoster s).posts = s.posts := rfl
@[simp] theorem clearRoster_posted (s : State) : (clearRoster s).posted = s.posted := rfl
@[simp] theorem clearRoster_port (s : State) : (clearRoster s).port = s.port := rfl
@[simp] theorem clearRoster_notices (s : State) : (clearRoster s).notices = s.notices := rfl
@[simp] theorem clearRoster_lost (s : State) : (clearRoster s).lost = s.lost := rfl
@[simp] theorem clearRoster_bitPhase (s : State) : (clearRoster s).bitPhase = s.bitPhase := rfl
@[simp] theorem clearRoster_closing (s : State) : (clearRoster s).closing = s.closing := rfl
@[simp] theorem clearRoster_pending (s : State) : (clearRoster s).pending = s.pending := rfl
@[simp] theorem clearRoster_handed (s : State) : (clearRoster s).handed = s.handed := rfl
@[simp] theorem clearRoster_free (s : State) : (clearRoster s).free = s.free := rfl

/-! ### deselect -/

@[simp] theorem deselect_config (s : State) : (deselect s).config = s.config := rfl
@[simp] theorem deselect_station (s : State) : (deselect s).station = s.station := rfl
@[simp] theorem deselect_bitRate (s : State) : (deselect s).bitRate = s.bitRate := rfl
@[simp] theorem deselect_lifecycle (s : State) : (deselect s).lifecycle = s.lifecycle := rfl
@[simp] theorem deselect_listenTimer (s : State) : (deselect s).listenTimer = s.listenTimer := rfl
@[simp] theorem deselect_presenceTimer (s : State) : (deselect s).presenceTimer = s.presenceTimer := rfl
@[simp] theorem deselect_roster (s : State) : (deselect s).roster = s.roster := rfl
@[simp] theorem deselect_queue (s : State) : (deselect s).queue = s.queue := rfl
@[simp] theorem deselect_axis (s : State) : (deselect s).axis = s.axis := rfl
@[simp] theorem deselect_command (s : State) : (deselect s).command = s.command := rfl
@[simp] theorem deselect_measured (s : State) : (deselect s).measured = s.measured := rfl
@[simp] theorem deselect_encA (s : State) : (deselect s).encA = s.encA := rfl
@[simp] theorem deselect_encB (s : State) : (deselect s).encB = s.encB := rfl
@[simp] theorem deselect_watches (s : State) : (deselect s).watches = s.watches := rfl
@[simp] theorem deselect_captures (s : State) : (deselect s).captures = s.captures := rfl
@[simp] theorem deselect_reactions (s : State) : (deselect s).reactions = s.reactions := rfl
@[simp] theorem deselect_emissions (s : State) : (deselect s).emissions = s.emissions := rfl
@[simp] theorem deselect_inputs (s : State) : (deselect s).inputs = s.inputs := rfl
@[simp] theorem deselect_faults (s : State) : (deselect s).faults = s.faults := rfl
@[simp] theorem deselect_ownHalt (s : State) : (deselect s).ownHalt = s.ownHalt := rfl
@[simp] theorem deselect_halts (s : State) : (deselect s).halts = s.halts := rfl
@[simp] theorem deselect_lif (s : State) : (deselect s).lif = s.lif := rfl
@[simp] theorem deselect_outbound (s : State) : (deselect s).outbound = s.outbound := rfl
@[simp] theorem deselect_nextFrame (s : State) : (deselect s).nextFrame = s.nextFrame := rfl
@[simp] theorem deselect_score (s : State) : (deselect s).score = s.score := rfl
@[simp] theorem deselect_standing (s : State) : (deselect s).standing = s.standing := rfl
@[simp] theorem deselect_recovery (s : State) : (deselect s).recovery = s.recovery := rfl
@[simp] theorem deselect_posts (s : State) : (deselect s).posts = s.posts := rfl
@[simp] theorem deselect_posted (s : State) : (deselect s).posted = s.posted := rfl
@[simp] theorem deselect_port (s : State) :
    (deselect s).port = { s.port with selected := false, taken := false, result := [] } := rfl
@[simp] theorem deselect_notices (s : State) : (deselect s).notices = s.notices := rfl
@[simp] theorem deselect_lost (s : State) : (deselect s).lost = s.lost := rfl
@[simp] theorem deselect_bitPhase (s : State) : (deselect s).bitPhase = s.bitPhase := rfl
@[simp] theorem deselect_closing (s : State) : (deselect s).closing = s.closing := rfl
@[simp] theorem deselect_pending (s : State) : (deselect s).pending = s.pending := rfl
@[simp] theorem deselect_handed (s : State) : (deselect s).handed = s.handed := rfl
@[simp] theorem deselect_free (s : State) : (deselect s).free = s.free := rfl

/-! ### lineOff -/

@[simp] theorem lineOff_config (s : State) : (lineOff s).config = s.config := rfl
@[simp] theorem lineOff_station (s : State) : (lineOff s).station = s.station := rfl
@[simp] theorem lineOff_bitRate (s : State) : (lineOff s).bitRate = s.bitRate := rfl
@[simp] theorem lineOff_lifecycle (s : State) : (lineOff s).lifecycle = s.lifecycle := rfl
@[simp] theorem lineOff_listenTimer (s : State) : (lineOff s).listenTimer = s.listenTimer := rfl
@[simp] theorem lineOff_presenceTimer (s : State) : (lineOff s).presenceTimer = s.presenceTimer := rfl
@[simp] theorem lineOff_roster (s : State) : (lineOff s).roster = s.roster := rfl
@[simp] theorem lineOff_queue (s : State) : (lineOff s).queue = s.queue := rfl
@[simp] theorem lineOff_axis (s : State) : (lineOff s).axis = s.axis := rfl
@[simp] theorem lineOff_command (s : State) : (lineOff s).command = s.command := rfl
@[simp] theorem lineOff_measured (s : State) : (lineOff s).measured = s.measured := rfl
@[simp] theorem lineOff_encA (s : State) : (lineOff s).encA = s.encA := rfl
@[simp] theorem lineOff_encB (s : State) : (lineOff s).encB = s.encB := rfl
@[simp] theorem lineOff_watches (s : State) : (lineOff s).watches = s.watches := rfl
@[simp] theorem lineOff_captures (s : State) : (lineOff s).captures = s.captures := rfl
@[simp] theorem lineOff_reactions (s : State) : (lineOff s).reactions = s.reactions := rfl
@[simp] theorem lineOff_emissions (s : State) : (lineOff s).emissions = s.emissions := rfl
@[simp] theorem lineOff_inputs (s : State) : (lineOff s).inputs = s.inputs := rfl
@[simp] theorem lineOff_faults (s : State) : (lineOff s).faults = s.faults := rfl
@[simp] theorem lineOff_ownHalt (s : State) : (lineOff s).ownHalt = s.ownHalt := rfl
@[simp] theorem lineOff_halts (s : State) : (lineOff s).halts = s.halts := rfl
@[simp] theorem lineOff_outbound (s : State) :
    (lineOff s).outbound = s.outbound.map fun f => { f with inFlight := false } := rfl
@[simp] theorem lineOff_nextFrame (s : State) : (lineOff s).nextFrame = s.nextFrame := rfl
@[simp] theorem lineOff_score (s : State) : (lineOff s).score = s.score := rfl
@[simp] theorem lineOff_standing (s : State) : (lineOff s).standing = s.standing := rfl
@[simp] theorem lineOff_recovery (s : State) : (lineOff s).recovery = s.recovery := rfl
@[simp] theorem lineOff_posts (s : State) : (lineOff s).posts = s.posts := rfl
@[simp] theorem lineOff_posted (s : State) : (lineOff s).posted = s.posted := rfl
@[simp] theorem lineOff_port (s : State) : (lineOff s).port = s.port := rfl
@[simp] theorem lineOff_notices (s : State) : (lineOff s).notices = s.notices := rfl
@[simp] theorem lineOff_lost (s : State) : (lineOff s).lost = s.lost := rfl
@[simp] theorem lineOff_bitPhase (s : State) : (lineOff s).bitPhase = s.bitPhase := rfl
@[simp] theorem lineOff_closing (s : State) : (lineOff s).closing = s.closing := rfl
@[simp] theorem lineOff_pending (s : State) : (lineOff s).pending = s.pending := rfl
@[simp] theorem lineOff_handed (s : State) : (lineOff s).handed = s.handed := rfl
@[simp] theorem lineOff_free (s : State) : (lineOff s).free = s.free := rfl

/-! ### onPort -/

@[simp] theorem onPort_of_awaits {f : State → Host.Outcome State Fault Refusal} {s : State}
    (h : s.awaitsCommand = true) : onPort f s = f s := if_pos h
@[simp] theorem onPort_of_not_awaits {f : State → Host.Outcome State Fault Refusal} {s : State}
    (h : s.awaitsCommand = false) : onPort f s = .next s := if_neg (by simp [h])

end Sys2Proof.Machine
end

