-- ==== Sys2Proof/Laws/Tame.lean ====
section
/-! SUPPORT. What every inner operation of the blocks leaves alone and keeps: it changes nothing of State.kept, keeps the
capacities of Fits and adds no segment to the queue. One lemma for each operation, up to the taking of everything handed
on. -/

set_option Elab.async false

namespace Sys2Proof.Machine

/-- The part of State.kept unchanged, the capacities kept, no segment added, and no frame to a closed Outbound Queue. -/
structure Tame (s t : State) : Prop where
  kept : t.kept = s.kept
  fits : Fits s → Fits t
  positions : PositionsAgree s → PositionsAgree t
  depth : t.queue.length ≤ s.queue.length
  closed : s.canSend = false → t.outbound.length ≤ s.outbound.length

theorem Tame.refl (s : State) : Tame s s := ⟨rfl, id, id, le_rfl, fun _ => le_rfl⟩

theorem canSend_of_kept {s t : State} (h : t.kept = s.kept) : t.canSend = s.canSend := by
  unfold State.canSend
  rw [show t.lifecycle = s.lifecycle from congrArg Kept.lifecycle h,
    show t.standing = s.standing from congrArg Kept.standing h]

theorem Tame.trans {s t u : State} (h : Tame s t) (k : Tame t u) : Tame s u :=
  ⟨k.kept.trans h.kept, k.fits ∘ h.fits, k.positions ∘ h.positions, k.depth.trans h.depth,
    fun c => (k.closed ((canSend_of_kept h.kept).trans c)).trans (h.closed c)⟩

theorem config_of_kept {s t : State} (h : t.kept = s.kept) : t.config = s.config := congrArg Kept.config h

/-- An operation on other fields is tame. -/
theorem Tame.of_same {s t : State} (hk : t.kept = s.kept := by rfl) (hn : t.notices = s.notices := by rfl)
    (hl : t.lost = s.lost := by rfl) (ho : t.outbound.length = s.outbound.length := by rfl)
    (hr : t.reactions = s.reactions := by rfl) (hw : t.watches.length = s.watches.length := by rfl)
    (hc : t.captures.length = s.captures.length := by rfl) (hp : t.command = s.command := by rfl)
    (hm : t.measured = s.measured := by rfl) (hq : t.queue.length ≤ s.queue.length := by exact le_rfl) :
    Tame s t := by
  refine ⟨hk, fun h => ⟨?_, ?_, ?_, ?_⟩, fun h => ?_, hq, fun _ => ho.le⟩
  · have := h.notices; unfold NoticesFit at *; rw [hn, hl]; exact this
  · have := h.outbound; unfold OutboundFits at *; rw [ho]; exact this
  · have := h.tables; unfold TablesFit at *; rw [hr, hw, hc]; exact this
  · have := h.tallies; unfold TalliesFit at *; rw [hr]; exact this
  · unfold PositionsAgree at *; rw [config_of_kept hk, hp, hm]; exact h

/-- A choice between two tame operations is tame. -/
theorem Tame.ite {s t u : State} {c : Prop} [Decidable c] (h : Tame s t) (k : Tame s u) :
    Tame s (if c then t else u) := by split <;> assumption

/-- A fold of tame operations is tame. -/
theorem Tame.foldl {α : Type} (f : State → α → State) (h : ∀ s a, Tame s (f s a)) (l : List α) (s : State) :
    Tame s (l.foldl f s) := by
  induction l generalizing s with
  | nil => exact .refl s
  | cons a l ih => exact (h s a).trans (ih _)

/-! ### Notices, events handed on, picks -/

theorem tame_notify (n : Notice) (s : State) : Tame s (notify n s) := by
  unfold notify
  split
  · rename_i h
    exact ⟨rfl, fun k => ⟨⟨by simp; omega, k.notices.2⟩, k.outbound, k.tables, k.tallies⟩, id, le_rfl, fun _ => le_rfl⟩
  · exact ⟨rfl, fun k => ⟨⟨k.notices.1, by simp⟩, k.outbound, k.tables, k.tallies⟩, id, le_rfl, fun _ => le_rfl⟩

theorem tame_handEvaluate (s : State) : Tame s (handEvaluate s) := .of_same

theorem tame_handLoopBack (m : Mark) (p : Option Position) (s : State) : Tame s (handLoopBack m p s) := .of_same

theorem tame_handGateChange (p : Gate → Bool) (s : State) : Tame s (handGateChange p s) :=
  .ite (tame_handEvaluate s) (.refl s)

theorem tame_handTally (e : Fin 24) (s : State) : Tame s (handTally e s) := tame_handGateChange _ s

theorem tame_handWatch (w : Fin 4) (s : State) : Tame s (handWatch w s) := tame_handGateChange _ s

theorem tame_handInput (i : Input) (s : State) : Tame s (handInput i s) := tame_handGateChange _ s

theorem tame_pick (s : State) : Tame s (pick s) := by
  unfold pick; repeat' split
  all_goals first | exact .refl s | exact .of_same

theorem tame_pickIfSilent (s : State) : Tame s (pickIfSilent s) := .ite (tame_pick s) (.refl s)

theorem tame_repick (id : Nat) (s : State) : Tame s (repick id s) := by
  unfold repick; split
  · exact .ite (tame_pick s) (.refl s)
  · exact .refl s

theorem tame_dropPick (s : State) : Tame s (dropPick s) := by
  unfold dropPick; split
  · exact .of_same
  · exact .refl s

theorem tame_lineOff (s : State) : Tame s (lineOff s) := .of_same (ho := by simp [lineOff])

theorem tame_noReject (s : State) : Tame s (noReject s) := .of_same

/-! ### Frames -/

theorem tame_admit {d : Dest} {p : Payload} {s t : State} (h : admission d p s = some t) : Tame s t := by
  unfold admission at h
  split at h
  · rename_i hr
    simp only [Option.some.injEq] at h
    rw [← h]
    refine Tame.trans ?_ (tame_pickIfSilent _)
    refine ⟨rfl, fun k => ⟨k.notices, ?_, k.tables, k.tallies⟩, id, le_rfl, fun c => by simp [c] at hr⟩
    simp only [Bool.and_eq_true, State.hasRoom] at hr
    have := hr.2
    simp only [OutboundFits, List.length_append, List.length_singleton]
    split at this <;> simp_all
    all_goals omega
  · cases h

theorem tame_askOwed (s : State) : Tame s (askOwed s) := by
  unfold askOwed
  split
  · exact .refl s
  · split
    · split
      · rename_i h; exact (tame_admit h).trans .of_same
      · exact .refl s
    · exact .of_same

theorem tame_departed (id : Nat) (s : State) : Tame s (departed id s) := (tame_askOwed s).trans (tame_repick id _)

theorem length_replaceFrame (l : List OutFrame) (g : OutFrame) (id : Nat) : (replaceFrame l g id).length = l.length := by
  simp [replaceFrame]

theorem tame_supersede (f : OutFrame) (p : Presence) (s : State) : Tame s (supersede f p s) := by
  unfold supersede
  exact Tame.trans (.of_same (ho := length_replaceFrame ..)) (tame_departed _ _)

theorem tame_updatePresence (c : Presence → Presence) (s : State) : Tame s (updatePresence c s) := by
  unfold updatePresence
  repeat' split
  all_goals first
    | exact .refl s
    | exact tame_supersede _ _ s
    | exact .of_same (ho := length_replaceFrame ..)

theorem tame_announceHalt (s : State) : Tame s (announceHalt s) := by
  unfold announceHalt
  exact (tame_updatePresence _ s).trans (Tame.trans .of_same (tame_askOwed _))

theorem tame_requestPresence (s : State) : Tame s (requestPresence s) := by
  unfold requestPresence
  split
  · split
    · exact tame_updatePresence _ s
    · split
      · rename_i h; exact tame_admit h
      · exact .refl s
  · exact .refl s

theorem tame_startPresenceTimer (s : State) : Tame s (startPresenceTimer s) := .of_same

theorem tame_openHaltRequest (s : State) : Tame s (openHaltRequest s) := .ite (tame_announceHalt s) (tame_askOwed s)

theorem tame_openPresenceRequest (s : State) : Tame s (openPresenceRequest s) :=
  (tame_requestPresence s).trans (tame_startPresenceTimer _)

theorem tame_openOutbound (s : State) : Tame s (openOutbound s) := by
  unfold openOutbound
  split
  · refine Tame.trans (t := { s with free := s.free + 1 }) .of_same ?_
    exact .ite ((tame_openHaltRequest _).trans (tame_openPresenceRequest _))
      ((tame_openPresenceRequest _).trans (tame_openHaltRequest _))
  · exact tame_openPresenceRequest s

theorem tame_openLine (s : State) : Tame s (openLine s) := (tame_openOutbound s).trans (tame_dropPick _)

/-! ### Marks and answers -/

theorem tame_notSent (r : NotSentReason) (m : Mark) (p : Option Position) (o : EmitOrigin) (i : Byte) (s : State) :
    Tame s (notSent r m p o i s) := (tame_notify _ s).trans (tame_handLoopBack m p _)

theorem tame_requestMark (m : Mark) (p : Option Position) (o : EmitOrigin) (i : Byte) (s : State) :
    Tame s (requestMark m p o i s) := by
  unfold requestMark
  split
  · split
    · rename_i h; exact (tame_admit h).trans .of_same
    · exact tame_notSent _ m p o i s
  · exact tame_notSent _ m p o i s

theorem tame_requestMark? (m : Option Mark) (o : EmitOrigin) (i : Byte) (s : State) :
    Tame s (requestMark? m o i s) := by
  unfold requestMark?
  split
  · exact tame_requestMark _ _ o i s
  · exact .refl s

theorem tame_answerPeer (n : Station) (q : Seq) (k : AnswerKind) (tag : Byte) (s : State) :
    Tame s (answerPeer n q k tag s) := by
  unfold answerPeer
  split
  · rename_i h; exact tame_admit h
  · exact tame_notify _ s

/-! ### Retirement, flushes, stops -/

theorem tame_retireEffects (e : Entry) (o : Retirement) (s : State) : Tame s (retireEffects e o s) := by
  have h : Tame s (match o with
      | .completed | .cut => requestMark? e.segment.endMark .finish e.segment.tag s
      | _ => s) := by
    cases o <;> first | exact tame_requestMark? _ _ _ s | exact .refl s
  unfold retireEffects
  simp only
  split
  · exact h.trans (tame_notify _ _)
  · exact (h.trans (tame_notify _ _)).trans (tame_answerPeer _ _ _ _ _)

theorem tame_flushEntries (es : List Entry) (s : State) : Tame s (flushEntries es s) :=
  .foldl _ (fun s e => tame_retireEffects e .flushed s) es s

theorem tame_retireHead (o : Retirement) (s : State) : Tame s (retireHead o s) := by
  unfold retireHead
  split
  · rename_i e rest h
    refine Tame.trans ?_ ((tame_retireEffects e o _).trans (tame_handEvaluate _))
    exact .of_same (hq := by simp [h])
  · exact .refl s

theorem tame_flushBehind (s : State) : Tame s (flushBehind s) := by
  unfold flushBehind
  split
  · rename_i e rest h
    split
    · exact Tame.trans (.of_same (hq := by simp [h])) (tame_flushEntries rest _)
    · exact Tame.trans (.of_same (hq := by simp)) (tame_flushEntries _ _)
  · exact .refl s

theorem tame_brake (c : BrakeCause) (r : Nat) (e : Entry) (s : State) : Tame s (brake c r e s) := by
  unfold brake; split
  · exact tame_retireHead _ s
  · exact .of_same

theorem tame_decelerateHead (e : Entry) (s : State) : Tame s (decelerateHead e s) := by
  unfold decelerateHead; split
  all_goals first | exact .of_same | exact tame_brake _ _ e s | exact tame_retireHead _ s

theorem tame_orderStop (k : StopKind) (s : State) : Tame s (orderStop k s) := by
  unfold orderStop; split
  · exact tame_flushBehind s
  · exact (tame_retireHead _ s).trans (tame_flushBehind _)
  · exact (tame_flushBehind s).trans (tame_decelerateHead _ _)

theorem tame_raiseByCause (c : Cause) (s : State) : Tame s (raiseByCause c s) := by
  unfold raiseByCause; split
  · exact Tame.trans .of_same (tame_announceHalt _)
  · exact .refl s

theorem tame_raiseCause (c : Cause) (s : State) : Tame s (raiseCause c s) := by
  unfold raiseCause; split
  · exact .refl s
  · refine Tame.trans (t := { s with faults := s.faults.put c true }) .of_same ?_
    exact (tame_notify _ _).trans ((tame_orderStop _ _).trans (tame_raiseByCause c _))

theorem tame_checkGap (s : State) : Tame s (checkGap s) := .ite (tame_raiseCause _ s) (.refl s)

theorem tame_trigger (n : Fin 4) (x : Trigger) (s : State) : Tame s (trigger n x s) := by
  unfold trigger
  simp only
  split
  · exact .of_same (hc := by simp)
  · exact Tame.trans (.of_same (hc := by simp)) (tame_notify _ _)

/-! ### Tallies and gates -/

/-- A table entry replaced by one whose tally is in range is tame. -/
theorem tame_setReactionAt (e : Fin 24) (r : Reaction) (s : State) (h : r.tally ≤ 15) :
    Tame s (setReactionAt e r s) :=
  ⟨rfl, fun k => ⟨k.notices, k.outbound, ⟨by simpa using k.tables.1, k.tables.2⟩,
    fun x hx => (List.mem_or_eq_of_mem_set hx).elim (k.tallies x) (fun hx => hx ▸ h)⟩, id, le_rfl, fun _ => le_rfl⟩

theorem tally_getD (s : State) (n : Nat) (h : TalliesFit s) : (s.reactions.getD n .cleared).tally ≤ 15 := by
  rw [List.getD_eq_getElem?_getD]
  cases hx : s.reactions[n]? with
  | none => simp [Reaction.cleared]
  | some r => exact h r (List.mem_of_getElem? hx)

theorem tame_setTally (e : Fin 24) (n : Nat) (s : State)
    (h : TalliesFit s → n ≤ 15) : Tame s (setTally e n s) :=
  ⟨rfl, fun k => (tame_setReactionAt e { s.reactions.getD e.val .cleared with tally := n } s (h k.tallies)).fits k,
    id, le_rfl, fun _ => le_rfl⟩

theorem tame_consumeGate {g : Gate} {s t : State} (h : consumeGate g s = some t) : Tame s t := by
  unfold consumeGate at h
  split at h
  · simp only at h
    split at h
    · cases h
    · simp only [Option.some.injEq] at h
      rw [← h]
      exact tame_setTally _ _ s (fun k => le_trans (Nat.sub_le _ _) (tally_getD s _ k))
  · simp only [Option.some.injEq] at h
    rw [← h]; exact .refl s

/-! ### The plan, junctions, cuts -/

theorem tame_replan (s : State) : Tame s (replan s) := .ite (.refl s) .of_same

theorem tame_commitSecond (s : State) : Tame s (commitSecond s) := by
  unfold commitSecond; split
  · rename_i h; exact .of_same (hq := by simp [h])
  · exact .refl s

theorem tame_consumeSecond {s t : State} (h : consumeSecond s = some t) : Tame s t := by
  unfold consumeSecond at h
  split at h
  · split at h
    · simp only [Option.some.injEq] at h; rw [← h]; exact .refl s
    · exact tame_consumeGate h
  · cases h

theorem tame_commitPlan (s : State) : Tame s (commitPlan s) := by
  unfold commitPlan
  split
  · exact .refl s
  · split
    · exact .of_same
    · split
      · rename_i h
        exact (tame_consumeSecond h).trans (Tame.trans .of_same (tame_commitSecond _))
      · exact .of_same

theorem tame_decelerationPoint (e : Entry) (s : State) : Tame s (decelerationPoint e s) :=
  .ite ((tame_commitPlan s).trans .of_same) (.refl s)

theorem tame_takeOver (n : Entry) (r : Ramp) (d : Dir) (s : State) : Tame s (takeOver n r d s) := by
  unfold takeOver; exact .of_same

theorem tame_junction (s : State) : Tame s (junction s) := by
  unfold junction
  split
  · rename_i e n rest h
    split
    · split
      · refine Tame.trans ?_ (tame_requestMark? _ _ _ _)
        refine Tame.trans ?_ (tame_takeOver _ _ _ _)
        exact Tame.trans (.of_same (hq := by simp [h])) (tame_retireEffects _ _ _)
      · exact tame_retireHead _ s
    · exact tame_retireHead _ s
  · exact tame_retireHead _ s

theorem tame_cutBrake (e : Entry) (s : State) : Tame s (cutBrake e s) := by
  unfold cutBrake
  refine Tame.trans (.of_same (hq := ?_)) (tame_brake _ _ e _)
  simp only [List.length_append, List.length_map, List.length_take, List.length_drop]
  omega

theorem tame_cutChainedRun (e : Entry) (s : State) : Tame s (cutChainedRun e s) := by
  unfold cutChainedRun
  have h := (tame_replan s).trans (tame_commitPlan _)
  simp only
  split
  · split
    · exact h.trans .of_same
    · exact h.trans (tame_junction _)
  · exact h.trans (tame_cutBrake e _)

theorem tame_takeCut (s : State) : Tame s (takeCut s) := by
  unfold takeCut
  split
  · exact .refl s
  · split
    · exact tame_retireHead _ s
    all_goals first
      | exact .refl s
      | exact .ite (.refl s) (.ite (tame_cutChainedRun _ s) (tame_cutBrake _ s))

/-! ### New positions -/

/-- A change of the positions that keeps them as R44 has them is tame. -/
theorem tame_positions (c m : Position) (s : State) (h : PositionsAgree s → s.config.encoder = .off → m = c) :
    Tame s { s with command := c, measured := m } :=
  ⟨rfl, fun k => ⟨k.notices, k.outbound, k.tables, k.tallies⟩, h, le_rfl, fun _ => le_rfl⟩

theorem tame_setCommand (p : Position) (s : State) : Tame s (setCommand p s) :=
  tame_positions _ _ s (fun _ h => by simp [h])

theorem tame_jumpPositions {watch : WatchTake} (hw : ∀ l s, Tame s (watch l s)) (p : Position) (s : State) :
    Tame s (jumpPositions watch p p s) :=
  (tame_positions p p s (fun _ _ => rfl)).trans (hw _ _)

/-! ### Pulses, ends, finds -/

theorem tame_rearmPulse (s : State) : Tame s (rearmPulse s) := .ite .of_same (.refl s)

theorem tame_refuseStep (s : State) : Tame s (refuseStep s) := by
  unfold refuseStep
  exact .ite ((tame_retireHead _ s).trans (tame_raiseCause _ _)) ((tame_raiseCause _ s).trans (tame_rearmPulse _))

theorem tame_emitPulse (e : Entry) (s : State) : Tame s (emitPulse e s) := by
  unfold emitPulse
  exact Tame.trans .of_same (tame_setCommand _ _)

theorem tame_endMove (s : State) : Tame s (endMove s) := by
  unfold endMove
  have h := (tame_replan s).trans (tame_commitPlan _)
  exact .ite (h.trans (tame_junction _)) (h.trans (tame_retireHead _ _))

theorem tame_endMotion (s : State) : Tame s (endMotion s) := by
  unfold endMotion
  simp only
  repeat' split
  all_goals first
    | exact .refl s
    | exact tame_retireHead _ s
    | exact tame_endMove s
    | exact tame_junction s

theorem tame_pulse {watch : WatchTake} (hw : ∀ l s, Tame s (watch l s)) (s : State) : Tame s (pulse watch s) := by
  unfold pulse
  split
  · exact .refl s
  · split
    · rename_i e _ _
      have h := (tame_replan s).trans (tame_decelerationPoint e _)
      exact .ite (h.trans (tame_refuseStep _))
        (h.trans ((tame_emitPulse e _).trans ((hw _ _).trans
          ((tame_checkGap _).trans (tame_endMotion _)))))
    · exact .refl s

theorem tame_zeroAtFind {watch : WatchTake} (hw : ∀ l s, Tame s (watch l s)) (z : Bool) (s : State) :
    Tame s (zeroAtFind watch z s) :=
  .ite (tame_jumpPositions hw 0 s) (.refl s)

theorem tame_stopAtFind (b : Bool) (k : StopKind) (s : State) : Tame s (stopAtFind b k s) :=
  .ite (tame_retireHead _ s) .of_same

theorem tame_seekFind {watch : WatchTake} (hw : ∀ l s, Tame s (watch l s)) (b : Bool) (s : State) :
    Tame s (seekFind watch b s) := by
  unfold seekFind
  split
  · split
    · exact Tame.trans .of_same ((tame_zeroAtFind hw _ _).trans (tame_stopAtFind _ _ _))
    · exact .refl s
  · exact .refl s

theorem tame_seekInputChange {watch : WatchTake} (hw : ∀ l s, Tame s (watch l s)) (i : Input) (s : State) :
    Tame s (seekInputChange watch i s) := by
  unfold seekInputChange
  repeat' split
  all_goals first | exact .refl s | exact tame_seekFind hw _ s

theorem tame_dwellDone (s : State) : Tame s (dwellDone s) := by
  unfold dwellDone
  split
  · exact .ite (tame_retireHead _ s) (.refl s)
  · exact .refl s

/-! ### Starts and evaluations -/

theorem tame_startMotion {watch : WatchTake} (hw : ∀ l s, Tame s (watch l s)) (g : Segment) (r : Ramp) (d : Dir)
    (s : State) : Tame s (startMotion watch g r d s) := by
  unfold startMotion
  simp only
  split
  · exact Tame.trans .of_same (tame_raiseCause _ _)
  · have h := fun (s : State) => tame_requestMark? g.startMark .start g.tag s
    exact .ite (Tame.trans .of_same ((h _).trans (tame_seekFind hw _ _)))
      (Tame.trans .of_same ((h _).trans (tame_pulse hw _)))

theorem tame_runHead {watch : WatchTake} (hw : ∀ l s, Tame s (watch l s)) (g : Segment) (s : State) :
    Tame s (runHead watch g s) := by
  have h : Tame s (requestMark? g.startMark .start g.tag s) := tame_requestMark? _ _ _ s
  unfold runHead
  split
  · exact h.trans .of_same
  · exact h.trans ((tame_jumpPositions hw _ _).trans ((tame_checkGap _).trans (tame_retireHead _ _)))
  · split
    · exact tame_startMotion hw g _ _ s
    · exact h.trans (tame_retireHead _ _)

theorem tame_startHead {watch : WatchTake} (hw : ∀ l s, Tame s (watch l s)) (e : Entry) (rest : List Entry) (s : State)
    (h : s.queue = e :: rest) : Tame s (startHead watch e rest s) := by
  unfold startHead
  split
  · rename_i t ht
    have hst : Tame s t := by
      split at ht
      · simp only [Option.some.injEq] at ht; rw [← ht]; exact .refl s
      · exact tame_consumeGate ht
    have hq : t.queue = s.queue := by
      split at ht
      · simp only [Option.some.injEq] at ht; rw [← ht]
      · unfold consumeGate at ht
        split at ht
        · simp only at ht
          split at ht
          · cases ht
          · simp only [Option.some.injEq] at ht; rw [← ht]; rfl
        · simp only [Option.some.injEq] at ht; rw [← ht]
    exact hst.trans (Tame.trans (.of_same (hq := by simp [hq, h])) (tame_runHead hw _ _))
  · exact .refl s

theorem tame_evaluateHead {watch : WatchTake} (hw : ∀ l s, Tame s (watch l s)) (s : State) :
    Tame s (evaluateHead watch s) := by
  unfold evaluateHead
  split
  · rename_i e rest h
    exact .ite (tame_startHead hw e rest s h) (.refl s)
  · exact .refl s

/-! ### Watches -/

theorem tame_watchLater (l : List (WatchSource × Position)) (s : State) : Tame s (watchLater l s) := .of_same

theorem tame_evaluateWithin (n : Nat) (s : State) : Tame s (evaluateWithin n s) := by
  induction n generalizing s with
  | zero => exact .refl s
  | succ n ih =>
    unfold evaluateWithin
    exact .ite (Tame.trans .of_same ((tame_evaluateHead tame_watchLater _).trans (ih _))) (.refl s)

theorem tame_evaluateNow (s : State) : Tame s (evaluateNow s) := tame_evaluateWithin _ s

theorem tame_hitEffects (w : Fin 4) (r : Watch) (s : State) : Tame s (hitEffects w r s) := by
  unfold hitEffects
  have h : Tame s (requestMark? r.mark .watch (byteOfNat w.val)
      (notify (.watchHit w { s with watches := s.watches.set w.val { r with state := .hit } }.headTag)
        { s with watches := s.watches.set w.val { r with state := .hit } })) :=
    Tame.trans (.of_same (hw := by simp)) ((tame_notify _ _).trans (tame_requestMark? _ _ _ _))
  exact .ite (h.trans (tame_takeCut _)) h

theorem tame_hitWatch (w : Fin 4) (r : Watch) (s : State) : Tame s (hitWatch w r s) :=
  (tame_hitEffects w r s).trans (tame_handWatch w _)

theorem tame_compareWatch (x : WatchSource) (p : Position) (s : State) (w : Fin 4) :
    Tame s (compareWatch x p s w) := by
  unfold compareWatch
  simp only
  split
  · split
    · exact (tame_hitWatch w _ s).trans (tame_evaluateNow _)
    · exact .of_same (hw := by simp)
  · exact .refl s

theorem tame_compareWatches (x : WatchSource) (p : Position) (s : State) : Tame s (compareWatches x p s) :=
  .foldl _ (tame_compareWatch x p) _ s

theorem tame_watchNow (l : List (WatchSource × Position)) (s : State) : Tame s (watchNow l s) := by
  unfold watchNow
  induction l generalizing s with
  | nil => exact .refl s
  | cons v l ih =>
    rw [List.foldl_cons]
    exact (tame_compareWatches v.1 v.2 s).trans (ih _)

/-! ### Arrivals and the events handed on -/

theorem tally_act (r : Reaction) (h : r.tally ≤ 15) : r.act.tally ≤ 15 := by
  unfold Reaction.act
  simp only
  split <;> split <;> (try split) <;> simp_all

theorem tame_takeArrival (a : Arrival) (s : State) : Tame s (takeArrival a s) := by
  refine ⟨rfl, fun k => ⟨k.notices, k.outbound, ⟨?_, k.tables.2⟩, ?_⟩, id, le_rfl, fun _ => le_rfl⟩
  · simpa [takeArrival] using k.tables.1
  · intro r hr
    simp only [takeArrival, List.mem_map] at hr
    obtain ⟨x, hx, rfl⟩ := hr
    split
    · exact tally_act x (k.tallies x hx)
    · exact k.tallies x hx

theorem tame_takeRequest (q : Request) (s : State) : Tame s (takeRequest q s) := by
  unfold takeRequest
  split
  · exact tame_handTally _ s
  · exact tame_takeCut s
  · exact tame_trigger _ _ s
  · exact tame_requestMark _ _ _ _ s
  · exact (tame_notify _ s).trans (tame_orderStop _ _)

theorem tame_takeHanded (s : State) : Tame s (takeHanded s) := by
  unfold takeHanded
  split
  · exact Tame.trans .of_same (tame_compareWatches _ _ _)
  · split
    · exact Tame.trans .of_same (tame_evaluateHead tame_watchNow _)
    · split
      · exact Tame.trans .of_same (tame_takeRequest _ _)
      · split
        · exact Tame.trans .of_same (tame_takeArrival _ _)
        · exact .refl s

theorem tame_settleWithin (n : Nat) (s : State) : Tame s (settleWithin n s) := by
  induction n generalizing s with
  | zero => exact .refl s
  | succ n ih =>
    unfold settleWithin
    exact .ite ((tame_takeHanded s).trans (ih _)) (.refl s)

theorem tame_settle (s : State) : Tame s (settle s) := tame_settleWithin _ s

/-- With nothing handed on, nothing is left to take. -/
theorem settle_of_atRest {s : State} (h : AtRest s) : settle s = s := by
  unfold settle
  cases s.work with
  | zero => rfl
  | succ n => simp [settleWithin, AtRest.eq_1 s ▸ h, Handed.waits, Handed.empty]

theorem tame_dropEmission (id : Nat) (s : State) : Tame s (dropEmission id s) := by
  unfold dropEmission
  split
  · exact Tame.trans .of_same ((tame_notSent _ _ _ _ _ _).trans (tame_settle _))
  · exact .refl s

theorem tame_loopBackCarried (id : Nat) (s : State) : Tame s (loopBackCarried id s) := by
  unfold loopBackCarried
  split
  · exact Tame.trans .of_same ((tame_handLoopBack _ _ _).trans (tame_settle _))
  · exact .refl s

/-! ### The lapse timer (R162 to R164) -/

theorem lapseSetAgain_of_same {s t : State} (n : Station) (hr : t.roster = s.roster) (hc : t.config = s.config) :
    t.lapseSetAgain n = s.lapseSetAgain n := by
  simp only [State.lapseSetAgain, State.lapseTime, State.lapseUnits, State.peer, hr, hc]

theorem Tame.lapseSetAgain {s t : State} (n : Station) (h : Tame s t) : t.lapseSetAgain n = s.lapseSetAgain n :=
  lapseSetAgain_of_same n (congrArg Kept.roster h.kept) (config_of_kept h.kept)

/-- A refresh sets the lapse timer again (R162). -/
theorem refreshPeer_lapseSetAgain (n : Station) (k : FrameKind) {s : State} (h : n.val < s.roster.length) :
    (refreshPeer n k s).lapseSetAgain n = true := by
  have e : (setPeer n { s.peer n with state := .present, lapse := s.lapseTime (s.peer n) } s).lapseSetAgain n = true := by
    simp [State.lapseSetAgain, State.lapseTime, State.lapseUnits, State.peer, setPeer, h]
  simp only [refreshPeer]
  split
  · exact ((tame_notify _ _).lapseSetAgain n).trans e
  · exact e

theorem recordFrame_lapseSetAgain (h : RxHeader) {s : State} (hr : h.source.val < s.roster.length) :
    (recordFrame h s).lapseSetAgain h.source = s.lapseSetAgain h.source := by
  simp [recordFrame, State.lapseSetAgain, State.lapseTime, State.lapseUnits, State.peer, setPeer, hr]

theorem recordPresence_lapseSetAgain (n : Station) (p : Presence) {s : State} (h : n.val < s.roster.length) :
    (recordPresence n p s).lapseSetAgain n = true := by
  simp [recordPresence, State.lapseSetAgain, State.lapseTime, State.lapseUnits, State.peer, setPeer, h]

/-- R164: with the timer set again no lapse is taken. -/
theorem execLapseTimerExpiry_of_setAgain {n : Station} {s : State} (h : s.lapseSetAgain n = true) :
    execLapseTimerExpiry n s = .next s := by
  simp [execLapseTimerExpiry, h]

/-! ### The sequence law, and each POST once at most (R124, R177) -/

theorem peer_setPeer (n : Station) (e : RosterEntry) {s : State} (h : n.val < s.roster.length) :
    (setPeer n e s).peer n = e := by simp [State.peer, h]

theorem peer_setPeer_of_ne {m n : Station} (e : RosterEntry) (s : State) (h : m ≠ n) :
    (setPeer n e s).peer m = s.peer m := by
  simp [State.peer, List.getD_eq_getElem?_getD, List.getElem?_set_ne (fun c => h (Fin.ext c.symm))]

theorem peer_of_tame {s t : State} (h : Tame s t) (n : Station) : t.peer n = s.peer n := by
  have e : t.roster = s.roster := congrArg Kept.roster h.kept
  simp only [State.peer, e]

/-- A refresh makes the entry Present with its lapse timer set again, and leaves the rest of it alone (R162). -/
theorem peer_refreshPeer (n : Station) (k : FrameKind) {s : State} (hr : n.val < s.roster.length) :
    (refreshPeer n k s).peer n = { s.peer n with state := .present, lapse := s.lapseTime (s.peer n) } := by
  have e := peer_setPeer n { s.peer n with state := .present, lapse := s.lapseTime (s.peer n) } hr
  simp only [refreshPeer]
  split
  · exact (peer_of_tame (tame_notify _ _) n).trans e
  · exact e

/-- What a recorded frame leaves in its source's entry (R124, R177). -/
theorem peer_recordFrame (h : RxHeader) {s : State} (hr : h.source.val < s.roster.length) :
    (recordFrame h s).peer h.source =
      { s.peer h.source with
        lastSequence := some h.sequence, postRetry := retryDue h (s.peer h.source).postRetry } :=
  peer_setPeer _ _ hr

/-- A frame that has been recorded is not new (R124). -/
theorem isNew_recordFrame (h : RxHeader) {s : State} (hr : h.source.val < s.roster.length) :
    (recordFrame h s).isNew h = false := by
  simp [State.isNew, peer_recordFrame h hr]

/-- The retry of a POST that has been recorded is known (R177). -/
theorem retriesPost_recordFrame {h : RxHeader} {s : State} (hr : h.source.val < s.roster.length) (k : h.kind = .post) :
    (recordFrame h s).retriesPost { h with retry := true } = true := by
  simp [State.retriesPost, peer_recordFrame h hr, retryDue, k]

/-- It is still known after a frame of a lower class from the same source (R119, R177). -/
theorem retriesPost_recordFrame_of_passed {g h : RxHeader} {s : State} (hr : h.source.val < s.roster.length)
    (hs : g.source = h.source) (c : h.kind.cls < 2) : (recordFrame h s).retriesPost g = s.retriesPost g := by
  have e : retryDue h (s.peer h.source).postRetry = (s.peer h.source).postRetry := by
    cases k : h.kind <;> simp [retryDue, FrameKind.cls, k] at c ⊢
  simp [State.retriesPost, hs, peer_recordFrame h hr, e]

/-- R124, R177: a repeat, or the retry of a POST received clean, refreshes its source's entry and is recorded, and that is
all. -/
theorem takeFromPeer_of_repeat {h : RxHeader} {s : State} (hr : h.source.val < s.roster.length)
    (hn : s.isNew h = false ∨ s.retriesPost h = true) :
    takeFromPeer h s = recordFrame h (refreshPeer h.source h.kind s) := by
  have e : ((refreshPeer h.source h.kind s).isNew h && !(refreshPeer h.source h.kind s).retriesPost h) = false := by
    simp only [State.isNew, State.retriesPost, peer_refreshPeer h.source h.kind hr] at hn ⊢
    rcases hn with hn | hn <;> simp [hn]
  simp [takeFromPeer, e]

/-! ### POSTs handed on (R7, R176) -/

theorem admission_of_closed {s : State} (d : Dest) (p : Payload) (c : s.canSend = false) : admission d p s = none := by
  simp [admission, c]

/-- R7, R176: off the line a POST handed on is refused, and ANSWER_DROPPED takes the place of its answer. -/
theorem takePost_of_left (n : Station) (q : Seq) (bytes : List Byte) {s : State} (h : s.lifecycle ≠ .online) :
    takePost n q bytes s = notify (.answerDropped (byteAt bytes 1) n q
      (.refused (if s.config.postMask.getLsbD n.val then .state else .notPermitted))) s := by
  have c : s.canSend = false := by simp [State.canSend, h]
  unfold takePost answerPeer
  cases s.config.postMask.getLsbD n.val <;> simp [h, admission_of_closed, c]

theorem handPost_of_not_overtaken (n : Station) (q : Seq) (bytes : List Byte) {s : State} (h : s.overtaken = false) :
    handPost n q bytes s = takePost n q bytes s := by simp [handPost, h]

theorem takePosted_of_nil {s : State} (h : s.posted = []) : takePosted s = s := by
  unfold takePosted; rw [h, List.foldl_nil, ← h]

theorem takePosted_tame {s : State} (h : s.lifecycle ≠ .online) : Tame { s with posted := [] } (takePosted s) := by
  suffices ∀ (l : List HandedPost) (t : State), t.lifecycle ≠ .online →
      Tame t (l.foldl (fun s p => takePost p.source p.sequence p.segment s) t) from this _ _ h
  intro l
  induction l with
  | nil => exact fun t _ => .refl t
  | cons p l ih =>
    intro t ht
    have k := tame_notify (.answerDropped (byteAt p.segment 1) p.source p.sequence
      (.refused (if t.config.postMask.getLsbD p.source.val then .state else .notPermitted))) t
    rw [List.foldl_cons, takePost_of_left _ _ _ ht]
    exact k.trans (ih _ (fun h => ht ((congrArg Kept.lifecycle k.kept).symm.trans h)))

/-- R7: nothing that was handed on is left. -/
theorem takePosted_posted {s : State} (h : s.lifecycle ≠ .online) : (takePosted s).posted = [] :=
  congrArg Kept.posted (takePosted_tame h).kept

/-! ### Emptying the Outbound Queue (R138) -/

/-- A closed Outbound Queue that holds no more frames than another. -/
structure Shut (s t : State) : Prop where
  closed : t.canSend = false
  length : t.outbound.length ≤ s.outbound.length

theorem Tame.shut {s t : State} (h : Tame s t) (c : s.canSend = false) : Shut s t :=
  ⟨(canSend_of_kept h.kept).trans c, h.closed c⟩

theorem shut_losePosts (p : PostEntry → Bool) (r : LostReason) (s : State) (c : s.canSend = false) :
    Shut s (losePosts p r s) := by
  have h := Tame.shut (.foldl (fun s (e : PostEntry) => notify (.postLost e.dest e.sequence e.tag r) s)
    (fun s _ => tame_notify _ s) (s.posts.filter p) { s with posts := s.posts.filter fun e => !p e }) c
  exact ⟨h.closed, h.length⟩

theorem length_filter_lt (l : List OutFrame) (f : OutFrame) (h : f ∈ l) :
    (l.filter fun g => g.id != f.id).length < l.length :=
  List.length_filter_lt_length_iff_exists.2 ⟨f, h, by simp⟩

/-- The drop of a held frame leaves a closed queue closed, with a frame fewer. -/
theorem dropFrame_lt (why : Emptying) (s : State) (f : OutFrame) (h : f ∈ s.outbound) (c : s.canSend = false) :
    (dropFrame why s f).canSend = false ∧ (dropFrame why s f).outbound.length < s.outbound.length := by
  let t := { s with outbound := s.outbound.filter fun g => g.id != f.id }
  have hl : t.outbound.length < s.outbound.length := length_filter_lt _ f h
  have hc : t.canSend = false := c
  suffices Shut t (dropFrame why s f) from ⟨this.closed, this.length.trans_lt hl⟩
  unfold dropFrame
  simp only
  split
  · exact (tame_dropEmission f.id t).shut hc
  · cases why
    · exact shut_losePosts _ _ t hc
    · exact ⟨hc, le_rfl⟩
  · split
    · exact (tame_notify _ t).shut hc
    · exact ⟨hc, le_rfl⟩
  · exact ⟨hc, le_rfl⟩
  · exact ⟨hc, le_rfl⟩
  · exact ⟨hc, le_rfl⟩

theorem firstFrame_mem {l : List OutFrame} {f : OutFrame} (h : firstFrame l = some f) : f ∈ l := by
  obtain ⟨c, _, hc⟩ := List.exists_of_findSome?_eq_some h
  exact List.mem_of_find?_eq_some hc

theorem firstFrame_eq_none {l : List OutFrame} (h : firstFrame l = none) : l = [] := by
  cases l with
  | nil => rfl
  | cons f l =>
    have h0 := List.findSome?_eq_none_iff.1 h f.cls (by
      unfold OutFrame.cls FrameKind.cls; cases f.payload.kind <;> simp)
    simp at h0

theorem outbound_emptyWithin (why : Emptying) (n : Nat) (s : State) (c : s.canSend = false)
    (h : s.outbound.length ≤ n) : (emptyWithin why n s).outbound = [] := by
  induction n generalizing s with
  | zero => exact List.length_eq_zero_iff.1 (Nat.le_zero.1 h)
  | succ n ih =>
    unfold emptyWithin
    split
    · rename_i f hf
      have hd := dropFrame_lt why s f (firstFrame_mem hf) c
      exact ih _ hd.1 (by omega)
    · rename_i hn; exact firstFrame_eq_none hn

/-- R138: a closed Outbound Queue that is emptied is empty. -/
theorem outbound_emptyOutbound (why : Emptying) (s : State) (c : s.canSend = false) :
    (emptyOutbound why s).outbound = [] := outbound_emptyWithin why _ s c le_rfl

end Sys2Proof.Machine
end

