-- ==== Sys2Proof/Laws/Work.lean ====
section
/-! SUPPORT. The measure behind settle: no inner operation hands on more than it uses up, each event taken lowers
State.work, and so settle takes everything. One lemma for each operation. -/

set_option Elab.async false

namespace Sys2Proof.Machine

/-- An operation that leaves alone what was handed on, the queue and the watches. -/
structure Quiet (s t : State) : Prop where
  handed : t.handed = s.handed
  queue : t.queue = s.queue
  watches : t.watches = s.watches

theorem Quiet.refl (s : State) : Quiet s s := ⟨rfl, rfl, rfl⟩

theorem Quiet.trans {s t u : State} (h : Quiet s t) (k : Quiet t u) : Quiet s u :=
  ⟨k.handed.trans h.handed, k.queue.trans h.queue, k.watches.trans h.watches⟩

theorem Quiet.of_same {s t : State} (h : t.handed = s.handed := by rfl) (q : t.queue = s.queue := by rfl)
    (w : t.watches = s.watches := by rfl) : Quiet s t := ⟨h, q, w⟩

theorem Quiet.ite {s t u : State} {c : Prop} [Decidable c] (h : Quiet s t) (k : Quiet s u) :
    Quiet s (if c then t else u) := by split <;> assumption

theorem Quiet.work {s t : State} (h : Quiet s t) : t.work = s.work := by
  unfold State.work; rw [h.handed, h.queue, h.watches]

/-! ### Operations that hand nothing on -/

theorem quiet_notify (n : Notice) (s : State) : Quiet s (notify n s) := .ite .of_same .of_same

theorem quiet_pick (s : State) : Quiet s (pick s) := by
  unfold pick; repeat' split
  all_goals first | exact .refl s | exact .of_same

theorem quiet_pickIfSilent (s : State) : Quiet s (pickIfSilent s) := .ite (quiet_pick s) (.refl s)

theorem quiet_repick (id : Nat) (s : State) : Quiet s (repick id s) := by
  unfold repick; split
  · exact .ite (quiet_pick s) (.refl s)
  · exact .refl s

theorem quiet_dropPick (s : State) : Quiet s (dropPick s) := by
  unfold dropPick; split
  · exact .of_same
  · exact .refl s

theorem quiet_admit {d : Dest} {p : Payload} {s t : State} (h : admission d p s = some t) : Quiet s t := by
  unfold admission at h
  split at h
  · simp only [Option.some.injEq] at h
    rw [← h]
    exact Quiet.trans .of_same (quiet_pickIfSilent _)
  · cases h

theorem quiet_askOwed (s : State) : Quiet s (askOwed s) := by
  unfold askOwed
  split
  · exact .refl s
  · split
    · split
      · rename_i h; exact (quiet_admit h).trans .of_same
      · exact .refl s
    · exact .of_same

theorem quiet_departed (id : Nat) (s : State) : Quiet s (departed id s) := (quiet_askOwed s).trans (quiet_repick id _)

theorem quiet_supersede (f : OutFrame) (p : Presence) (s : State) : Quiet s (supersede f p s) := by
  unfold supersede
  exact Quiet.trans .of_same (quiet_departed _ _)

theorem quiet_updatePresence (c : Presence → Presence) (s : State) : Quiet s (updatePresence c s) := by
  unfold updatePresence
  repeat' split
  all_goals first
    | exact .refl s
    | exact quiet_supersede _ _ s
    | exact .of_same

theorem quiet_announceHalt (s : State) : Quiet s (announceHalt s) := by
  unfold announceHalt
  exact (quiet_updatePresence _ s).trans (Quiet.trans .of_same (quiet_askOwed _))

theorem quiet_requestPresence (s : State) : Quiet s (requestPresence s) := by
  unfold requestPresence
  split
  · split
    · exact quiet_updatePresence _ s
    · split
      · rename_i h; exact quiet_admit h
      · exact .refl s
  · exact .refl s

theorem quiet_openHaltRequest (s : State) : Quiet s (openHaltRequest s) :=
  .ite (quiet_announceHalt s) (quiet_askOwed s)

theorem quiet_openPresenceRequest (s : State) : Quiet s (openPresenceRequest s) :=
  (quiet_requestPresence s).trans .of_same

theorem quiet_openOutbound (s : State) : Quiet s (openOutbound s) := by
  unfold openOutbound
  split
  · refine Quiet.trans (t := { s with free := s.free + 1 }) .of_same ?_
    exact .ite ((quiet_openHaltRequest _).trans (quiet_openPresenceRequest _))
      ((quiet_openPresenceRequest _).trans (quiet_openHaltRequest _))
  · exact quiet_openPresenceRequest s

theorem quiet_openLine (s : State) : Quiet s (openLine s) := (quiet_openOutbound s).trans (quiet_dropPick _)

theorem quiet_answerPeer (n : Station) (q : Seq) (k : AnswerKind) (tag : Byte) (s : State) :
    Quiet s (answerPeer n q k tag s) := by
  unfold answerPeer
  split
  · rename_i h; exact quiet_admit h
  · exact quiet_notify _ s

theorem quiet_raiseByCause (c : Cause) (s : State) : Quiet s (raiseByCause c s) := by
  unfold raiseByCause; split
  · exact Quiet.trans .of_same (quiet_announceHalt _)
  · exact .refl s

theorem quiet_trigger (n : Fin 4) (x : Trigger) (s : State) : Quiet s (trigger n x s) := by
  unfold trigger
  simp only
  split
  · exact .of_same
  · exact Quiet.trans .of_same (quiet_notify _ _)

theorem quiet_consumeGate {g : Gate} {s t : State} (h : consumeGate g s = some t) : Quiet s t := by
  unfold consumeGate at h
  split at h
  · simp only at h
    split at h
    · cases h
    · simp only [Option.some.injEq] at h
      rw [← h]; exact .of_same
  · simp only [Option.some.injEq] at h
    rw [← h]; exact .refl s

theorem quiet_replan (s : State) : Quiet s (replan s) := .ite (.refl s) .of_same

theorem quiet_takeOver (n : Entry) (r : Ramp) (d : Dir) (s : State) : Quiet s (takeOver n r d s) := by
  unfold takeOver; exact .of_same

theorem quiet_setStanding (x : Standing) (c : StandingCause) (s : State) : Quiet s (setStanding x c s) :=
  .ite (.refl s) (Quiet.trans .of_same (quiet_notify _ _))

/-! ### Handing on -/

theorem work_handEvaluate (s : State) : (handEvaluate s).work ≤ s.work + 1 := by
  unfold State.work
  rw [handEvaluate_handed, handEvaluate_queue, handEvaluate_watches]
  simp only [if_true]
  omega

theorem work_watchLater (l : List (WatchSource × Position)) (s : State) :
    (watchLater l s).work = s.work + l.length := by
  unfold State.work
  rw [watchLater_handed, watchLater_queue, watchLater_watches]
  simp only [List.length_append]
  omega

theorem work_handGateChange (p : Gate → Bool) (s : State) : (handGateChange p s).work ≤ s.work + 1 := by
  unfold handGateChange
  split
  · exact work_handEvaluate s
  · omega

theorem work_handLoopBack (m : Mark) (p : Option Position) (s : State) :
    (handLoopBack m p s).work = s.work + loopBackWeight := by
  unfold State.work
  rw [handLoopBack_handed, handLoopBack_queue, handLoopBack_watches]
  simp only [List.length_append, List.length_singleton, Nat.mul_add, Nat.mul_one]
  generalize (if s.handed.evaluate = true then 1 else 0) = x
  omega

theorem work_notSent (r : NotSentReason) (m : Mark) (p : Option Position) (o : EmitOrigin) (i : Byte) (s : State) :
    (notSent r m p o i s).work = s.work + loopBackWeight := by
  unfold notSent
  rw [work_handLoopBack, (quiet_notify _ s).work]

theorem work_requestMark (m : Mark) (p : Option Position) (o : EmitOrigin) (i : Byte) (s : State) :
    (requestMark m p o i s).work ≤ s.work + loopBackWeight := by
  unfold requestMark
  split
  · split
    · rename_i h
      rw [(Quiet.trans (quiet_admit h) .of_same : Quiet s _).work]; omega
    · rw [work_notSent]
  · rw [work_notSent]

theorem work_requestMark? (m : Option Mark) (o : EmitOrigin) (i : Byte) (s : State) :
    (requestMark? m o i s).work ≤ s.work + loopBackWeight := by
  unfold requestMark?
  split
  · exact work_requestMark _ _ o i s
  · omega

/-! ### Retirement, flushes, stops -/

theorem work_endMark (e : Entry) (o : Retirement) (s : State) :
    (match o with
      | .completed | .cut => requestMark? e.segment.endMark .finish e.segment.tag s
      | _ => s).work ≤ s.work + loopBackWeight := by
  cases o
  · exact work_requestMark? _ _ _ s
  · exact work_requestMark? _ _ _ s
  · exact Nat.le_add_right s.work loopBackWeight
  · exact Nat.le_add_right s.work loopBackWeight

theorem work_retireEffects (e : Entry) (o : Retirement) (s : State) :
    (retireEffects e o s).work ≤ s.work + loopBackWeight := by
  unfold retireEffects
  simp only
  split
  · rw [(quiet_notify _ _).work]; exact work_endMark e o s
  · rw [(quiet_answerPeer _ _ _ _ _).work, (quiet_notify _ _).work]; exact work_endMark e o s

theorem work_retireFlushed (e : Entry) (s : State) : (retireEffects e .flushed s).work = s.work := by
  unfold retireEffects
  simp only
  split
  · rw [(quiet_notify _ _).work]
  · rw [(quiet_answerPeer _ _ _ _ _).work, (quiet_notify _ _).work]

theorem work_flushEntries (es : List Entry) (s : State) : (flushEntries es s).work = s.work := by
  unfold flushEntries
  induction es generalizing s with
  | nil => rfl
  | cons e es ih => rw [List.foldl_cons, ih, work_retireFlushed]

theorem queueWeight_cons (e : Entry) (rest : List Entry) :
    queueWeight (e :: rest) =
      (if e.state = .running then loopBackWeight + 1 else entryWeight) + entryWeight * rest.length := rfl

theorem le_queueWeight_cons (e : Entry) (rest : List Entry) :
    entryWeight * rest.length + (loopBackWeight + 1) ≤ queueWeight (e :: rest) := by
  rw [queueWeight_cons]
  split <;> simp only [entryWeight, loopBackWeight] <;> omega

/-- The weight of a queue changed with the rest as it was. -/
theorem work_queue (q : List Entry) (a : Axis) (s : State) :
    ({ s with queue := q, axis := a } : State).work + queueWeight s.queue = s.work + queueWeight q := by
  simp only [State.work]; omega

theorem queueWeight_le (q : List Entry) : queueWeight q ≤ entryWeight * q.length := by
  cases q with
  | nil => simp [queueWeight]
  | cons e rest =>
    simp only [queueWeight, List.length_cons, Nat.mul_add]
    split <;> simp only [entryWeight, loopBackWeight] <;> omega

theorem work_retireHead (o : Retirement) (s : State) : (retireHead o s).work ≤ s.work := by
  unfold retireHead
  split
  · rename_i e rest h
    refine le_trans (work_handEvaluate _) ?_
    refine le_trans (Nat.add_le_add_right (work_retireEffects e o _) 1) ?_
    have h1 := work_queue (rest.map Entry.uncommit)
      { s.axis.ended with state := restState (rest.map Entry.uncommit) } s
    have h2 := queueWeight_le (rest.map Entry.uncommit)
    have h3 := le_queueWeight_cons e rest
    rw [h] at h1
    rw [List.length_map] at h2
    omega
  · exact le_rfl

theorem work_flushBehind (s : State) : (flushBehind s).work ≤ s.work := by
  unfold flushBehind
  split
  · rename_i e rest h
    split
    · rw [work_flushEntries]
      have h1 := work_queue [e] s.axis s
      rw [h, queueWeight_cons, queueWeight_cons] at h1
      change State.work { s with queue := [e], axis := s.axis } ≤ _
      simp only [List.length_nil] at h1
      omega
    · rw [work_flushEntries]
      have h1 := work_queue [] { s.axis with state := .idle } s
      rw [show queueWeight [] = 0 from rfl] at h1
      exact Nat.le.intro h1
  · exact le_rfl

theorem work_brake (c : BrakeCause) (r : Nat) (e : Entry) (s : State) : (brake c r e s).work ≤ s.work := by
  unfold brake; split
  · exact work_retireHead _ s
  · exact (Quiet.of_same : Quiet s _).work.le

theorem work_decelerateHead (e : Entry) (s : State) : (decelerateHead e s).work ≤ s.work := by
  unfold decelerateHead; split
  · exact (Quiet.of_same : Quiet s _).work.le
  · exact work_brake _ _ e s
  · exact work_brake _ _ e s
  · exact work_brake _ _ e s
  · exact work_retireHead _ s

theorem work_orderStop (k : StopKind) (s : State) : (orderStop k s).work ≤ s.work := by
  unfold orderStop; split
  · exact work_flushBehind s
  · exact le_trans (work_flushBehind _) (work_retireHead _ s)
  · exact le_trans (work_decelerateHead _ _) (work_flushBehind s)

theorem work_raiseCause (c : Cause) (s : State) : (raiseCause c s).work ≤ s.work := by
  unfold raiseCause; split
  · exact le_rfl
  · rw [(quiet_raiseByCause c _).work]
    refine le_trans (work_orderStop _ _) ?_
    rw [(quiet_notify _ _).work]
    exact le_rfl

theorem work_checkGap (s : State) : (checkGap s).work ≤ s.work := by
  unfold checkGap; split
  · exact work_raiseCause _ s
  · exact le_rfl

/-! ### The plan, junctions, cuts -/

theorem work_commitSecond (s : State) : (commitSecond s).work = s.work := by
  unfold commitSecond; split
  · rename_i h; simp [State.work, queueWeight, h]
  · rfl

theorem quiet_consumeSecond {s t : State} (h : consumeSecond s = some t) : Quiet s t := by
  unfold consumeSecond at h
  split at h
  · split at h
    · simp only [Option.some.injEq] at h; rw [← h]; exact .refl s
    · exact quiet_consumeGate h
  · cases h

theorem work_commitPlan (s : State) : (commitPlan s).work = s.work := by
  unfold commitPlan
  split
  · rfl
  · split
    · rfl
    · split
      · rename_i h
        rw [work_commitSecond]
        exact (Quiet.trans (quiet_consumeSecond h) .of_same : Quiet s _).work
      · rfl

theorem work_decelerationPoint (e : Entry) (s : State) : (decelerationPoint e s).work = s.work := by
  unfold decelerationPoint; split
  · exact work_commitPlan s
  · rfl

theorem work_junction (s : State) : (junction s).work ≤ s.work := by
  unfold junction
  split
  · rename_i e n rest h
    split
    · split
      · refine le_trans (work_requestMark? _ _ _ _) ?_
        rw [(quiet_takeOver _ _ _ _).work]
        refine le_trans (Nat.add_le_add_right (work_retireEffects e .completed _) _) ?_
        have h1 := work_queue ({ n with state := .running, consumed := false } :: rest) s.axis s
        rw [h] at h1
        simp only [queueWeight, List.length_cons, Nat.mul_add, if_true] at h1
        change State.work { s with
          queue := { n with state := .running, consumed := false } :: rest, axis := s.axis } + _ + _ ≤ _
        split at h1 <;> simp only [entryWeight, loopBackWeight] at * <;> omega
      · exact work_retireHead _ s
    · exact work_retireHead _ s
  · exact work_retireHead _ s

theorem work_cutBrake (e : Entry) (s : State) : (cutBrake e s).work ≤ s.work := by
  unfold cutBrake
  refine le_trans (work_brake _ _ e _) ?_
  have h1 := work_queue (s.queue.take 1 ++ (s.queue.drop 1).map Entry.uncommit) s.axis s
  have h2 : queueWeight (s.queue.take 1 ++ (s.queue.drop 1).map Entry.uncommit) = queueWeight s.queue := by
    cases s.queue with
    | nil => rfl
    | cons e rest => simp [queueWeight]
  change State.work { s with
    queue := s.queue.take 1 ++ (s.queue.drop 1).map Entry.uncommit, axis := s.axis } ≤ _
  omega

theorem work_cutChainedRun (e : Entry) (s : State) : (cutChainedRun e s).work ≤ s.work := by
  unfold cutChainedRun
  have h : (commitPlan (replan s)).work = s.work := by rw [work_commitPlan, (quiet_replan s).work]
  simp only
  split
  · split
    · exact h.le
    · exact le_trans (work_junction _) h.le
  · exact le_trans (work_cutBrake e _) h.le

theorem work_takeCut (s : State) : (takeCut s).work ≤ s.work := by
  unfold takeCut
  split
  · exact le_rfl
  · split
    · exact work_retireHead _ s
    all_goals first
      | exact le_rfl
      | (split
         · exact le_rfl
         · split
           · exact work_cutChainedRun _ s
           · exact work_cutBrake _ s)

/-! ### Pulses, ends, finds -/

/-- Taking the two values of a new position adds at most k to the measure. -/
def Adds (watch : WatchTake) (k : Nat) : Prop := ∀ l s, l.length ≤ 2 → (watch l s).work ≤ s.work + k

theorem length_commandValues (s : State) : s.commandValues.length ≤ 2 := by
  unfold State.commandValues; split <;> simp

theorem Adds.jumpPositions {watch : WatchTake} {k : Nat} (hw : Adds watch k) (c m : Position) (s : State) :
    (jumpPositions watch c m s).work ≤ s.work + k := hw _ _ le_rfl

theorem work_refuseStep (s : State) : (refuseStep s).work ≤ s.work := by
  unfold refuseStep
  simp only
  split
  · exact le_trans (work_raiseCause _ _) (work_retireHead _ s)
  · unfold rearmPulse
    split
    · exact work_raiseCause _ s
    · exact work_raiseCause _ s

theorem work_emitPulse (e : Entry) (s : State) : (emitPulse e s).work = s.work := by
  unfold emitPulse; rfl

theorem work_endMove (s : State) : (endMove s).work ≤ s.work := by
  unfold endMove
  have h : (commitPlan (replan s)).work = s.work := by rw [work_commitPlan, (quiet_replan s).work]
  simp only
  split
  · exact le_trans (work_junction _) h.le
  · exact le_trans (work_retireHead _ _) h.le

theorem work_endMotion (s : State) : (endMotion s).work ≤ s.work := by
  unfold endMotion
  split
  · exact le_rfl
  · generalize hs : (_ && _ : Bool) = spent
    clear hs
    simp only
    cases s.axis.state with
    | braking => simp only; split; exacts [work_retireHead _ s, le_rfl]
    | rampUp => simp only; split; exacts [work_endMove s, le_rfl]
    | cruise => simp only; split; exacts [work_endMove s, le_rfl]
    | rampDown =>
      simp only
      split
      · exact work_endMove s
      · split
        · split; exacts [work_retireHead _ s, le_rfl]
        · split; exacts [work_junction s, le_rfl]
    | _ => exact le_rfl

theorem Adds.pulse {watch : WatchTake} {k : Nat} (hw : Adds watch k) (s : State) :
    (pulse watch s).work ≤ s.work + k := by
  unfold Machine.pulse
  split
  · exact Nat.le_add_right _ _
  · rename_i e _
    split
    · have h : (decelerationPoint e (replan s)).work = s.work := by
        rw [work_decelerationPoint, (quiet_replan s).work]
      simp only
      split
      · exact le_trans (work_refuseStep _) (h.le.trans (Nat.le_add_right _ _))
      · refine le_trans (work_endMotion _) (le_trans (work_checkGap _) (le_trans (hw _ _ (length_commandValues _)) ?_))
        rw [work_emitPulse]; exact Nat.add_le_add_right h.le k
    · exact Nat.le_add_right _ _

theorem Adds.zeroAtFind {watch : WatchTake} {k : Nat} (hw : Adds watch k) (z : Bool) (s : State) :
    (zeroAtFind watch z s).work ≤ s.work + k := by
  unfold Machine.zeroAtFind; split
  · exact hw.jumpPositions _ _ s
  · exact Nat.le_add_right _ _

theorem work_stopAtFind (b : Bool) (k : StopKind) (s : State) : (stopAtFind b k s).work ≤ s.work := by
  unfold stopAtFind; split
  · exact work_retireHead _ s
  · exact le_rfl

theorem Adds.seekFind {watch : WatchTake} {k : Nat} (hw : Adds watch k) (b : Bool) (s : State) :
    (seekFind watch b s).work ≤ s.work + k := by
  unfold Machine.seekFind
  split
  · split
    · exact le_trans (work_stopAtFind _ _ _) (hw.zeroAtFind _ _)
    · exact Nat.le_add_right _ _
  · exact Nat.le_add_right _ _

/-! ### Starts and evaluations -/

theorem Adds.startMotion {watch : WatchTake} {k : Nat} (hw : Adds watch k) (g : Segment) (r : Ramp) (d : Dir) (s : State) :
    (startMotion watch g r d s).work ≤ s.work + (loopBackWeight + k) := by
  unfold Machine.startMotion
  simp only
  split
  · exact le_trans (work_raiseCause _ _) (Nat.le_add_right _ _)
  · rw [← Nat.add_assoc]
    split
    · exact le_trans (hw.seekFind _ _) (Nat.add_le_add_right (work_requestMark? _ _ _ _) k)
    · exact le_trans (hw.pulse _) (Nat.add_le_add_right (work_requestMark? _ _ _ _) k)

theorem Adds.runHead {watch : WatchTake} {k : Nat} (hw : Adds watch k) (g : Segment) (s : State) :
    (runHead watch g s).work ≤ s.work + (loopBackWeight + k) := by
  have hm : (requestMark? g.startMark .start g.tag s).work ≤ s.work + loopBackWeight := work_requestMark? _ _ _ s
  unfold Machine.runHead
  split
  · exact hm.trans (by omega)
  · refine le_trans (work_retireHead _ _) (le_trans (work_checkGap _) (le_trans (hw.jumpPositions _ _ _) ?_))
    omega
  · split
    · exact hw.startMotion g _ _ s
    · exact le_trans (work_retireHead _ _) (hm.trans (by omega))

theorem Adds.startHead {watch : WatchTake} {k : Nat} (hw : Adds watch k) (hk : k ≤ 2) (e : Entry)
    (rest : List Entry) (s : State) (h : s.queue = e :: rest) (he : e.state = .waiting) :
    (startHead watch e rest s).work ≤ s.work := by
  unfold Machine.startHead
  split
  · rename_i t ht
    have hq : Quiet s t := by
      split at ht
      · simp only [Option.some.injEq] at ht; rw [← ht]; exact .refl s
      · exact quiet_consumeGate ht
    refine le_trans (hw.runHead _ _) ?_
    have h1 := work_queue ({ e with state := .running, consumed := false } :: rest) t.axis t
    rw [hq.work, hq.queue, h] at h1
    simp only [queueWeight, he, if_true, reduceCtorEq, if_false] at h1
    change State.work { t with
      queue := { e with state := .running, consumed := false } :: rest, axis := t.axis } + _ ≤ _
    simp only [entryWeight, loopBackWeight] at *
    omega
  · exact le_rfl

theorem Adds.evaluateHead {watch : WatchTake} {k : Nat} (hw : Adds watch k) (hk : k ≤ 2) (s : State) :
    (evaluateHead watch s).work ≤ s.work := by
  unfold Machine.evaluateHead
  split
  · rename_i e rest h
    split
    · rename_i hc
      simp only [Bool.and_eq_true, beq_iff_eq] at hc
      exact hw.startHead hk e rest s h hc.1.1
    · exact le_rfl
  · exact le_rfl

/-! ### Watches -/

theorem adds_watchLater : Adds watchLater 2 := fun l s h => by
  rw [work_watchLater]; omega

theorem work_evaluateWithin (n : Nat) (s : State) : (evaluateWithin n s).work ≤ s.work := by
  induction n generalizing s with
  | zero => exact le_rfl
  | succ n ih =>
    unfold evaluateWithin
    split
    · refine le_trans (ih _) (le_trans (adds_watchLater.evaluateHead le_rfl _) ?_)
      simp only [State.work, Bool.false_eq_true, if_false]
      omega
    · exact le_rfl

theorem work_evaluateNow (s : State) : (evaluateNow s).work ≤ s.work := work_evaluateWithin _ s

/-- The weight of the watches with one that was Armed in Hit. -/
theorem watches_hit (l : List Watch) (i : Nat) (r : Watch) (h : (l.getD i .cleared).state = .armed)
    (hr : r.state ≠ .armed) :
    ((l.set i r).map Watch.weight).sum + (loopBackWeight + 1) ≤ (l.map Watch.weight).sum := by
  induction l generalizing i with
  | nil => simp [Watch.cleared] at h
  | cons w l ih =>
    cases i with
    | zero =>
      have h' : w.state = .armed := by simpa using h
      simp [Watch.weight, h', hr]
      omega
    | succ i =>
      have := ih i (by simpa using h)
      simp only [List.set_cons_succ, List.map_cons, List.sum_cons]
      omega

/-- The weight of the watches with one replaced that was Armed. -/
theorem watches_armed (l : List Watch) (i : Nat) (r : Watch) (h : (l.getD i .cleared).state = .armed) :
    ((l.set i r).map Watch.weight).sum ≤ (l.map Watch.weight).sum := by
  induction l generalizing i with
  | nil => simp
  | cons w l ih =>
    cases i with
    | zero =>
      have h' : w.state = .armed := by simpa using h
      simp only [List.set_cons_zero, List.map_cons, List.sum_cons, Watch.weight, h', if_true]
      split <;> omega
    | succ i =>
      have := ih i (by simpa using h)
      simp only [List.set_cons_succ, List.map_cons, List.sum_cons]
      omega

theorem work_watches (l : List Watch) (s : State) :
    ({ s with watches := l } : State).work + (s.watches.map Watch.weight).sum =
      s.work + (l.map Watch.weight).sum := by
  simp only [State.work]; omega

theorem work_hitEffects (w : Fin 4) (r : Watch) (s : State)
    (h : (s.watches.getD w.val .cleared).state = .armed) : (hitEffects w r s).work + 1 ≤ s.work := by
  have h1 := watches_hit s.watches w.val { r with state := .hit } h (by simp)
  have h2 := work_watches (s.watches.set w.val { r with state := .hit }) s
  have h3 : (requestMark? r.mark .watch (byteOfNat w.val)
      (notify (.watchHit w { s with watches := s.watches.set w.val { r with state := .hit } }.headTag)
        { s with watches := s.watches.set w.val { r with state := .hit } })).work + 1 ≤ s.work := by
    refine le_trans (Nat.add_le_add_right (work_requestMark? _ _ _ _) 1) ?_
    rw [(quiet_notify _ _).work]
    omega
  unfold hitEffects
  simp only
  split
  · exact le_trans (Nat.add_le_add_right (work_takeCut _) 1) h3
  · exact h3

theorem work_hitWatch (w : Fin 4) (r : Watch) (s : State)
    (h : (s.watches.getD w.val .cleared).state = .armed) : (hitWatch w r s).work ≤ s.work := by
  unfold hitWatch
  exact le_trans (work_handGateChange _ _) (work_hitEffects w r s h)

theorem work_compareWatch (x : WatchSource) (p : Position) (s : State) (w : Fin 4) :
    (compareWatch x p s w).work ≤ s.work := by
  unfold compareWatch
  simp only
  split
  · rename_i h
    split
    · exact le_trans (work_evaluateNow _) (work_hitWatch w _ s h.1)
    · generalize hr : ({ s.watches.getD w.val .cleared with previous := p } : Watch) = r
      have h1 := watches_armed s.watches w.val r h.1
      have h2 := work_watches (s.watches.set w.val r) s
      omega
  · exact le_rfl

theorem work_compareWatches (x : WatchSource) (p : Position) (s : State) :
    (compareWatches x p s).work ≤ s.work := by
  unfold compareWatches
  have : ∀ (l : List (Fin 4)) (s : State), (l.foldl (compareWatch x p) s).work ≤ s.work := by
    intro l
    induction l with
    | nil => intro s; exact le_rfl
    | cons w l ih => intro s; exact le_trans (ih _) (work_compareWatch x p s w)
  exact this _ s

theorem work_watchNow (l : List (WatchSource × Position)) (s : State) : (watchNow l s).work ≤ s.work := by
  unfold watchNow
  induction l generalizing s with
  | nil => exact le_rfl
  | cons v l ih => exact le_trans (ih _) (work_compareWatches _ _ s)

theorem adds_watchNow : Adds watchNow 0 := fun l s _ => work_watchNow l s

/-! ### Arrivals and what is taken -/

/-- The requests of an own arrival hold no EMIT, so each weighs 2. -/
theorem weight_requests (s : State) (m : Mark) (stamp : Option Position) (l : List (Fin 24)) :
    ((l.filterMap fun n => requestOf s.station { source := s.station, mark := m, stamp } n
      (s.reactions.getD n.val .cleared)).map Request.weight).sum ≤ 2 * l.length := by
  induction l with
  | nil => simp
  | cons n l ih =>
    rw [List.filterMap_cons]
    cases hq : requestOf s.station { source := s.station, mark := m, stamp } n (s.reactions.getD n.val .cleared) with
    | none => simp only [List.length_cons]; omega
    | some q =>
      have hw : q.weight = 2 := by
        unfold requestOf at hq
        split at hq
        · rename_i ha
          simp only [Option.some.injEq] at hq
          rw [← hq]
          unfold Request.weight
          simp only
          split
          · rename_i x hx
            simp only [Reaction.acts, hx, beq_self_eq_true, Bool.not_true, Bool.and_false,
              Bool.false_eq_true] at ha
          · rfl
        · cases hq
      simp only [List.map_cons, List.sum_cons, List.length_cons, hw]
      omega

theorem work_takeRequest (q : Request) (s : State) : (takeRequest q s).work + 1 ≤ s.work + q.weight := by
  unfold takeRequest Request.weight
  split
  · rename_i h; rw [h]; exact Nat.add_le_add_right (work_handGateChange _ s) 1
  · rename_i h; rw [h]; have := work_takeCut s; simp only; omega
  · rename_i h; rw [h, (quiet_trigger _ _ s).work]; simp only; omega
  · rename_i h; rw [h]; have := work_requestMark ‹_› none .reaction (byteOfNat q.entry.val) s; simp only; omega
  · rename_i h; rw [h]
    have := work_orderStop .decelerating (notify (.stoppedByReaction q.entry q.source q.mark) s)
    rw [(quiet_notify _ s).work] at this
    simp only; omega

/-- Each event taken lowers the measure. -/
theorem work_takeHanded (s : State) (h : s.handed.waits = true) : (takeHanded s).work + 1 ≤ s.work := by
  unfold takeHanded
  split
  · rename_i v vs hv
    refine le_trans (Nat.add_le_add_right (work_compareWatches _ _ _) 1) ?_
    simp only [State.work, hv, List.length_cons]
    omega
  rename_i hf
  split
  · rename_i he
    refine le_trans (Nat.add_le_add_right (adds_watchNow.evaluateHead (Nat.zero_le 2) _) 1) ?_
    simp only [State.work, he, if_true, if_false, Bool.false_eq_true]
    omega
  · rename_i he
    split
    · rename_i q qs hq
      refine le_trans (work_takeRequest q _) ?_
      simp only [State.work, hq, List.map_cons, List.sum_cons]
      omega
    · rename_i hq
      split
      · rename_i m ms hm
        have h1 := weight_requests s m.1 m.2 entryIndices
        have h2 : entryIndices.length = 24 := by decide
        simp only [takeArrival, State.work, hq, hm, List.nil_append, List.length_cons, List.map_nil,
          List.sum_nil] at h1 ⊢
        rw [h2] at h1
        simp only [loopBackWeight, Nat.mul_add] at *
        omega
      · rename_i hm
        simp [Handed.waits, hf, he, hq, hm] at h

theorem waits_eq_false_iff (h : Handed) : h.waits = false ↔ h = .empty := by
  cases h with
  | mk f e r l => cases f <;> cases e <;> cases r <;> cases l <;> simp [Handed.waits, Handed.empty]

theorem settleWithin_takes_all (n : Nat) (s : State) (h : s.work ≤ n) : (settleWithin n s).handed.waits = false := by
  induction n generalizing s with
  | zero =>
    cases hw : s.handed.waits with
    | false => exact hw
    | true => have := work_takeHanded s hw; omega
  | succ n ih =>
    unfold settleWithin
    split
    · rename_i hw
      exact ih _ (by have := work_takeHanded s hw; omega)
    · rename_i hw; simpa using hw

/-- settle takes everything handed on. -/
theorem atRest_settle (s : State) : AtRest (settle s) :=
  (waits_eq_false_iff _).1 (settleWithin_takes_all _ s le_rfl)

end Sys2Proof.Machine
end

