-- ==== Sys2Proof/Tests/Slice0.lean ====
section
/-! SUPPORT. Tests: the smoke tests of WellFormed, the layouts of chapter 12 on bytes written out, one or two steps of
each command, and for each statement that has hypotheses a state and operands that meet them. -/

namespace Sys2Proof.Tests

open Sys2Proof Sys2Proof.Machine

set_option Elab.async false

/-! ### Small states -/

/-- The state after a command. -/
def after (c : Instr) (s : State) : State :=
  match exec c s with
  | .next t => t
  | .fault _ | .refused _ => s

/-- A new transaction begun. -/
def again (s : State) : State := { s with port := { s.port with selected := true, taken := false } }

/-- The state after a step. -/
def stepped (s : State) : Option State :=
  match step s with
  | .next t => some t
  | .fault _ | .refused _ => none

/-- Unconfigured, a transaction begun. -/
def fresh : State := { State.reset with port := { Port.cleared with selected := true } }

/-- Configured. -/
def conf : State := { fresh with lifecycle := .configured }

/-- Listening, the receiver hunting. -/
def lis : State := { fresh with lifecycle := .listening, lif := { Lif.cleared with receiver := .hunting } }

/-- Online, the receiver hunting. -/
def on : State := { lis with lifecycle := .online }

/-- The 13 bytes of a RUN Plus: top speed 1000 pps, acceleration 10, tag 5. -/
def runBytes : List Byte := [0x4D, 5, 0, 0, 0, 0, 0xE8, 3, 0, 10, 0, 0, 0]

/-- The 13 bytes of a RUN Minus. -/
def runMinusBytes : List Byte := [0x4D, 5, 0, 0, 0, 1, 0xE8, 3, 0, 10, 0, 0, 0]

/-- The 7 bytes of a DWELL of 3 ms, tag 9. -/
def dwellBytes : List Byte := [0x87, 9, 0, 0, 0, 3, 0]

/-- The speed fields of the segments here. -/
def ramp : Ramp := { top := 1000, accel := 10, decel := 0 }

/-- The segment of runBytes. -/
def runSeg : Segment := { tag := 5, chain := false, gate := .absent, startMark := none, endMark := none, body := .run .plus ramp }

/-- An entry. -/
def entry (b : SegmentBody) (st : EntryState) : Entry :=
  { segment := { runSeg with body := b }, origin := .localPort, state := st, consumed := false }

/-- A segment of tag 5 with neither gate nor marks. -/
def seg (b : SegmentBody) : Segment := { runSeg with body := b }

/-- A waiting DWELL. -/
def dwellEntry : Entry := entry (.dwell 3) .waiting

/-- A running RUN. -/
def runEntry : Entry := entry (.run .plus ramp) .running

/-- Online with an axis state, a speed in units and a queue. -/
def axisAt (st : AxisState) (v : Nat) (q : List Entry) : State :=
  { on with queue := q, axis := { Axis.cleared with state := st, speed := v, remaining := 5, pulseTimer := 1 } }

/-- A RUN in CRUISE at 1000 pps with a DWELL behind it. -/
def cruising : State := axisAt .cruise (1000 * 65536) [runEntry, dwellEntry]

/-- Online with a DWELL running. -/
def dwelling : State := axisAt .dwell 0 [entry (.dwell 3) .running]

/-- A frame record. -/
def frame (id : Nat) (d : Dest) (p : Payload) : OutFrame :=
  { id, dest := d, payload := p, sequence := 2, attempts := 0, inFlight := false, held := none }

/-- A received frame as its sender sends it. -/
def rx (source : Station) (d : Dest) (p : Payload) : RxFrame :=
  { chars := frameChars source (frame 0 d p), framing := false, noise := false }

/-- Online with one frame held and picked. -/
def waiting : State :=
  { on with
    outbound := [frame 7 .broadcast (.halt 9 .immediate)], nextFrame := 8
    lif := { on.lif with transmitter := .waiting, picked := some { frame := 7, gap := 8 } } }

/-- Online with one frame in flight, its attempts so far given. -/
def sending (p : Payload) (attempts : Nat) : State :=
  { on with
    outbound := [{ frame 7 .broadcast p with inFlight := true, attempts }], nextFrame := 8
    lif := { on.lif with transmitter := .sending, flight := some { frame := 7, bits := 0 } } }

/-- The second attempt of a POST of station 3 to this station, its sequence 2. -/
def posting : RxFrame :=
  { chars := frameChars 3 { frame 0 (.station 0) (.post dwellBytes) with attempts := 1 }, framing := false, noise := false }

/-- What a receiver reads of it. -/
def postHeader : RxHeader := { kind := .post, source := 3, dest := .station 0, retry := true, sequence := 2, payload := dwellBytes }

/-- Online, POSTs of station 3 permitted, its last sequence and the retry due of its POST given. -/
def heardFrom3 (q : Seq) (postRetry : Option RxHeader) : State :=
  { on with
    config := { on.config with postMask := 8 }
    roster := on.roster.set 3 { RosterEntry.blank .present with lastSequence := some q, postRetry } }

/-- A PRESENCE with the halt-raised flag given. -/
def presence (raised : Bool) : Presence :=
  { period := 2, axis := 0, reticent := false, haltRaised := raised, faults := false, halts := false, depth := 0
    reason := if raised then 7 else 0 }

/-- Withdrawn with a recovery count. -/
def withdrawn (n : Nat) (s : State) : State := { s with standing := .withdrawn, score := 192, recovery := n }

/-- An input Active. -/
def high (i : Input) (s : State) : State :=
  { s with inputs := s.inputs.set i { newest := true, middle := true, oldest := true } }

/-- ESTOP Active. -/
def estopHigh (s : State) : State := high .estop s

/-- Online, a peer of number 3 in a state, a post to it awaiting. -/
def withPeer (st : PeerState) (s : State) : State :=
  { s with
    roster := s.roster.set 3 { RosterEntry.blank st with lapse := 1, lastSequence := some 9 }
    posts := [{ dest := 3, sequence := 2, tag := 5, state := .awaitingTake, timer := 1, frame := none }] }

/-- A halt-list entry from station 3. -/
def halted3 (s : State) : State :=
  { s with halts := s.halts.set 3 (some { reason := 1, kind := .immediate, learned := .frame }) }

/-- A move in RAMP_UP or CRUISE with a second move behind it, in a state. -/
def pair (chain : Bool) (st : AxisState) (n : EntryState) : State :=
  let e := entry (.moveRel 50 ramp) .running
  axisAt st (1000 * 65536)
    [{ e with segment := { e.segment with chain } }, entry (.moveRel 5 { ramp with top := 300 }) n]

/-- Online in quadrature with ENCB and ENCA low, the positions and the following-gap limit given. -/
def counting (command measured : Position) (limit : BitVec 16) : State :=
  { on with command, measured, config := { on.config with encoder := .quadrature, gapLimit := limit } }

/-- An Armed watch AtOrAbove a value, without a mark. -/
def hitsAt (source : WatchSource) (value : Position) (cut : Bool) : Watch :=
  { source, condition := .atOrAbove, value, mark := none, cutOnHit := cut, state := .armed, previous := value - 1 }

/-- Online and hunting, with the frame in flight carried in Listening-back. -/
def listeningBack (p : Payload) (attempts : Nat) : State :=
  { sending p attempts with lif := { (sending p attempts).lif with transmitter := .listeningBack } }

/-- The DWELL Waiting at the head, ungated. -/
def gated (s : State) : State := { s with queue := [dwellEntry], axis := { s.axis with state := .gated } }

/-- An own halt raised. -/
def raised (how : HaltHow) (s : State) : State := { s with ownHalt := { OwnHalt.clear with raised := true, how } }

/-- A POST from station 3 handed on and not yet taken, a LEAVE to come. -/
def handedOn (s : State) : State :=
  { s with posted := [{ source := 3, sequence := 2, segment := dwellBytes }], pending := [.leave] }

/-- Entry 23 of the Reaction Table set to act every time on mark 63 from anyone. -/
def reacting (a : Action) (s : State) : State :=
  { s with
    reactions := s.reactions.set 23 { Reaction.cleared with inUse := true, mark := 63, action := a, once := false } }

/-- The arrival on which it acts. -/
def arrival : Arrival := { source := 3, mark := 63, stamp := none }

/-! ### WellFormed -/

theorem test_illformed_writeConfig : (Instr.writeConfig [1, 2]).wellFormed = false := by decide
theorem test_illformed_appendSegment : (Instr.appendSegment [0x4D, 5]).wellFormed = false := by decide
theorem test_illformed_postSegment : (Instr.postSegment 3 [0x87, 9]).wellFormed = false := by decide
theorem test_illformed_unknown : (Instr.unknown 0x10).wellFormed = false := by decide
theorem test_illformed_receivedFrameEnd :
    (Instr.receivedFrameEnd { chars := [1, 2, 0x30], framing := false, noise := false }).wellFormed = false := by decide
theorem test_illformed_frameTaken_short :
    (Instr.frameTaken { chars := [1, 2], framing := false, noise := false }).wellFormed = false := by decide
theorem test_illformed_frameTaken_faulty :
    (Instr.frameTaken { rx 3 .broadcast .lift with noise := true }).wellFormed = false := by decide +kernel
theorem test_wellformed :
    (Instr.appendSegment runBytes).wellFormed = true ∧ (Instr.postSegment 3 dwellBytes).wellFormed = true ∧
      (Instr.writeConfig ConfigBlock.default.bytes).wellFormed = true ∧ (Instr.unknown 0xEE).wellFormed = true ∧
      (Instr.frameTaken (rx 3 .broadcast .lift)).wellFormed = true := by decide +kernel

/-! ### Layouts written out (chapter 12) -/

theorem test_crc_31_to_39 : crc16 [0x31, 0x32, 0x33, 0x34, 0x35, 0x36, 0x37, 0x38, 0x39] = 0x29B1#16 := by decide +kernel
theorem test_config_default_bytes : ConfigBlock.default.bytes =
    [10, 20, 0, 0, 0, 0, 200, 0, 100, 0, 0x58, 0, 0, 0, 0, 0, 0, 0, 0, 0, 0, 0x7F, 7] := by decide +kernel
theorem test_config_reads_back : configOfBytes ConfigBlock.default.bytes = some .default := by decide +kernel
theorem test_config_encoder_code_3 : configOfBytes (ConfigBlock.default.bytes.set 10 0x06) = none := by decide +kernel
theorem test_segment_run : segmentOfBytes runBytes = some runSeg := by decide +kernel
theorem test_segment_dwell : segmentOfBytes dwellBytes =
    some { runSeg with tag := 9, body := .dwell 3 } := by decide +kernel
theorem test_segment_moveRel : segmentOfBytes [0x10, 1, 1, 0x83, 0, 0xFE, 0xFF, 0xFF, 0xFF, 0xE8, 3, 0, 10, 0, 0, 0] =
    some { tag := 1, chain := true, gate := .absent, startMark := some 3, endMark := none
           body := .moveRel 0xFFFFFFFE ramp } := by decide +kernel
theorem test_segment_seek_gated :
    segmentOfBytes [0x6D, 1, 0x14, 0, 0x82, 0x13, 0xE8, 3, 0, 10, 0, 0, 0] =
      some { tag := 1, chain := false, gate := .watch 2, startMark := none, endMark := some 2
             body := .seek .minus .limp true .decelerating ramp } := by decide +kernel
theorem test_segment_dwell_chained : segmentOfBytes (dwellBytes.set 2 1) = none := by decide +kernel
theorem test_frame_halt : (frameChars 4 (frame 0 .broadcast (.halt 9 .immediate))).take 5 =
    [0x20, 0x3F, 0x22, 9, 1] := by decide +kernel
theorem test_frame_post_16 :
    (headerBytes 1 { frame 0 (.station 2) (.post (List.replicate 16 0)) with attempts := 1 }) =
      [0x0C, 0xC2, 0x02] := by decide +kernel
theorem test_notice_record : (Notice.segmentRetired 7 (.peer 3 12) .stopped 0).record = [1, 7, 0x83, 0x32, 0] := by
  decide +kernel
theorem test_no_word_spells_a_command : decodeTableWord 8 0x10 = none := rfl

/-! ### Sampling (R82, R108, R109) -/

/-- A bit sampled without noise. -/
def clean (dominant : Bool) : Samples := { newest := dominant, middle := dominant, oldest := dominant }

theorem test_sample_places : samplePlaces 16 = [7, 8, 9] ∧ samplePlaces 128 = [56, 64, 72] := by decide
theorem test_char_as_driven :
    (List.range 256).all (fun n => charOf ((List.range 10).map fun k => clean (charDominant (BitVec.ofNat 8 n) k)) ==
      BitVec.ofNat 8 n) = true := by decide +kernel
theorem test_noise_is_faulty :
    (receivedFrame [[{ clean true with oldest := false }]]).noise = true ∧
      (receivedFrame [[clean true]]).noise = false := by
  decide +kernel
theorem test_candidate : ({ on with lif := { on.lif with idle := 7 } } : State).candidate (clean true) = some .lineActivity ∧
    ({ on with lif := { on.lif with idle := 8 } } : State).candidate (clean true) = some .frameStartRecognised ∧
    on.candidate { clean false with oldest := true } = none := by decide +kernel
theorem test_input_filter : inputRow .in0 .low true = none ∧
    inputRow .in0 (Samples.low.shift true) true = some (.inputChange .in0 true) := by decide

/-! ### The queue of commands -/

theorem test_step_front : step { conf with pending := [.join, .stop] } = exec .join { conf with pending := [.stop] } := rfl
theorem test_step_idle_listen_timer :
    (match step { lis with listenTimer := 1 } with | .next t => t.pending | _ => []) = [.listeningTimerExpiry] := by
  decide +kernel

/-! ### Commands -/

theorem test_hardReset : after (.hardReset { number := 31, rate := 3 }) cruising =
    { State.reset with station := 31, bitRate := .k1000, roster := rosterOf 31 } := by decide +kernel
theorem test_restart : (after (.restart { number := 0, rate := 0 }) (estopHigh on)).faults.byte = 1 := by decide +kernel
theorem test_writeConfig : (after (.writeConfig ConfigBlock.default.bytes) fresh).lifecycle = .configured ∧
    (after (.writeConfig []) fresh).port.result.head? = some 3 := by decide +kernel
theorem test_pulse_mode_is_held : (after (.writeConfig (ConfigBlock.default.bytes.set 10 0x59))
      { conf with axis := { Axis.cleared with dir := .minus } }).directionHigh = false ∧
    ({ conf with axis := { Axis.cleared with dir := .minus, pulseMode := .cwCcw } } : State).directionHigh = false ∧
    (after (.appendSegment runMinusBytes) { on with config := { on.config with pulseMode := .cwCcw } }).axis.pulseOut =
      some .dirCcw := by decide +kernel
theorem test_join : (after .join conf).lifecycle = .listening ∧ (after .join conf).listenTimer = 3200000 := by
  decide +kernel
theorem test_join_dominant :
    (match step (after .join { conf with lif := { conf.lif with dominant := true }, bitPhase := 127 }) with
      | .next t => t.lif.idle | _ => 9) = 0 ∧
    (match step (after .join { conf with bitPhase := 127 }) with | .next t => t.bitPhase | _ => 9) = 1 := by
  decide +kernel
theorem test_leave : (after .leave cruising).queue = [] ∧ (after .leave cruising).lifecycle = .configured := by
  decide +kernel
theorem test_rejoin : (after .rejoin (withdrawn 48 on)).standing = .engaged ∧
    (after .rejoin (withdrawn 47 on)).port.result = [1, 192, 47] := by decide +kernel
theorem test_append_run : (after (.appendSegment runBytes) on).command = 1 ∧
    (after (.appendSegment runBytes) on).axis.state = .rampUp := by decide +kernel
theorem test_append_full : (after (.appendSegment dwellBytes) { conf with queue := List.replicate 32 dwellEntry }).port.result =
    [2] := by decide +kernel
theorem test_flush : (after .flush cruising).queue = [runEntry] ∧ (after .flush cruising).port.result = [0, 1] := by
  decide +kernel
theorem test_stop : (after .stop cruising).axis.state = .braking ∧ (after .stop cruising).queue = [runEntry] := by
  decide +kernel
theorem test_abort : (after .abort cruising).axis.state = .idle ∧
    (after .abort cruising).notices = [.segmentRetired 5 .localPort .stopped 0,
      .segmentRetired 5 .localPort .flushed 0] := by
  decide +kernel
theorem test_acknowledge : (after .acknowledge { on with faults := { FaultSet.empty with softPlus := true } }).faults = .empty := by
  decide +kernel
theorem test_raiseHalt : (after (.raiseHalt 8 1) on).outbound.map (fun f => f.payload) = [.halt 8 .immediate] := by
  decide +kernel
theorem test_liftHalt : (after .liftHalt (again (after (.raiseHalt 8 1) on))).outbound.map (fun f => f.payload) =
    [.halt 8 .immediate, .lift] := by decide +kernel
theorem test_dismiss : (after .dismiss (halted3 on)).notices = [.haltCleared 3 .dismissed] := by decide +kernel
theorem test_emitMark : (after (.emitMark 5 1 0) on).emissions.length = 1 ∧
    (after (.emitMark 5 1 0) conf).notices = [.markNotSent 5 .notOnline .command 0] := by decide +kernel
theorem test_setReaction : ((after (.setReaction 23 32 63 3 63 1) on).reaction 23).action = .emit 63 := by decide +kernel
theorem test_clearReaction : (after (.clearReaction 24) on).port.result = [3] ∧
    ((after (.clearReaction 23) on).reaction 23).inUse = false := by decide +kernel
theorem test_rearm : (after (.rearm 0) on).port.result = [1] := by decide +kernel
theorem test_setWatch : ((after (.setWatch 3 1 0 0 1 0 0) on).watch 3).state = .armed ∧
    (after (.setWatch 3 1 0 0 0 0 0) on).notices = [.watchHit 3 none] := by decide +kernel
theorem test_evaluation_between_watches :
    let w : Watch := { source := .command, condition := .atOrAbove, value := 0, mark := none, cutOnHit := true
                       state := .armed, previous := 0 }
    let s := compareWatches .command 0 { dwelling with
      queue := [entry (.dwell 3) .running, entry (.run .plus ramp) .waiting, dwellEntry]
      watches := [w, w, .cleared, .cleared] }
    s.queue.map (fun e => e.state) = [.running, .waiting] ∧ s.axis.state = .braking ∧ s.command = 1 ∧
      s.handed.values = [(.command, 1), (.measured, 1)] ∧
      s.notices = [.watchHit 0 (some 5), .segmentRetired 5 .localPort .cut 0, .watchHit 1 (some 5)] := by
  decide +kernel
theorem test_start_is_one_operation :
    let s := after (.encoderEdge true false) { counting 4 3 1 with
      queue := [entry (.dwell 3) .running, { entry (.setpos 9) .waiting with
        segment := { seg (.setpos 9) with startMark := some 1, endMark := some 2 } }]
      axis := dwelling.axis, watches := [hitsAt .measured 0 true, hitsAt .measured 0 false, .cleared, .cleared] }
    s.command = 9 ∧ s.measured = 9 ∧ s.faults = .empty ∧
      s.notices.take 3 = [.watchHit 0 (some 5), .segmentRetired 5 .localPort .cut 4,
        .segmentRetired 5 .localPort .completed 9] := by
  decide +kernel
theorem test_setCapture : ((after (.setCapture 3 4) on).capture 3).setup = .in1Falling := by decide +kernel
theorem test_readCapture : (after (.readCapture 0) on).port.result = [0, 0, 0, 0xFF, 0, 0, 0, 0, 0, 0, 0, 0, 0, 0] := by
  decide +kernel
theorem test_postSegment : (after (.postSegment 3 dwellBytes) (withPeer .present on)).posts.length = 2 ∧
    (after (.postSegment 4 dwellBytes) on).port.result = [4] := by decide +kernel
theorem test_post_while_closing :
    (postChecked true 3 dwellBytes (withPeer .present (withdrawn 0 on))).port.result = [2] ∧
    (postChecked false 3 dwellBytes (withPeer .present (withdrawn 0 on))).port.result = [1] ∧
    (after (.postSegment 3 dwellBytes) (withPeer .present (withdrawn 0 on))).port.result = [1] ∧
    (after .transactionBegin { on with closing := true }).closing = false := by decide +kernel
theorem test_readStatus : (after .readStatus cruising).port.result =
    [0, 3, 0xE8, 3, 0, 0, 0, 0, 0, 0, 0, 0, 0, 0, 2, 1, 5, 0, 0, 0, 0, 0] := by decide +kernel
theorem test_readRoster : (after (.readRoster 3) (withPeer .present on)).port.result = [0, 1, 9, 0, 1, 0, 0, 0, 0, 0,
  0] := by
  decide +kernel
theorem test_readHaltList : (after .readHaltList (halted3 on)).port.result = [0, 1, 3, 1, 1, 0] := by decide +kernel
theorem test_readNotice : (after .readNotice { on with notices := [.haltCleared 3 .lift], lost := 2 }).port.result =
    [0, 11, 3, 0, 0, 0, 2, 0, 0, 0, 0] := by decide +kernel
theorem test_unknown : (after (.unknown 0xEE) on).port.result = [6] := by decide +kernel
theorem test_transaction : (after .transactionBegin on).sdo 3 0 = some 4 ∧ (after .transactionBegin on).sdo 3 2 = some 0 ∧
    (after .readHaltList on).sdo 0 1 = some 0 ∧ (after .transactionEnd on).sdo 0 0 = none ∧
    (after .malformedTransaction on).statusByte = 0x84 := by decide +kernel
theorem test_no_transaction : after .stop { cruising with port := .cleared } = { cruising with port := .cleared } ∧
    after .stop (after .flush cruising) = after .flush cruising ∧
    after .malformedTransaction (after (.hardReset { number := 0, rate := 0 }) on) = State.reset := by decide +kernel
theorem test_port_bits : bitsOfByte 0x30 = [false, false, true, true, false, false, false, false] ∧
    on.portRow { number := 0, rate := 0 } ([0x30, 8, 1].flatMap bitsOfByte) = some (.raiseHalt 8 1) ∧
    on.portRow { number := 0, rate := 0 } (([0x30, 8, 1].flatMap bitsOfByte).dropLast) = none ∧
    on.riseRow 7 = some .malformedTransaction ∧ (after .stop on).riseRow 8 = some .transactionEnd ∧
    on.riseRow 0 = some .transactionEnd ∧ State.reset.riseRow 8 = none := by decide +kernel
theorem test_port_words :
    commandOf { number := 0, rate := 0 } 0x40 [5, 2, 0x78, 0x56, 0x34, 0x12] = some (.emitMark 5 2 0x12345678) ∧
    commandOf { number := 0, rate := 0 } 0x50 [3, 1, 0, 2, 1, 0, 0, 0x80, 0, 1] =
      some (.setWatch 3 1 0 2 0x80000001 0 1) ∧
    commandOf { number := 0, rate := 0 } 0x20 dwellBytes = some (.appendSegment dwellBytes) ∧
    commandOf { number := 0, rate := 0 } 0x20 dwellBytes.dropLast = none ∧
    commandOf { number := 0, rate := 0 } 0x74 [] = some (.unknown 0x74) := by decide +kernel
theorem test_segment_bytes : runSeg.bytes = runBytes ∧ ({ seg (.dwell 3) with tag := 9 } : Segment).bytes = dwellBytes := by
  decide +kernel
theorem test_inputChange : (after (.inputChange .estop true) cruising).queue = [] ∧
    (after (.inputChange .estop true) cruising).ownHalt.reason = 1 := by decide +kernel
theorem test_encoderEdge :
    (after (.encoderEdge true false) (counting 0 0 0)).measured = 1 ∧
      (after (.encoderEdge true false) (counting (-1) 0 1)).faults.followingGap = true := by
  decide +kernel
theorem test_stepPulse : (after .stepPulse cruising).command = 1 ∧
  (after .stepPulse cruising).axis.pulseTimer = 16000 := by
  decide +kernel
theorem test_junction_at_a_cut :
    let e := entry (.run .plus ramp) .running
    let s : State :=
      { (axisAt .cruise (300 * 65536)
          [{ e with segment := { e.segment with chain := true } },
            entry (.run .plus { ramp with top := 300 }) .waiting]) with
        config := { on.config with baseSpeed := 100 } }
    (takeCut { s with axis := { s.axis with pulseTimer := 20000 } }).axis.pulseTimer = 20000 ∧
      (takeCut { s with axis := { s.axis with pulseTimer := 20000 } }).runningHead.isSome := by decide +kernel
theorem test_deceleration_point : rampPulses (1000 * 65536) (200 * 65536) 10000 = 48 ∧
    atDecelerationPoint (entry (.moveRel 48 ramp) .running)
      { axisAt .cruise (1000 * 65536) [] with
        axis := { Axis.cleared with state := .cruise, speed := 1000 * 65536, remaining := 48 } } = true ∧
    atDecelerationPoint (entry (.moveRel 49 ramp) .running)
      { axisAt .cruise (1000 * 65536) [] with
        axis := { Axis.cleared with state := .cruise, speed := 1000 * 65536, remaining := 49 } } = false := by
  decide +kernel
theorem test_dwellExpiry : (after .dwellExpiry dwelling).notices = [.segmentRetired 5 .localPort .completed 0] := by
  decide +kernel
theorem test_frameStart : (after .frameStartRecognised waiting).lif.transmitter = .silent := by decide +kernel
theorem test_lineActivity : (after .lineActivity waiting).lif.picked = none ∧
    (after .lineActivity (after .lineActivity waiting)).lif.picked = some { frame := 7, gap := 8 } := by decide +kernel
theorem test_no_idle_while_dominant :
    (match step (after .lineActivity { on with bitPhase := 127 }) with | .next t => t.lif.quiet | _ => 9) = 0 := by
  decide +kernel
theorem test_quietPeriod : (after .quietPeriod (withdrawn 47 on)).standing = .engaged := by decide +kernel
theorem test_idleRound : (after .idleRound on).lif.roundDone = true := by decide +kernel
theorem test_deferralGap : (after .deferralGapReached waiting).lif.transmitter = .sending ∧
    after .deferralGapReached { waiting with lif := { waiting.lif with idle := 9 } } =
      { waiting with lif := { waiting.lif with idle := 9 } } := by decide +kernel
theorem test_gap_reached_by_the_count :
    stepped { waiting with bitPhase := 127, lif := { waiting.lif with idle := 7 } } =
      some { after .deferralGapReached waiting with bitPhase := 0 } := by decide +kernel
theorem test_echoFault : (after .echoFault (sending .lift 0)).score = 8 := by decide +kernel
theorem test_attemptEnd : (after (.attemptEnd false) (sending .lift 0)).outbound = [] ∧
    (after (.attemptEnd true) (sending .lift 7)).notices = [.frameAbandoned .lift .broadcast 2 false] := by decide +kernel
theorem test_receivedFrameEnd : (after (.receivedFrameEnd { rx 3 .broadcast .lift with noise := true }) on).lif.rejectDriven =
    true := by decide +kernel
theorem test_closed_queue_is_emptied :
    let s : State := { on with
      score := 191, standing := .reticent, nextFrame := 3
      outbound := [frame 0 .broadcast (.mark 5 none),
        { frame 1 .broadcast (.presence (presence false)) with attempts := 1 }]
      emissions := [{ mark := 5, stamp := none, origin := .command, index := 0, frame := 0 }]
      config := { on.config with encoder := .quadrature, gapLimit := 1, propagate := 7 }, measured := 4, command := 5
      queue := [{ entry (.setpos 3) .waiting with segment := { seg (.run .plus ramp) with gate := .tally 0 } }]
      axis := { Axis.cleared with state := .gated }
      reactions := on.reactions.set 0
        { inUse := true, source := none, mark := 5, action := .tally, once := false, spent := false, tally := 0,
          overflow := false } }
    (after (.receivedFrameEnd { rx 3 .broadcast .lift with noise := true }) s).outbound = [] ∧
    (after (.receivedFrameEnd { rx 3 .broadcast .lift with noise := true }) s).faults.followingGap = true := by decide +kernel
theorem test_conflict_of_a_closed_queue :
    let t := after (.frameTaken (rx 0 .broadcast .lift)) (withdrawn 5 on)
    t.lifecycle = .conflict ∧ t.closing = false ∧ (after (.postSegment 3 dwellBytes) t).port.result = [1] := by
  decide +kernel
theorem test_frameTruncated : (after .frameTruncated on).score = 1 := by decide +kernel
theorem test_frameTaken : (after (.frameTaken (rx 3 .broadcast (.halt 9 .immediate))) cruising).queue = [] ∧
    (after (.frameTaken (rx 0 .broadcast .lift)) on).lifecycle = .conflict := by decide +kernel
/-- R177: the retry of a POST taken clean is not acted on though a MARK of its poster passed it: no second entry, no second
answer. -/
theorem test_post_retried_behind_a_mark :
    (after (.frameTaken posting) (heardFrom3 3 (some postHeader))).queue = [] ∧
      (after (.frameTaken posting) (heardFrom3 3 (some postHeader))).outbound = [] := by decide +kernel
/-- R124: a POST of the same bytes under the same number, in its first attempt after fifteen other frames, is new. R177: so
is the retry of one that was found faulty. -/
theorem test_post_after_a_mark :
    (after (.frameTaken (rx 3 (.station 0) (.post dwellBytes))) (heardFrom3 1 (some postHeader))).queue.length = 1 ∧
      (after (.frameTaken posting) (heardFrom3 3 none)).queue.length = 1 := by decide +kernel
/-- R119, R134: the retry of a POST may come behind a MARK of its poster, and not behind a PRESENCE. -/
theorem test_retryDue :
    retryDue { postHeader with kind := .mark } (some postHeader) = some postHeader ∧
      retryDue { postHeader with retry := false } none = some postHeader ∧
      retryDue { postHeader with kind := .presence } (some postHeader) = none := by decide
theorem test_listeningTimerExpiry : (after .listeningTimerExpiry lis).lif.picked = some { frame := 0, gap := 200 } := by
  decide +kernel
theorem test_presenceTimerExpiry : (after .presenceTimerExpiry on).presenceTimer = 1600000 := by decide +kernel
theorem test_lapseTimerExpiry : (after (.lapseTimerExpiry 3) (withPeer .present on)).notices =
    [.peerLapsed 3 30, .postLost 3 2 5 .lapsed] := by decide +kernel
theorem test_lapse_after_a_frame : (after (.lapseTimerExpiry 3) (after (.frameTaken (rx 3 .broadcast .lift))
    (withPeer .present on))).notices = [] := by decide +kernel
theorem test_answerTimerExpiry : (after (.answerTimerExpiry 3 2) (withPeer .present on)).notices =
    [.postLost 3 2 5 .unanswered] := by decide +kernel
/-! ### What meets the hypotheses of each statement -/

theorem test_leave_before_a_post_handed_on : (after .leave (handedOn on)).notices =
    [.answerDropped 9 3 2 (.refused .notPermitted)] ∧
    (after .leave (handedOn { on with config := { on.config with postMask := 8 } })).notices =
      [.answerDropped 9 3 2 (.refused .state)] := by decide +kernel

theorem witness_StepTakesTheFrontCommand :
    ({ conf with pending := [.join, .stop] } : State).pending = .join :: [.stop] := by
  decide +kernel

theorem witness_IdleStepCountsOneClockPeriod :
    (on.pending = [] ∧ cruising.axis.pulseTimer = 1 ∧ ({ Axis.cleared with dwellTimer := 1 } : Axis).dwellTimer = 1) ∧
      (({ lis with listenTimer := 1, presenceTimer := 1 } : State).pending = []) ∧
      ((withPeer .present on).onLine ∧ ((withPeer .present on).peer 3).lapse = 1) ∧
      (∀ e ∈ (withPeer .present on).posts, e.timer = 1) ∧
      (on.bitPhase + 1 < on.bitRate.periods ∧ 126 + 1 < on.bitRate.periods ∧ on.bitRate.periods ≤ 127 + 1) ∧
      (({ on with bitPhase := 127 } : State).lif.receiver = .hunting ∧ on.lif.dominant = false ∧
        on.lif.transmitter = .silent ∧ ¬(319 ≤ 318) ∧ 319 ≤ ({ on.lif with quiet := 319 } : Lif).quiet ∧
        519 ≤ ({ on.lif with idle := 519 } : Lif).idle) ∧
      (waiting.lif.transmitter = .waiting ∧ waiting.pending = [] ∧ ({ waiting.lif with idle := 7 } : Lif).idle < 519 ∧
        waiting.canSend ∧ (waiting.lif.picked.filter fun p => p.gap == 7 + 1).isSome) ∧
      ((sending .lift 0).pending = [] ∧ (sending .lift 0).lif.transmitter = .sending ∧
        ((sending .lift 0).charsInFlight.getD []).length = 5 ∧ 10 * 5 ≤ 49 + 1 ∧ ¬(10 * 5 ≤ 48 + 1)) := by
  decide +kernel

theorem witness_RestartRefillsTheFaultSet : on.awaitsCommand ∧ (estopHigh on).awaitsCommand := by
  decide +kernel

theorem witness_JoinStartsListeningAndOthersAreRefused :
    (conf.awaitsCommand ∧ conf.lifecycle = .configured ∧ on.awaitsCommand ∧ on.lifecycle ≠ .configured) ∧
      (conf.lifecycle ≠ .listening ∧ conf.lifecycle ≠ .online) ∧
      (AtRest lis ∧ lis.awaitsCommand ∧ lis.lifecycle ≠ .unconfigured ∧ lis.lifecycle ≠ .configured) := by
  decide +kernel

theorem witness_LeaveTakesTheStationOffTheLine :
    cruising.awaitsCommand ∧ cruising.onLine ∧ QueueInOrder cruising ∧ lis.awaitsCommand ∧ lis.onLine ∧
      QueueInOrder lis := by
  decide +kernel

theorem witness_LeaveRefusesAPostHandedOn :
    let s := handedOn on
    s.awaitsCommand ∧ s.onLine ∧ QueueInOrder s ∧ s.posted.length = 1 ∧ (after .leave s).notices.length < 16 := by
  decide +kernel

theorem witness_WriteConfigReplacesTheBlock :
    (AtRest conf ∧ conf.awaitsCommand ∧ conf.lifecycle = .configured ∧ AtRest fresh ∧ fresh.awaitsCommand ∧
      fresh.lifecycle = .unconfigured) ∧
      (configOfBytes (ConfigBlock.default.bytes.set 0 1) = none ∧
        (configOfBytes (ConfigBlock.default.bytes.set 0 2)).isSome) ∧
      (∀ c ∈ configOfBytes (ConfigBlock.default.bytes.set 0 2), c.activeHigh = conf.config.activeHigh ∧
        c.encoder = conf.config.encoder ∧ c.gapLimit = conf.config.gapLimit) ∧
      ((configOfBytes (ConfigBlock.default.bytes.set 10 0x5A)).isSome ∧ NoWatchArmed conf ∧
        ∀ c ∈ configOfBytes (ConfigBlock.default.bytes.set 10 0x5A), c.activeHigh = conf.config.activeHigh ∧
        c.encoder ≠ conf.config.encoder) := by
  decide +kernel

theorem witness_WriteConfigChangesAnActiveLevel :
    let c (i : Input) : ConfigBlock := { conf.config with activeHigh := conf.config.activeHigh ^^^ (1#7 <<< inputCode i) }
    (configOfBytes (c .estop).bytes = some (c .estop) ∧ configOfBytes (c .drvflt).bytes = some (c .drvflt)) ∧
      ((conf.inputs.get .estop).level == (c .estop).activeHigh.getLsbD (inputCode .estop)) = true ∧
      ((conf.inputs.get .drvflt).level == (c .drvflt).activeHigh.getLsbD (inputCode .drvflt)) = true ∧
      (((estopHigh conf).inputs.get .estop).level == (c .estop).activeHigh.getLsbD (inputCode .estop)) = false ∧
      QueueInOrder conf ∧ AtRest (estopHigh conf) ∧ (estopHigh conf).awaitsCommand ∧ conf.faults.estop = false ∧
      conf.faults.drvflt = false ∧ conf.notices.length < 16 ∧ (c .estop).propagate.getLsbD 0 = true := by
  decide +kernel

theorem witness_WriteConfigMakesAnEdge :
    let c : ConfigBlock := { conf.config with activeHigh := conf.config.activeHigh ^^^ (1#7 <<< inputCode .in1) }
    let s : State := { conf with captures := conf.captures.set 3 { Capture.cleared with setup := .in1Rising } }
    configOfBytes c.bytes = some c ∧ AtRest s ∧ s.awaitsCommand ∧ TablesFit s ∧ s.queue = [] ∧
      ((s.inputs.get .in1).level == c.activeHigh.getLsbD (inputCode .in1)) = true ∧
      ∀ m : Fin 4, (s.captures.getD m.val .cleared).setup = .in1Rising ↔ m = 3 := by
  decide +kernel

theorem witness_WriteConfigChangesTheGapLimit :
    let s : State := { counting 6 0 0 with lifecycle := .configured }
    let c (n : BitVec 16) : ConfigBlock := { s.config with gapLimit := n }
    AtRest s ∧ s.awaitsCommand ∧ QueueInOrder s ∧ s.faults.followingGap = false ∧
      configOfBytes (c 5).bytes = some (c 5) ∧ configOfBytes (c 6).bytes = some (c 6) ∧ (c 5).gapLimit ≠ s.config.gapLimit ∧
      (c 5).encoder ≠ .off ∧ (c 5).gapLimit.toNat < (s.command - s.measured).toInt.natAbs ∧
      ¬((c 6).gapLimit.toNat < (s.command - s.measured).toInt.natAbs) := by
  decide +kernel

theorem witness_RejoinReturnsToEngaged :
    ((withdrawn 48 lis).awaitsCommand ∧ (withdrawn 48 lis).standing = .withdrawn ∧ (withdrawn 48 lis).onLine ∧
      48 ≤ (withdrawn 48 lis).recovery ∧ (withdrawn 48 lis).notices.length < 16 ∧
      (withdrawn 48 lis).lifecycle = .listening) ∧
      ((withdrawn 48 on).awaitsCommand ∧ (withdrawn 48 on).lifecycle = .online ∧ (withdrawn 48 on).outbound = []) ∧
      (let s : State := { withdrawn 48 on with ownHalt := { OwnHalt.clear with raised := true } };
        s.ownHalt.raised ∧ s.awaitsCommand ∧ s.onLine ∧ s.outbound = []) ∧
      (on.standing ≠ .withdrawn ∧ (withdrawn 48 conf).onLine = false ∧ (withdrawn 48 conf).awaitsCommand ∧
        (withdrawn 47 on).recovery < 48) := by
  decide +kernel

theorem witness_AppendChecksInOrderAndJoinsTheTail :
    (AtRest on ∧ on.awaitsCommand ∧ fresh.takesAppends = false ∧ fresh.awaitsCommand ∧ conf.takesAppends) ∧
      ((halted3 on).takesAppends ∧ (halted3 on).halted ∧ (halted3 on).awaitsCommand) ∧
      (({ conf with queue := List.replicate 32 dwellEntry } : State).halted = false ∧
        32 ≤ (List.replicate 32 dwellEntry).length) ∧
      (validSegment on.config (dwellBytes.set 5 0) = none ∧ (validSegment on.config dwellBytes).isSome) ∧
      (({ on with queue := List.replicate 31 dwellEntry } : State).queue.length < 32 ∧ conf.lifecycle ≠ .online ∧
        conf.awaitsCommand ∧ conf.halted = false) := by
  decide +kernel

/-- The hypotheses of AppendedRunStartsAtOnce, for a segment. -/
abbrev mayAppend (g : Segment) (s : State) : Prop :=
  AtRest s ∧ s.awaitsCommand ∧ s.lifecycle = .online ∧ s.halted = false ∧ s.queue = [] ∧
    validSegment s.config g.bytes = some g ∧ NoWatchArmed s

theorem witness_AppendedRunStartsAtOnce :
    (mayAppend { seg (.dwell 3) with gate := .tally 23 } on ∧ on.gateOpen (.tally 23) = false) ∧
      (mayAppend (seg (.run .plus ramp)) on ∧ on.config.encoder = .off ∧ on.config.softEnabled = false ∧
        on.inputActive (limitInput .plus) = false ∧ on.config.baseSpeed.toNat < ramp.top ∧ 200 < 201) ∧
      (mayAppend (seg (.run .minus ramp)) on ∧ on.inputActive (limitInput .minus) = false ∧
        (0x7FFFFFFE#32).toInt < 2147483647 ∧ -2147483648 < (0x80000001#32).toInt) ∧
      (mayAppend (seg (.run .plus ramp)) (high .limp on) ∧ (high .limp on).inputActive (limitInput .plus)) := by
  decide +kernel

theorem witness_AppendedMovesStart :
    (mayAppend (seg (.moveRel 0x80000001 ramp)) on ∧ (0x80000001#32).toInt = -(2147483647 : Nat) ∧
      on.inputActive (limitInput .minus) = false ∧ on.outbound.length < 10 ∧ on.canSend) ∧
      (mayAppend (seg (.moveRel 1 ramp)) on ∧ (1#32).toInt = (1 : Nat) ∧ (seg (.moveRel 1 ramp)).endMark = none) ∧
      (mayAppend { seg (.run .plus { ramp with top := 200 }) with startMark := some 63 } on ∧
        200 ≤ on.config.baseSpeed.toNat) ∧
      (let s : State := { on with command := 0x80000000, measured := 0x80000000 };
        mayAppend (seg (.moveAbs 0x7FFFFFFF ramp)) s ∧
        (0x7FFFFFFF#32).toInt = s.command.toInt + (4294967295 : Nat) ∧ s.command.toInt < 2147483647) := by
  decide +kernel

theorem witness_AppendedStartIsRefused :
    let s : State := { on with config := { on.config with softEnabled := true, softMin := 0, softMax := 9 } }
    mayAppend { seg (.moveRel (-1) ramp) with startMark := some 3 } s ∧ s.inputActive (limitInput .minus) = false ∧
      s.config.softMin = s.command ∧ s.notices.length < 15 ∧ (-1#32).toInt = -(1 : Nat) := by
  decide +kernel

theorem witness_AppendedSetposAsksForItsMarks :
    mayAppend { seg (.setpos 5) with startMark := some 0, endMark := some 63 } on ∧ on.canSend ∧
      ({ on with outbound := List.replicate 8 (frame 0 .broadcast .lift) } : State).outbound.length < 9 := by
  decide +kernel

theorem witness_AppendedDwellsStart :
    (mayAppend (seg (.dwell 65535)) on ∧ on.gateOpen .absent ∧ (seg (.dwell 1)).startMark = none) ∧
      (let s : State := { on with reactions := on.reactions.set 23 { Reaction.cleared with inUse := true, tally := 1 } };
        mayAppend { seg (.dwell 1) with gate := .tally 23 } s ∧ s.gateOpen (.tally 23)) := by
  decide +kernel

theorem witness_AppendedHeadsComplete :
    (mayAppend (seg (.setpos 0x80000000)) on ∧ (seg (.setpos 0)).startMark = none ∧ (seg (.setpos 0)).endMark = none) ∧
      mayAppend (seg (.moveAbs on.command ramp)) on ∧
      (mayAppend (seg (.seek .minus .limn true .immediate ramp)) (high .limn on) ∧ (high .limn on).inputActive .limn ∧
        limitInput .minus = .limn) ∧
      (mayAppend (seg (.seek .plus .in1 false .decelerating ramp)) (high .in1 on) ∧
        (high .in1 on).inputActive .in1 ∧ (high .in1 on).inputActive (limitInput .plus) = false) := by
  decide +kernel

theorem witness_FlushRemovesWhatHasNotRun :
    (AtRest cruising ∧ cruising.awaitsCommand ∧ cruising.notices.length + 2 * cruising.queue.length ≤ 16) ∧
      (({ cruising with notices := List.replicate 12 (.haltCleared 3 .lift) } : State).notices.length +
        2 * cruising.queue.length = 16) := by
  decide +kernel

theorem witness_StopAndAbortEndTheMotion :
    (AtRest on ∧ on.awaitsCommand ∧ on.queue = []) ∧
      (AtRest cruising ∧ cruising.awaitsCommand ∧ QueueInOrder cruising ∧ cruising.queue.head? = some runEntry ∧
        runEntry.state = .running ∧ cruising.axis.state = .cruise ∧
        cruising.config.baseSpeed.toNat * 65536 < cruising.axis.speed) ∧
      (on.config.baseSpeed.toNat * 65536 < (axisAt .rampUp (200 * 65536 + 1) [runEntry]).axis.speed ∧
        (axisAt .rampDown (200 * 65536 + 1) [runEntry]).axis.state = .rampDown) ∧
      (QueueInOrder dwelling ∧ AtRest dwelling ∧ dwelling.awaitsCommand ∧
        dwelling.queue.head? = some (entry (.dwell 3) .running) ∧ dwelling.notices.length < 16) := by
  decide +kernel

theorem witness_AcknowledgeRemovesCausesThatHaveGone :
    (AtRest on ∧ on.awaitsCommand ∧ HeadStays on ∧ on.faults = .empty ∧
      HeadStays (axisAt .gated 0 [{ dwellEntry with segment := { runSeg with gate := .tally 0 } }])) ∧
      ((estopHigh { on with faults := { FaultSet.empty with estop := true } }).faults ≠ .empty ∧
        (estopHigh { on with faults := { FaultSet.empty with estop := true } }).faults.followingGap = false) ∧
      (({ on with faults := { FaultSet.empty with followingGap := true } } : State).faults.followingGap ∧
        gapExceeds { on with faults := { FaultSet.empty with followingGap := true } } = false) ∧
      (gapExceeds { on with
        faults := { FaultSet.empty with followingGap := true }
        config := { on.config with encoder := .quadrature, gapLimit := 5 }, command := 6 } = true ∧ on.queue = []) ∧
      (gapExceeds { on with config := { on.config with encoder := .quadrature, gapLimit := 5 }, command := 5 } = false) := by
  decide +kernel

theorem witness_AcknowledgeStartsTheHead :
    let s := gated (raised .cause { on with faults := { FaultSet.empty with softPlus := true } })
    AtRest s ∧ s.awaitsCommand ∧ s.faults ≠ .empty ∧ s.faults.followingGap = false ∧ s.faults.estop = false ∧
      s.faults.drvflt = false ∧ s.ownHalt.how = .cause ∧ s.haltListed = false ∧ s.lifecycle = .online ∧
      DwellWaits dwellEntry 3 s ∧ s.canSend ∧ s.outbound.length < 12 := by
  decide +kernel

theorem witness_RaiseHaltStopsAndAnnounces :
    (AtRest cruising ∧ cruising.awaitsCommand ∧ QueueInOrder cruising ∧ 2 ≤ (2 : Byte).toNat ∧ (1 : Byte).toNat < 2) ∧
      (on.canSend ∧
        ({ on with outbound := List.replicate 11 (frame 0 .broadcast .lift) } : State).outbound.length < 12 ∧
        on.ownHalt.owed = .none) ∧
      (lis.canSend = false ∧ AtRest lis ∧ lis.awaitsCommand ∧ QueueInOrder lis) := by
  decide +kernel

theorem witness_LiftHaltFollowsItsTable :
    let raised (s : State) : State := raised .command s
    (AtRest on ∧ on.awaitsCommand ∧ HeadStays on ∧ on.ownHalt.raised = false) ∧
      (AtRest (raised on) ∧ (raised on).awaitsCommand ∧ HeadStays (raised on) ∧ (raised on).ownHalt.raised ∧
        (raised on).ownHalt.how = .command) ∧
      (let s : State := raised { on with faults := { FaultSet.empty with drvflt := true } };
        AtRest s ∧ HeadStays s ∧ (s.faults.drvflt && s.config.propagate.getLsbD 1)) := by
  decide +kernel

theorem witness_LiftHaltStartsTheHead :
    let s := gated (raised .command on)
    AtRest s ∧ s.awaitsCommand ∧ s.ownHalt.raised ∧ s.ownHalt.how = .command ∧ s.faults = .empty ∧
      s.haltListed = false ∧ s.lifecycle = .online ∧ DwellWaits dwellEntry 3 s ∧ s.canSend ∧
      s.outbound.length < 12 ∧ s.ownHalt.owed = .none := by
  decide +kernel

theorem witness_DismissRemovesSilentSources :
    (AtRest (halted3 on) ∧ (halted3 on).awaitsCommand ∧ HeadStays (halted3 on) ∧ StationTablesFit (halted3 on) ∧
      ((halted3 on).haltOf 3).isSome ∧ ((halted3 on).peer 3).state = .absent) ∧
      (((halted3 (withPeer .lapsed on)).peer 3).state = .lapsed ∧
        ((halted3 (withPeer .present on)).peer 3).state = .present) := by
  decide +kernel

theorem witness_DismissStartsTheHead :
    let s := gated (halted3 on)
    AtRest s ∧ s.awaitsCommand ∧ StationTablesFit s ∧ DwellWaits dwellEntry 3 s ∧ s.lifecycle = .online ∧
      s.faults = .empty ∧ s.ownHalt.raised = false ∧ s.haltListed ∧
      ∀ n : Fin 32, (s.haltOf n).isSome → (s.peer n).state = .lapsed ∨ (s.peer n).state = .absent := by
  decide +kernel

theorem witness_EmitMarkSendsOrLoopsBack :
    (AtRest on ∧ on.awaitsCommand ∧ 64 ≤ (64 : Byte).toNat ∧ 3 ≤ (3 : Byte).toNat ∧ (63 : Byte).toNat < 64 ∧
      (2 : Byte).toNat < 3) ∧
      (on.canSend ∧
        ({ on with outbound := List.replicate 9 (frame 0 .broadcast .lift) } : State).outbound.length < 10) ∧
      (AtRest conf ∧ conf.awaitsCommand ∧ conf.canSend = false ∧ NoEntryActs 63 none conf ∧
        10 ≤ (List.replicate 10 (frame 0 .broadcast .lift)).length) := by
  decide +kernel

theorem witness_SetReactionWritesTheEntry :
    (AtRest on ∧ on.awaitsCommand ∧ ¬((24 : Byte).toNat < 24) ∧ (23 : Byte).toNat < 24 ∧ (32 : Byte).toNat ≤ 32 ∧
      ¬((33 : Byte).toNat ≤ 32)) ∧
      ((63 : Byte).toNat < 64 ∧ ((3 : Byte) = 3 ∧ (63 : Byte).toNat < 64) ∧ (1 : Byte).toNat < 2) := by
  decide +kernel

theorem witness_ClearReactionFreesTheEntry :
    AtRest on ∧ on.awaitsCommand ∧ 24 ≤ (24 : Byte).toNat ∧ (23 : Byte).toNat < 24 := by
  decide +kernel

theorem witness_RearmArmsTheEntry :
    let s : State := { on with reactions := on.reactions.set 23 { Reaction.cleared with inUse := true } }
    (on.awaitsCommand ∧ 24 ≤ (24 : Byte).toNat ∧ (23 : Byte).toNat < 24 ∧
      (on.reactions.getD 23 .cleared).inUse = false) ∧
      (s.awaitsCommand ∧ (s.reactions.getD 23 .cleared).inUse ∧ (s.reactions.getD 23 .cleared).spent = false) := by
  decide +kernel

theorem witness_ArrivalChangesEveryActingEntry :
    (TablesFit on ∧ ((on.reaction 23).acts on.station { source := 3, mark := 63, stamp := none }) = false) ∧
      (((after (.setReaction 23 32 63 0 0 0) on).reaction 23).acts on.station { source := 3, mark := 63, stamp := none } = true) := by
  decide +kernel

/-- The hypotheses of ArrivalChangesEveryActingEntry for the request of entry 23. -/
abbrev actsAlone (a : Action) (s : State) : Prop :=
  TablesFit s ∧ AtRest s ∧ (s.reaction 23).action = a ∧
    ∀ k : Fin 24, (s.reaction k).acts s.station arrival = true ↔ k = 23

theorem witness_TallyRequestStartsTheHead :
    let e : Entry := { dwellEntry with segment := { seg (.dwell 3) with gate := .tally 23 } }
    let s := reacting .tally { gated on with queue := [e] }
    actsAlone .tally s ∧ actsAlone .tally (reacting .tally on) ∧ s.queue = [e] ∧ e.state = .waiting ∧
      e.consumed = false ∧ e.segment.startMark = none ∧ s.mayStart := by
  decide +kernel

theorem witness_CutRequestBrakes :
    let s := reacting .cut cruising
    actsAlone .cut s ∧ s.runningHead = some runEntry ∧ runEntry.segment.chain = false ∧ s.axis.found = false ∧
      s.axis.state = .cruise ∧ s.config.baseSpeed.toNat * 65536 < s.axis.speed := by
  decide +kernel

theorem witness_CutRequestEndsADwell :
    let e : Entry := { entry (.dwell 3) .running with segment := { seg (.dwell 3) with endMark := some 63 } }
    let s := reacting .cut (axisAt .dwell 0 [e])
    actsAlone .cut s ∧ s.runningHead = some e ∧ s.axis.state = .dwell ∧ e.origin = .localPort ∧ s.canSend ∧
      s.outbound.length < 10 := by
  decide +kernel

theorem witness_CutRequestFindsNothingToCut :
    actsAlone .cut (reacting .cut on) ∧ (reacting .cut on).runningHead = none ∧
      actsAlone .cut (reacting .cut (axisAt .braking (201 * 65536) [runEntry])) := by
  decide +kernel

theorem witness_CutRequestLeavesASeekPastItsFind :
    let t := axisAt .rampDown (201 * 65536) [entry (.seek .plus .home false .decelerating ramp) .running]
    let s := reacting .cut { t with axis := { t.axis with found := true } }
    actsAlone .cut s ∧ s.runningHead.isSome ∧ s.axis.state = .rampDown ∧ s.axis.found = true := by
  decide +kernel

theorem witness_CaptureRequestTriggers :
    let s := reacting (.capture 3) cruising
    actsAlone (.capture 3) s ∧ (s.captures.getD 3 .cleared).valid = false ∧
      actsAlone (.capture 3) (trigger 3 .none s) ∧ ((trigger 3 .none s).captures.getD 3 .cleared).valid := by
  decide +kernel

theorem witness_EmitRequestAsks :
    let s := reacting (.emit 63) { on with outbound := List.replicate 9 (frame 0 .broadcast .lift) }
    actsAlone (.emit 63) s ∧ s.canSend ∧ s.outbound.length < 10 ∧
      actsAlone (.emit 63) (reacting (.emit 63) (withdrawn 0 on)) ∧ (withdrawn 0 on).canSend = false := by
  decide +kernel

theorem witness_StopRequestStops :
    let s := reacting .stopLocal cruising
    actsAlone .stopLocal s ∧ QueueInOrder s ∧ s.notices.length < 16 := by
  decide +kernel

/-- The hypotheses of SetWatchWritesAndArms for a hit that cuts, with the head of a state. -/
abbrev mayCut (e : Entry) (s : State) : Prop :=
  AtRest s ∧ s.awaitsCommand ∧ TablesFit s ∧ s.runningHead = some e ∧ e.segment.chain = false ∧ s.axis.found = false

theorem witness_SetWatchWritesAndArms :
    (AtRest on ∧ on.awaitsCommand ∧ TablesFit on ∧ ¬((4 : Byte).toNat < 4) ∧ (3 : Byte).toNat < 4 ∧
      (markOfByte 0xBF).isSome ∧ markOfByte 0xC0 = none) ∧
      (markOfByte 0 = some none ∧ (0#32).toInt ≤ on.command.toInt ∧ ¬((1#32).toInt ≤ on.command.toInt)) ∧
      (HeadStays { on with watches := on.watches.set 3 { Watch.cleared with state := .hit } }) ∧
      (mayCut runEntry cruising ∧ cruising.config.baseSpeed.toNat * 65536 < cruising.axis.speed ∧
        cruising.axis.state = .cruise) ∧
      (mayCut runEntry (axisAt .braking (201 * 65536) [runEntry]) ∧ (axisAt .braking 0 []).axis.state = .braking) ∧
      (mayCut (entry (.dwell 3) .running) dwelling ∧ dwelling.axis.state = .dwell ∧
        dwelling.queue = [entry (.dwell 3) .running] ∧ (entry (.dwell 3) .running).segment.endMark = none) ∧
      (mayCut runEntry (axisAt .cruise (200 * 65536) [runEntry]) ∧ (axisAt .cruise (200 * 65536) []).axis.speed ≤
        on.config.baseSpeed.toNat * 65536 ∧ runEntry.origin = .localPort) := by
  decide +kernel

theorem witness_ChainedHeadIsCut :
    let s := pair true .rampDown .committed
    (s.runningHead.any fun e => e.segment.chain && !e.segment.body.isRun) ∧ s.axis.found = false ∧
      s.config.baseSpeed.toNat * 65536 < s.axis.speed ∧ s.axis.state = .rampDown ∧ AtRest s ∧ s.awaitsCommand ∧
      TablesFit s := by
  decide +kernel

theorem witness_WatchConditionsAreJudged :
    ((5#32).toInt = (4#32).toInt + 1 ∧ (4#32).toInt = (5#32).toInt - 1) ∧
      (TablesFit (after (.setWatch 3 1 0 0 1 0 0) on) ∧
        ((after (.setWatch 3 1 0 0 1 0 0) on).watch 3).state = .armed ∧
        ((after (.setWatch 3 1 0 0 1 0 0) on).watch 3).source = .command) := by
  decide +kernel

theorem witness_CaptureSlotsAreSetAndFilled :
    let sets (k : CaptureSetup) (s : State) : State :=
      { s with captures := s.captures.set 3 { Capture.cleared with setup := k } }
    (on.awaitsCommand ∧ 4 ≤ (4 : Byte).toNat ∧ (3 : Byte).toNat < 4 ∧ 5 ≤ (5 : Byte).toNat ∧ (4 : Byte).toNat < 5) ∧
      ((on.captures.getD 3 .cleared).valid = false ∧
        ((trigger 3 (.reaction 0) on).captures.getD 3 .cleared).valid) ∧
      (let s := sets .in0Rising on;
        AtRest s ∧ TablesFit s ∧ s.queue = [] ∧ (s.inputs.get .in0).level ≠ true ∧
        (true == s.config.activeHigh.getLsbD (inputCode .in0)) = true ∧
        ∀ m : Fin 4, (s.captures.getD m.val .cleared).setup = .in0Rising ↔ m = 3) ∧
      (let s := sets .in1Falling (high .in1 on);
        AtRest s ∧ TablesFit s ∧ s.queue = [] ∧ (s.inputs.get .in1).level ≠ false ∧
        (false == s.config.activeHigh.getLsbD (inputCode .in1)) = false ∧
        ∀ m : Fin 4, (s.captures.getD m.val .cleared).setup = .in1Falling ↔ m = 3) := by
  decide +kernel

theorem witness_ReadCaptureEmptiesTheSlot :
    TablesFit on ∧ on.awaitsCommand ∧ 4 ≤ (4 : Byte).toNat ∧ (3 : Byte).toNat < 4 ∧
      on.captures.getD 3 .cleared = { Capture.cleared with setup := (on.captures.getD 3 .cleared).setup } := by
  decide +kernel

theorem witness_PostSegmentChecksInOrder :
    (on.awaitsCommand ∧ 32 ≤ (32 : Byte).toNat ∧ (31 : Byte).toNat < 32 ∧ lis.canSend = false ∧ lis.awaitsCommand ∧
      lis.closing = false ∧ on.canSend ∧ (on.peer 31).state ≠ .present) ∧
      (let s : State := { withPeer .present (withdrawn 0 on) with closing := true };
        s.awaitsCommand ∧ s.canSend = false ∧ s.closing ∧ (s.peer 3).state = .present ∧ s.posts.length < 4) ∧
      (((withPeer .present on).peer 3).state = .present ∧ (withPeer .present on).posts.length < 4 ∧
        4 ≤ (List.replicate 4 1).length) ∧
      (segmentOfBytes (dwellBytes.set 5 0) = none ∧ segmentOfBytes dwellBytes ≠ none) ∧
      (({ on with outbound := List.replicate 9 (frame 0 .broadcast .lift) } : State).outbound.length < 10) ∧
      (¬∃ e ∈ (withPeer .present on).posts, e.dest = 3 ∧ e.sequence = (withPeer .present on).lif.sequence) ∧
      (∃ e ∈ (withPeer .present { on with lif := { on.lif with sequence := 2 } }).posts, e.dest = 3 ∧
        e.sequence = 2) := by
  decide +kernel

theorem witness_ReadStatusReturnsTheSnapshot :
    on.awaitsCommand ∧ QueueInOrder cruising ∧ cruising.runningHead.isSome := by
  decide +kernel

theorem witness_ReadingCommandsChangeNothing :
    on.awaitsCommand ∧ (withdrawn 0 on).awaitsCommand ∧ 32 ≤ (32 : Byte).toNat ∧ (31 : Byte).toNat < 32 ∧
      (31 : Station) ≠ on.station ∧ (0 : Station) = on.station ∧ on.standing ≠ .withdrawn ∧
      (withdrawn 0 on).standing = .withdrawn := by
  decide +kernel

theorem witness_ReadNoticeTakesTheOldest :
    on.awaitsCommand ∧ on.notices = [] ∧ (List.replicate 16 (Notice.haltCleared 3 .lift)).length = 16 ∧
      (List.replicate 16 (Notice.haltCleared 3 .lift)).head?.isSome ∧
      (List.replicate 15 (Notice.haltCleared 3 .lift)).length < 16 := by
  decide +kernel

theorem witness_NoticesQueueAndIrq :
    on.awaitsCommand ∧ (List.replicate 15 (Notice.haltCleared 3 .lift)).length < 16 ∧
      16 ≤ (List.replicate 16 (Notice.haltCleared 3 .lift)).length ∧ [Notice.haltCleared 3 .lift].length ≤ 1 ∧
      2 ≤ [Notice.haltCleared 3 .lift, .haltCleared 4 .lift].length := by
  decide +kernel

theorem witness_TransactionsReportTheStatusByte :
    on.awaitsCommand ∧ (after (.unknown 0xEE) on).port.selected ∧ (after (.unknown 0xEE) on).port.taken ∧
      State.reset.port.selected = false ∧ portCommand .stop ∧ State.reset.awaitsCommand = false ∧
      (after .stop on).awaitsCommand = false ∧ ((step { on with pending := [.stop] }) matches .next _) ∧ 0 < 1 := by
  decide +kernel

theorem witness_EstopStopsTheAxis :
    let seeker (k : StopKind) (i : Input) : Entry := entry (.seek .plus i true k ramp) .running
    let gated (i : Input) (x : Bool) : Entry := { dwellEntry with segment := { seg (.dwell 3) with gate := .input i x } }
    (AtRest cruising ∧ QueueInOrder cruising ∧ cruising.inputActive .estop = false ∧
      cruising.faults.has .estop = false ∧ cruising.config.propagate.getLsbD 0 = true ∧ cruising.runningHead.isSome) ∧
      (cruising.inputActive .drvflt = false ∧ cruising.faults.has .drvflt = false ∧
        cruising.config.propagate.getLsbD 1 = true) ∧
      ((cruising.inputs.get .estop).level = false ∧ cruising.notices.length < 16 ∧ cruising.ownHalt.raised = false) ∧
      (let s := axisAt .cruise (200 * 65536 + 1) [seeker .decelerating .limp];
        AtRest s ∧ s.inputActive .limp = false ∧ NoWatchArmed s ∧ s.axis.dir = .plus ∧ s.axis.found = false ∧
        s.axis.state = .cruise ∧ s.config.baseSpeed.toNat * 65536 < s.axis.speed) ∧
      (let s := axisAt .rampUp (200 * 65536) [seeker .decelerating .home];
        s.inputActive .home = false ∧ s.axis.state = .rampUp ∧ s.axis.speed ≤ s.config.baseSpeed.toNat * 65536) ∧
      (let s := axisAt .gated 0 [gated .limn true];
        AtRest s ∧ (s.inputs.get .limn).level ≠ true ∧ (gated .limn true).state = .waiting ∧
        (gated .limn true).consumed = false ∧ s.mayStart ∧ s.axis.state.moving = false ∧
        (true == s.config.activeHigh.getLsbD (inputCode .limn)) = true) := by
  decide +kernel

theorem witness_EncoderEdgesCount :
    (AtRest on ∧ NoWatchArmed on ∧ on.config.gapLimit = 0) ∧ (1 : Position) ≠ 0 := by
  decide +kernel

theorem witness_EncoderEdgeAtTheLimit :
    let s := { counting (-1) 0 2 with queue := cruising.queue, axis := cruising.axis }
    AtRest s ∧ NoWatchArmed s ∧ QueueInOrder s ∧ s.faults.followingGap = false ∧ s.encA = false ∧ s.encB = false ∧
      (s.command - (s.measured + 1)).toInt.natAbs = 2 ∧ s.config.gapLimit.toNat = 2 := by
  decide +kernel

theorem witness_EncoderEdgeBeyondTheLimit :
    let s := { counting (-1) 0 1 with queue := cruising.queue, axis := cruising.axis }
    AtRest s ∧ NoWatchArmed s ∧ QueueInOrder s ∧ s.faults.followingGap = false ∧
      ¬(s.config.gapLimit = 0 ∨ (s.command - (s.measured + 1)).toInt.natAbs ≤ s.config.gapLimit.toNat) := by
  decide +kernel

theorem witness_EncoderEdgeHitsAndCuts :
    let s := { counting 0 0 1 with
      queue := cruising.queue, axis := cruising.axis
      watches := [hitsAt .measured 1 true, { hitsAt .measured 1 false with state := .hit }, hitsAt .command 1 false,
        .cleared] }
    AtRest s ∧ TablesFit s ∧ (s.watch 0).state = .armed ∧ (s.watch 0).source = .measured ∧
      (s.watch 0).condition.hits (s.watch 0).value 1 (s.watch 0).previous = true ∧
      (∀ k : Fin 4, k ≠ 0 → (s.watch k).state ≠ .armed ∨ (s.watch k).source ≠ .measured) ∧
      (s.watch 0).mark = none ∧ (s.watch 0).cutOnHit = true ∧ s.runningHead = some runEntry ∧
      runEntry.segment.chain = false ∧ s.axis.found = false ∧
      s.config.baseSpeed.toNat * 65536 < s.axis.speed ∧ s.axis.state = .cruise := by
  decide +kernel

theorem witness_EncoderEdgeHitsWithAMark :
    let s := { counting 0 0 1 with
      watches := [{ hitsAt .measured 1 false with mark := some 63 }, .cleared, .cleared, .cleared] }
    AtRest s ∧ TablesFit s ∧ (s.watch 0).state = .armed ∧ (s.watch 0).mark = some 63 ∧
      (s.watch 0).cutOnHit = false ∧ HeadStays s ∧ s.canSend ∧ s.outbound.length < 10 := by
  decide +kernel

theorem witness_StepPulseMovesTheAxis :
    ((axisAt .cruise (1000 * 65536) [runEntry]).runningHead = some runEntry ∧
      runEntry.segment.body = .run .plus ramp ∧ runEntry.segment.chain = false ∧ runEntry.origin = .localPort ∧
      runEntry.segment.endMark = none) ∧
      (AtRest (axisAt .cruise (1000 * 65536) [runEntry]) ∧ NoWatchArmed (axisAt .cruise (1000 * 65536) [runEntry]) ∧
        on.config.encoder = .off ∧ on.config.softEnabled = false ∧ (axisAt .cruise 0 []).axis.dir = .plus ∧
        (0x7FFFFFFE#32).toInt < 2147483647 ∧ -2147483648 < (0x80000001#32).toInt) ∧
      ((let v := 999 * 65536 + 65000; 1000 * 65536 ≤ v + 1000 * ramp.accel * 65536 * 65536 / v) ∧
        (let v := 300 * 65536; v + 1000 * ramp.accel * 65536 * 65536 / v < 1000 * 65536)) ∧
      ((let v := 300 * 65536; 200 * 65536 < v - 10000 * 65536 * 65536 / v) ∧
        (let v := 201 * 65536; v - 10000 * 65536 * 65536 / v ≤ 200 * 65536)) := by
  decide +kernel

theorem witness_CutBrakingEnds :
    let e := entry (.seek .plus .home false .immediate ramp) .running
    let brakes (e : Entry) (v : Nat) : State :=
      let t := axisAt .braking v [e]
      { t with axis := { t.axis with braking := .cut, brakeRate := 10000 } }
    (AtRest (brakes e (201 * 65536)) ∧ NoWatchArmed (brakes e (201 * 65536)) ∧
      (brakes e (201 * 65536)).runningHead = some e ∧ (brakes e (201 * 65536)).axis.braking = .cut ∧
      e.segment.body.isRun = false ∧ (brakes runEntry (201 * 65536)).runningHead = some runEntry ∧
      runEntry.segment.body.isRun = true) ∧
      ((let v := 201 * 65536; v - 10000 * 65536 * 65536 / v ≤ 200 * 65536) ∧
        (let v := 300 * 65536; 200 * 65536 < v - 10000 * 65536 * 65536 / v)) := by
  decide +kernel

theorem witness_SeekRampsDownAfterItsFind :
    let e := entry (.seek .plus .home false .decelerating ramp) .running
    let t := axisAt .rampDown (201 * 65536) [e]
    let s : State := { t with axis := { t.axis with found := true } }
    AtRest s ∧ NoWatchArmed s ∧ s.runningHead = some e ∧ s.axis.state = .rampDown ∧ s.axis.found = true ∧
      s.axis.blend = none ∧ e.segment.body.isRun = false ∧ s.config.encoder = .off ∧
      s.config.softEnabled = false ∧ s.queue = [e] ∧ s.notices.length < 16 ∧
      (let v := 201 * 65536; v - 1000 * 10 * 65536 * 65536 / v ≤ 200 * 65536) ∧
      (let v := 300 * 65536; 200 * 65536 < v - 1000 * 10 * 65536 * 65536 / v) := by
  decide +kernel

theorem witness_StepPulseHits :
    let s := { axisAt .cruise (1000 * 65536) [runEntry] with
      watches := [.cleared, .cleared, .cleared, hitsAt .command 1 true] }
    AtRest s ∧ TablesFit s ∧ s.runningHead = some runEntry ∧ s.axis.state = .cruise ∧ s.axis.found = false ∧
      s.config.baseSpeed.toNat * 65536 < s.axis.speed ∧ (s.watch 3).state = .armed ∧ (s.watch 3).source = .command ∧
      (s.watch 3).mark = none ∧ (s.watch 3).cutOnHit = true ∧
      (s.watch 3).condition.hits (s.watch 3).value (s.command + 1) (s.watch 3).previous = true ∧
      ∀ k : Fin 4, k ≠ 3 → (s.watch k).state ≠ .armed := by
  decide +kernel

theorem witness_MovesRampDownAndComplete :
    ((entry (.moveRel 5 ramp) .running).segment.body = .moveRel 5 ramp ∧
      (axisAt .cruise (1000 * 65536) [entry (.moveRel 5 ramp) .running]).queue = [entry (.moveRel 5 ramp) .running] ∧
      (axisAt .cruise 0 []).axis.blend = none ∧ (axisAt .cruise 0 []).axis.found = false ∧
      1 ≤ (axisAt .cruise 0 []).axis.remaining) ∧
      (AtRest (axisAt .cruise 0 []) ∧ NoWatchArmed (axisAt .cruise 0 []) ∧ on.config.encoder = .off ∧
        on.config.softEnabled = false) ∧
      (0 < 1000 * (if ramp.decel = 0 then ramp.accel else ramp.decel)) ∧
      ((let v := 1000 * 65536; let b := 200 * 65536; (48 - 1) * (2 * 10000 * (65536 * 65536)) < v * v - b * b ∧
        ¬((49 - 1) * (2 * 10000 * (65536 * 65536)) < v * v - b * b))) ∧
      (let s := pair true .cruise .waiting
        let v := s.axis.speed
        let floor := max (min 1000 300 * 65536) (s.config.baseSpeed.toNat * 65536)
        AtRest s ∧ NoWatchArmed s ∧ s.axis.committed = false ∧ (s.axis.dir = .minus ↔ (5#32).msb = true) ∧
        2 ≤ s.axis.remaining ∧ floor < v ∧
        (s.axis.remaining - 1) * (2 * 10000 * (65536 * 65536)) < v * v - floor * floor) ∧
      (let p := pair true .rampDown .committed
        let s : State := { p with axis := { p.axis with committed := true, blend := some 300, remaining := 1 } }
        AtRest s ∧ NoWatchArmed s ∧ s.axis.committed = true ∧ s.axis.blend = some (min 1000 300) ∧
        s.axis.state = .rampDown ∧ s.axis.remaining = 1 ∧
        s.queue.map (fun e => e.state) = [.running, .committed]) := by
  decide +kernel

theorem witness_CutMoveBrakes :
    let e := entry (.moveRel 50 ramp) .running
    let t := axisAt .braking (300 * 65536) [e]
    let s (n : Nat) : State := { t with axis := { t.axis with braking := .cut, brakeRate := 10000, remaining := n } }
    AtRest (s 1) ∧ NoWatchArmed (s 1) ∧ e.state = .running ∧ (s 1).axis.state = .braking ∧
      (s 1).axis.braking ≠ .none ∧ (s 1).axis.found = false ∧ 1 ≤ (s 1).axis.remaining ∧
      2 ≤ (s 2).axis.remaining ∧ (s 2).queue = [e] ∧
      (let v := 300 * 65536; 200 * 65536 < v - 10000 * 65536 * 65536 / v) := by
  decide +kernel

theorem witness_RefusedStepStopsTheAxis :
    (AtRest cruising ∧ QueueInOrder cruising ∧ cruising.runningHead = some runEntry ∧
      runEntry.segment.chain = false ∧ cruising.axis.state = .cruise ∧ cruising.axis.dir = .plus ∧
      cruising.faults.softPlus = false) ∧
      (let s : State := { cruising with config := { on.config with softEnabled := true, softMax := 0 } };
        s.config.softEnabled ∧ s.config.softMax = s.command ∧ s.config.softStop = .immediate ∧
        s.notices.length < 15) ∧
      (cruising.inputActive (limitInput .plus) = false ∧ cruising.axis.state.moving ∧
        cruising.faults.has (limitCause .plus) = false ∧ runEntry.segment.body = .run .plus ramp) ∧
      (cruising.inputActive (limitInput .minus) = false ∧ cruising.axis.dir ≠ .minus) := by
  decide +kernel

/-- A RUN Minus in an axis state at the software minimum 0, the software stop kind given. -/
def atMinimum (st : AxisState) (k : StopKind) : State :=
  let t := axisAt st (300 * 65536) [entry (.run .minus ramp) .running]
  { t with
    config := { on.config with softEnabled := true, softMin := 0, softMax := 9, softStop := k }
    axis := { t.axis with dir := .minus } }

theorem witness_RefusedStepBrakes :
    let s := atMinimum .rampUp .decelerating
    AtRest s ∧ QueueInOrder s ∧ s.runningHead = some (entry (.run .minus ramp) .running) ∧ s.axis.state = .rampUp ∧
      s.axis.dir = .minus ∧ s.config.softMin = s.command ∧ s.faults.softMinus = false ∧
      s.config.softStop = .decelerating ∧ s.config.baseSpeed.toNat * 65536 < s.axis.speed ∧
      (atMinimum .cruise .immediate).config.softStop = .immediate ∧ AtRest (atMinimum .cruise .immediate) ∧
      QueueInOrder (atMinimum .cruise .immediate) := by
  decide +kernel

theorem witness_RefusedStepAtTheRangeEnd :
    let s : State := { cruising with command := 0x7FFFFFFF, measured := 0x7FFFFFFF }
    AtRest s ∧ QueueInOrder s ∧ s.axis.dir = .plus ∧ s.command.toInt = 2147483647 ∧ s.faults.softPlus = false ∧
      s.runningHead = some runEntry ∧ (0x80000000#32).toInt = -2147483648 := by
  decide +kernel

theorem witness_BrakingGoesPastTheSoftLimit :
    let t := atMinimum .braking .decelerating
    let s : State := { t with
      axis := { t.axis with braking := .stop, brakeRate := 10000, committed := true }
      faults := { FaultSet.empty with softMinus := true } }
    AtRest s ∧ QueueInOrder s ∧ NoWatchArmed s ∧ s.axis.state = .braking ∧ s.axis.dir = .minus ∧
      s.axis.committed = true ∧ s.faults.has .softMinus = true ∧ s.config.encoder = .off ∧
      ¬(s.command.toInt = -2147483648) ∧
      s.config.baseSpeed.toNat * 65536 <
        s.axis.speed - s.axis.brakeRate * 65536 * 65536 / s.axis.speed := by
  decide +kernel

theorem witness_BrakingStepIsRefused :
    let s := atMinimum .braking .decelerating
    AtRest s ∧ QueueInOrder s ∧ s.axis.state = .braking ∧ s.axis.dir = .minus ∧ s.faults.has .softMinus = false ∧
      s.queue = [entry (.run .minus ramp) .running] ∧ s.config.softMin = s.command ∧ s.notices.length < 15 := by
  decide +kernel

theorem witness_DwellExpiryCompletesTheDwell :
    (AtRest dwelling ∧ dwelling.queue = [entry (.dwell 3) .running] ∧ dwelling.axis.state = .dwell ∧
      (entry (.dwell 3) .running).segment.endMark = none ∧ (entry (.dwell 3) .running).state = .running) ∧
      (({ entry (.dwell 3) .running with origin := .peer 3 15 } : Entry).origin = .peer 3 15 ∧ on.canSend ∧
        lis.canSend = false) := by
  decide +kernel

theorem witness_DwellExpiryAsksForTheEndMark :
    let e : Entry := { entry (.dwell 3) .running with segment := { seg (.dwell 3) with endMark := some 63 } }
    let s := axisAt .dwell 0 [e]
    AtRest s ∧ s.axis.state = .dwell ∧ s.queue = [e] ∧ e.segment.endMark = some 63 ∧ e.origin = .localPort ∧
      s.canSend ∧ s.outbound.length < 10 ∧ (withdrawn 0 s).canSend = false ∧ AtRest (withdrawn 0 s) ∧
      NoEntryActs 63 (some s.command) (withdrawn 0 s) := by
  decide +kernel

/-- A DWELL running with another behind it, and a third. -/
def dwellBefore (x : Entry) : State := axisAt .dwell 0 [entry (.dwell 3) .running, x, dwellEntry]

/-- A DWELL behind the gate of tally 23. -/
def tallied : Entry := { dwellEntry with segment := { seg (.dwell 3) with gate := .tally 23 } }

theorem witness_DwellExpiryLeavesTheNextGated :
    let s := dwellBefore tallied
    let t := { dwellBefore dwellEntry with faults := { FaultSet.empty with softPlus := true } }
    AtRest s ∧ QueueInOrder s ∧ tallied.state = .waiting ∧ tallied.consumed = false ∧
      s.gateOpen tallied.segment.gate = false ∧ AtRest t ∧ QueueInOrder t ∧ t.mayStart = false := by
  decide +kernel

theorem witness_DwellExpiryStartsTheNext :
    let s := dwellBefore dwellEntry
    let one := { dwellBefore tallied with
      reactions := on.reactions.set 23 { Reaction.cleared with inUse := true, tally := 1 } }
    AtRest s ∧ QueueInOrder s ∧ s.mayStart ∧ s.gateOpen dwellEntry.segment.gate ∧ AtRest one ∧ QueueInOrder one ∧
      one.mayStart ∧ one.gateOpen tallied.segment.gate ∧ tallied.segment.startMark = none := by
  decide +kernel

theorem witness_FrameStartAndActivityEndTheWait :
    (LineAgrees waiting ∧ waiting.lif.receiver ≠ .off ∧ waiting.lif.flight = none ∧
      (firstFrame waiting.outbound).isSome ∧ waiting.canSend) ∧
      (waiting.lif.dominant = false ∧ waiting.lif.receiver = .hunting) ∧
      (let s : State := { waiting with lif := { waiting.lif with dominant := true, transmitter := .silent, picked := none } };
        LineAgrees s ∧ s.lif.flight = none ∧ s.lif.dominant ∧ s.lif.receiver = .hunting ∧ s.canSend) ∧
      (let s : State := { lis with lif := { lis.lif with dominant := true } };
        LineAgrees s ∧ s.lif.dominant ∧ s.outbound = [] ∧ s.canSend = false) ∧
      (LineAgrees conf ∧ conf.lif.flight = none ∧ conf.lif.receiver ≠ .hunting) := by
  decide +kernel

theorem witness_QuietPeriodsAndIdleRounds :
    (LineAgrees waiting ∧ waiting.lif.receiver ≠ .off ∧ waiting.lif.flight = none ∧ waiting.standing ≠ .withdrawn ∧
      (firstFrame waiting.outbound).isSome) ∧
      ((withdrawn 46 on).onLine ∧ (withdrawn 46 on).recovery < 47 ∧ 47 ≤ (withdrawn 47 on).recovery ∧
        (withdrawn 47 on).config.autoRejoin ∧ LineAgrees (withdrawn 47 on)) ∧
      (AtRest (withdrawn 46 on) ∧ (withdrawn 46 on).standing = .withdrawn ∧ LineAgrees (withdrawn 46 on) ∧
        (withdrawn 46 on).lif.receiver ≠ .off ∧ (withdrawn 46 on).lif.flight = none ∧
        (withdrawn 48 { on with config := { on.config with autoRejoin := false } }).config.autoRejoin = false) := by
  decide +kernel

theorem witness_DeferralGapStartsTheAttempt :
    waiting.lif.picked = some { frame := 7, gap := 8 } ∧ waiting.lif.transmitter = .waiting ∧
      waiting.lif.receiver = .hunting ∧ waiting.lif.dominant = false ∧ waiting.canSend ∧
      (waiting.outbound.find? fun g => g.id == 7) = some (frame 7 .broadcast (.halt 9 .immediate)) ∧
      waiting.lif.idle ≤ 8 ∧ ({ waiting.lif with idle := 8 } : Lif).idle ≤ 8 ∧
        8 < ({ waiting.lif with idle := 9 } : Lif).idle := by
  decide +kernel

theorem witness_FailedAttemptsRaiseTheScore :
    ((sending .lift 6).lif.flight = some { frame := 7, bits := 0 } ∧ (sending .lift 6).lif.transmitter = .sending ∧
      (sending .lift 6).sends ∧ ((sending .lift 6).outbound.find? fun g => g.id == 7).isSome ∧
      AtRest (sending .lift 6)) ∧
      ((listeningBack .lift 7).sends ∧ (listeningBack .lift 7).lif.transmitter = .listeningBack ∧
        AtRest (listeningBack .lift 7) ∧ (listeningBack .lift 7).lif.flight = some { frame := 7, bits := 0 }) ∧
      ((sending .lift 6).ownHalt.owed = .none ∧ (sending .lift 6).lifecycle = .online ∧
        (sending .lift 6).standing ≠ .withdrawn ∧ ({ sending .lift 7 with score := 183 } : State).score + 8 < 192 ∧
        (∀ e ∈ (sending .lift 6).emissions, e.frame = 7 → NoEntryActs e.mark e.stamp (sending .lift 6))) := by
  decide +kernel

theorem witness_CarriedFramesLeaveTheQueue :
    (AtRest (sending .lift 0) ∧ (sending .lift 0).lif.flight = some { frame := 7, bits := 0 } ∧
      (sending .lift 0).sends ∧
      ((sending .lift 0).outbound.find? fun g => g.id == 7) = some { frame 7 .broadcast .lift with inFlight := true }) ∧
      ((sending .lift 0).ownHalt.owed = .none ∧ (sending .lift 0).lifecycle = .online ∧
        (sending .lift 0).standing ≠ .withdrawn ∧ ({ sending .lift 0 with score := 191 } : State).score < 192) ∧
      (∀ e ∈ ({ sending (.mark 5 none) 0 with
          emissions := [{ mark := 5, stamp := none, origin := .command, index := 0, frame := 7 }] } : State).emissions,
        e.frame = 7 → NoEntryActs e.mark e.stamp on) := by
  decide +kernel

theorem witness_ReceiveResultsMoveTheScore :
    (AtRest on ∧ on.receives ∧ on.standing ≠ .withdrawn ∧ ({ on with score := 190 } : State).score < 191 ∧
      frameWhole (rx 3 .broadcast .lift) ∧ frameWhole { rx 3 .broadcast .lift with noise := true }) ∧
      (let s : State := { on with score := 191, standing := .reticent, outbound := [frame 1 (.station 3) (.post dwellBytes)] };
        AtRest s ∧ s.receives ∧ s.standing ≠ .withdrawn ∧ s.score = 191 ∧ s.lifecycle = .online ∧
        rxClean { rx 3 .broadcast .lift with noise := true } = false ∧
        (∀ e ∈ s.emissions, NoEntryActs e.mark e.stamp s) ∧ (s.outbound.map fun g => g.id).Nodup ∧
        s.notices.length < 16) ∧
      (let s : State := { lis with score := 191 };
        AtRest s ∧ s.receives ∧ s.standing ≠ .withdrawn ∧ s.lifecycle = .listening) ∧
      (∀ r ∈ on.lif.reception, r.afterEcho = false) := by
  decide +kernel

theorem witness_FramesTakenFollowTheSequenceLaw :
    (AtRest on ∧ on.receives ∧ StationTablesFit on ∧ rxClean { rx 3 .broadcast .lift with noise := true } = false) ∧
      (rxClean (rx 3 .broadcast .lift) ∧
        rxHeader (rx 3 .broadcast .lift) =
          some { kind := .lift, source := 3, dest := .broadcast, retry := false, sequence := 2, payload := [] } ∧ (3 : Station) ≠ on.station) ∧
      (((on.roster.set 3 { RosterEntry.blank .present with lastSequence := some 2 }).getD 3 (.blank .absent)).lastSequence = some 2) ∧
      ((rxHeader (rx 3 (.station 4) (.post dwellBytes))).map (fun h => h.dest) = some (.station 4) ∧
        rxClean (rx 3 (.station 4) (.post dwellBytes))) ∧
      (lis.lifecycle = .listening ∧ lis.receives ∧ AtRest lis ∧ StationTablesFit lis) ∧
      (let s := heardFrom3 15 (some postHeader);
        AtRest s ∧ s.receives ∧ StationTablesFit s ∧ rxClean posting ∧ rxHeader posting = some postHeader ∧
          (s.peer 3).lastSequence ≠ some 2 ∧ RetriesPost postHeader s) := by
  decide +kernel

theorem witness_HaltsAndLiftsAreTaken :
    (AtRest cruising ∧ QueueInOrder cruising ∧ cruising.receives ∧ StationTablesFit cruising ∧
      cruising.lifecycle = .online ∧ rxClean (rx 3 .broadcast (.halt 9 .immediate)) ∧
      (cruising.peer 3).lastSequence ≠ some 2 ∧ (cruising.peer 3).postRetry = none) ∧
      (rxHeader (rx 3 .broadcast (.halt 9 .immediate)) =
        some { kind := .halt, source := 3, dest := .broadcast, retry := false, sequence := 2, payload := [9, 1] }) ∧
      (rxHeader (rx 3 .broadcast (.halt 9 .decelerating)) =
        some { kind := .halt, source := 3, dest := .broadcast, retry := false, sequence := 2, payload := [9, 0] }) ∧
      (rxHeader (rx 3 .broadcast .lift) =
        some { kind := .lift, source := 3, dest := .broadcast, retry := false, sequence := 2, payload := [] } ∧
        HeadStays (halted3 on) ∧ ((halted3 on).haltOf 3).isSome ∧
        (halted3 on).notices.length < 15) := by
  decide +kernel

theorem witness_LiftFrameStartsTheHead :
    let s := gated (halted3 on)
    AtRest s ∧ QueueInOrder s ∧ s.receives ∧ StationTablesFit s ∧ s.lifecycle = .online ∧
      (s.peer 3).lastSequence ≠ some 2 ∧ (s.peer 3).postRetry = none ∧ DwellWaits dwellEntry 3 s ∧ s.faults = .empty ∧ s.ownHalt.raised = false ∧
      (s.haltOf 3).isSome ∧ ∀ n : Fin 32, n ≠ 3 → s.haltOf n = none := by
  decide +kernel

theorem witness_PresenceIsRecordedAndReconciled :
    (AtRest cruising ∧ QueueInOrder cruising ∧ cruising.receives ∧ StationTablesFit cruising ∧ HeadStays cruising ∧
      (cruising.peer 3).lastSequence ≠ some 2 ∧ (cruising.peer 3).postRetry = none ∧ cruising.haltOf 3 = none) ∧
      (rxClean (rx 3 .broadcast (.presence (presence true))) ∧
        rxHeader (rx 3 .broadcast (.presence (presence true))) =
          some { kind := .presence, source := 3, dest := .broadcast, retry := false, sequence := 2, payload := [2, 0x10, 0, 7] } ∧
        (0x10#8).getLsbD 4 = true) ∧
      (rxClean (rx 3 .broadcast (.presence { presence false with period := 0 })) ∧
        rxHeader (rx 3 .broadcast (.presence { presence false with period := 0 })) =
          some { kind := .presence, source := 3, dest := .broadcast, retry := false, sequence := 2, payload := [0, 0, 0, 0] }) := by
  decide +kernel

theorem witness_PresenceStartsTheHead :
    let s := gated (halted3 on)
    rxClean (rx 3 .broadcast (.presence (presence false))) ∧
      rxHeader (rx 3 .broadcast (.presence (presence false))) =
        some { kind := .presence, source := 3, dest := .broadcast, retry := false, sequence := 2, payload := [2, 0, 0, 0] } ∧
      AtRest s ∧ QueueInOrder s ∧ s.receives ∧ StationTablesFit s ∧ (s.peer 3).lastSequence ≠ some 2 ∧ (s.peer 3).postRetry = none ∧
      DwellWaits dwellEntry 3 s ∧ (s.haltOf 3).isSome ∧ ∀ n : Fin 32, n ≠ 3 → s.haltOf n = none := by
  decide +kernel

theorem witness_PostsAndAnswersAreTaken :
    (AtRest cruising ∧ cruising.receives ∧ StationTablesFit cruising ∧ cruising.lifecycle = .online ∧
      cruising.queue ≠ [] ∧ cruising.canSend) ∧
      (rxClean (rx 3 (.station 0) (.post dwellBytes)) ∧
        rxHeader (rx 3 (.station 0) (.post dwellBytes)) =
          some { kind := .post, source := 3, dest := .station 0, retry := false, sequence := 2, payload := dwellBytes } ∧
        (cruising.peer 3).lastSequence ≠ some 2 ∧ (cruising.peer 3).postRetry = none ∧ (3 : Station) ≠ cruising.station) ∧
      (cruising.config.postMask.getLsbD 3 = false ∧
        ({ cruising.config with postMask := 8 } : ConfigBlock).postMask.getLsbD 3 = true ∧
        (validSegment on.config dwellBytes).isSome ∧ (validSegment on.config (dwellBytes.set 5 0)).isNone) ∧
      (rxClean (rx 3 (.station 0) (.answer 2 (.refused .full) 5)) ∧
        (rxHeader (rx 3 (.station 0) (.answer 2 (.refused .full) 5))).map (fun h => rxAnswer h.payload) =
          some (some (.refused .full)) ∧
        ((withPeer .present on).posts.find? fun e => e.dest == 3 && e.sequence == 2).isSome) ∧
      (rxAnswer [0x02, 0, 5] = some .taken ∧ rxAnswer [0x22, 3, 5] = some (.finished .flushed) ∧
        rxAnswer [0x12, 6, 5] = none ∧ (on.posts.find? fun e => e.dest == 3 && e.sequence == 2) = none) ∧
      ((withPeer .present on).lif.receiver ≠ .off ∧ (withPeer .present on).receives ∧ AtRest (withPeer .present on) ∧
        StationTablesFit (withPeer .present on)) ∧
      (rxClean (rx 3 .broadcast (.mark 63 (some 7))) ∧
        rxHeader (rx 3 .broadcast (.mark 63 (some 7))) =
          some { kind := .mark, source := 3, dest := .broadcast, retry := false, sequence := 2, payload := [0x7F, 7, 0, 0, 0] } ∧
        rxMark [0x7F, 7, 0, 0, 0] = some (63, some 7) ∧ rxMark [0xC0] = some (0, none)) := by
  decide +kernel

/-- Online with an empty queue, POSTs of station 3 permitted, entry 0 of the Reaction Table holding a tally of 15. -/
def permitting : State :=
  { on with
    config := { on.config with postMask := 8 }
    reactions := on.reactions.set 0 { Reaction.cleared with inUse := true, tally := 15 } }

theorem witness_PostToAnEmptyQueue :
    (AtRest permitting ∧ permitting.receives ∧ StationTablesFit permitting ∧ permitting.lifecycle = .online ∧
      permitting.halted = false ∧ permitting.queue = [] ∧ permitting.overtaken = false ∧
      permitting.config.postMask.getLsbD 3) ∧
      (let g : Segment := { seg (.dwell 65535) with gate := .tally 1 };
        validSegment permitting.config g.bytes = some g ∧ permitting.gateOpen g.gate = false ∧
        rxClean (rx 3 (.station 0) (.post g.bytes))) ∧
      (let g : Segment := { seg (.dwell 1) with gate := .tally 0 };
        validSegment permitting.config g.bytes = some g ∧ permitting.gateOpen g.gate ∧ g.startMark = none ∧
        rxClean (rx 3 (.station 0) (.post g.bytes))) := by
  decide +kernel

theorem witness_PostIsOvertaken :
    cruising.overtaken = false ∧ ({ cruising with pending := [.stop, .leave] } : State).overtaken = false ∧
      (let s : State := { cruising with pending := [.leave] };
        s.overtaken ∧ AtRest s ∧ s.receives ∧ StationTablesFit s ∧ s.queue ≠ []) ∧
      (let s : State := { cruising with pending := [.frameTaken (rx 0 .broadcast .lift), .join] };
        s.overtaken ∧ AtRest s ∧ s.receives) := by
  decide +kernel

theorem witness_OwnNumberBringsConflict :
    (AtRest cruising ∧ QueueInOrder cruising ∧ cruising.receives ∧ rxClean (rx 0 .broadcast .lift) ∧
      rxHeader (rx 0 .broadcast .lift) =
        some { kind := .lift, source := 0, dest := .broadcast, retry := false, sequence := 2, payload := [] } ∧
      (0 : Station) = cruising.station ∧ cruising.lifecycle = .online) ∧
      (lis.outbound = [] ∧ lis.receives ∧ AtRest lis ∧ QueueInOrder lis) ∧
      (∀ e ∈ cruising.emissions, NoEntryActs e.mark e.stamp cruising) ∧ cruising.notices.length < 16 := by
  decide +kernel

theorem witness_ConflictRefusesAPostHandedOn :
    let s : State := { handedOn cruising with pending := [] }
    AtRest s ∧ QueueInOrder s ∧ s.receives ∧ s.lifecycle = .online ∧ s.posted.length = 1 ∧
      (after (.frameTaken (rx 0 .broadcast .lift)) s).notices.length < 16 := by
  decide +kernel

theorem witness_ListeningExpiryBringsTheStationOnline :
    AtRest lis ∧ LineAgrees lis ∧ lis.lifecycle = .listening ∧ HeadStays { lis with lifecycle := .online } ∧
      lis.lif.flight = none ∧ lis.outbound = [] ∧ lis.ownHalt.raised = false ∧ lis.ownHalt.owed = .none ∧
      lis.standing ≠ .withdrawn ∧ (withdrawn 0 lis).standing = .withdrawn := by
  decide +kernel

theorem witness_ListeningExpiryStartsTheHead :
    let s := gated lis
    AtRest s ∧ LineAgrees s ∧ s.lifecycle = .listening ∧ s.lif.flight = none ∧ s.outbound = [] ∧
      s.ownHalt.raised = false ∧ s.ownHalt.owed = .none ∧ DwellWaits dwellEntry 3 s ∧ s.faults = .empty ∧
      s.haltListed = false := by
  decide +kernel

theorem witness_TimersExpire :
    (StationTablesFit on ∧ on.lifecycle = .online ∧ on.standing ≠ .withdrawn ∧
      (∀ f ∈ on.outbound, f.payload.kind ≠ .presence) ∧
      ({ on with outbound := List.replicate 9 (frame 0 .broadcast .lift) } : State).outbound.length < 10) ∧
      (({ on with outbound := [frame 0 .broadcast (.presence (presence false))] } : State).outbound.find?
        OutFrame.isPresence = some (frame 0 .broadcast (.presence (presence false)))) ∧
      ((withdrawn 0 on).standing = .withdrawn ∧ (withPeer .present on).onLine ∧
        ((withPeer .present on).peer 3).state = .present ∧ ((withPeer .present on).peer 3).lapse ≠ 4800000 ∧
        160000 * (3 * (((withPeer .present on).peer 3).period.getD on.config.presencePeriod).toNat) = 4800000 ∧
        (withPeer .present on).notices.length + (withPeer .present on).posts.length < 16) ∧
      (∀ e ∈ (withPeer .present on).posts, e.dest = 3 ∧ e.sequence = 2 ∧ e.state = .awaitingTake) := by
  decide +kernel

theorem witness_TimersExpire_setAgain :
    StationTablesFit (withPeer .present on) ∧ (withPeer .present on).receives ∧ rxClean (rx 3 .broadcast .lift) ∧
      (rxHeader (rx 3 .broadcast .lift)).map (fun h => h.source) = some 3 ∧ (3 : Station) ≠ on.station := by
  decide +kernel

theorem witness_DeferralGapsNeverMeet :
    (on.station ≠ ({ on with station := 31 } : State).station ∧ on.standing ≠ .reticent ∧
      ({ on with standing := .reticent } : State).standing = .reticent ∧
      on.station < ({ on with station := 31 } : State).station) ∧
      (on.gapOf (frame 0 .broadcast .lift) = 8 ∧
        ({ on with station := 31, standing := .reticent, lif := { on.lif with yielding := true } } :
          State).gapOf (frame 0 .broadcast (.presence (presence false))) = 519) ∧
      ((frame 0 .broadcast .lift).cls < (frame 0 .broadcast (.mark 5 none)).cls) := by
  decide +kernel

theorem witness_SequenceNumbersComeFromOneCounter :
    ((admission .broadcast .lift { on with lif := { on.lif with sequence := 15 } }).isSome ∧
      ({ frame 0 .broadcast .lift with attempts := 6 } : OutFrame).attempts < 7 ∧
      (frame 0 .broadcast .lift).held = none) ∧
      (∀ h ∈ ({ on with outbound := [frame 0 .broadcast (.presence (presence false))] } : State).outbound.find?
          OutFrame.isPresence, h.attempts = 0 ∧ h.inFlight = false) ∧
      (∀ h ∈ ({ on with outbound := [{ frame 0 .broadcast (.presence (presence false)) with attempts := 1 }] } : State).outbound.find?
          OutFrame.isPresence, h.attempts ≠ 0 ∧ h.inFlight = false ∧ on.ownHalt.owed = .none) := by
  decide +kernel

theorem witness_OwnFramesReadBackAsSent :
    (4 ≤ (List.replicate 16 0x10#8).length ∧ (List.replicate 16 0x10#8).length ≤ 16 ∧
      4 ≤ (List.replicate 4 0x10#8).length ∧ 2 ≤ (presence false).period.toNat ∧ (presence false).reason = 0) ∧
      (∃ m : Fin 32, (frame 0 (.station 31) (.post dwellBytes)).dest = .station m ∧ m ≠ 0) ∧
      ((frame 0 .broadcast .lift).dest = .broadcast) := by
  decide +kernel

theorem witness_ConfigurationReadsBackAsWritten :
    (2 ≤ ConfigBlock.default.presencePeriod.toNat ∧ 1 ≤ ConfigBlock.default.answerWindow.toNat ∧
      1 ≤ ConfigBlock.default.baseSpeed.toNat ∧ 1 ≤ ConfigBlock.default.stopRate.toNat) ∧
      (({ ConfigBlock.default with softEnabled := true, softMin := 0x80000000 } : ConfigBlock).softMin.toInt ≤
        ConfigBlock.default.softMax.toInt) ∧
      (dwellBytes.length = takenLength dwellBytes ∧ ConfigBlock.default.bytes.length = 23) ∧
      ((0x0F : Byte) ∉ commandCodes ∧ (0x10 : Byte) ∈ commandCodes ∧ (0x73 : Byte) ∈ commandCodes ∧
        (0x74 : Byte) ∉ commandCodes) ∧
      (segmentOfBytes (seg (.dwell 1)).bytes = some (seg (.dwell 1)) ∧
        segmentOfBytes (seg (.dwell 65535)).bytes = some (seg (.dwell 65535)) ∧
        segmentOfBytes (seg (.dwell 0)).bytes = none ∧ segmentOfBytes (seg (.moveRel 0 ramp)).bytes = none ∧
        segmentOfBytes (seg (.run .plus { ramp with top := 4000000 })).bytes =
          some (seg (.run .plus { ramp with top := 4000000 })) ∧
        segmentOfBytes (seg (.run .plus { ramp with top := 4000001 })).bytes = none ∧
        segmentOfBytes ({ runSeg with gate := .input .estop true } : Segment).bytes = none) ∧
      (let c : ConfigBlock := { ConfigBlock.default with softEnabled := true, softMin := 0, softMax := 9 };
        validSegment c (seg (.moveAbs 9 ramp)).bytes = some (seg (.moveAbs 9 ramp)) ∧
        validSegment c (seg (.moveAbs 10 ramp)).bytes = none) := by
  decide +kernel

theorem witness_ResetMeetsEveryInvariant : AtRest cruising ∧ AtRest State.reset := by decide +kernel

theorem witness_EveryStepKeepsTheCapacitiesAndPositions :
    ((stepped { cruising with pending := [.stepPulse] }).isSome) ∧
      (NoticesFit cruising ∧ OutboundFits cruising ∧ TablesFit cruising ∧ TalliesFit cruising ∧ QueueFits cruising ∧
        PostsFit cruising ∧ StationTablesFit cruising ∧ PositionsAgree cruising) := by
  decide +kernel

theorem witness_EveryStepKeepsTheStandingTable :
    (stepped { on with pending := [.frameTruncated] }).isSome := by
  decide +kernel

theorem witness_EveryStepKeepsTheQueueInOrder :
    QueueInOrder { cruising with pending := [.stop] } ∧ (stepped { cruising with pending := [.stop] }).isSome := by
  decide +kernel

theorem witness_EveryStepEndsAtRestWithTheLineInAgreement :
    AtRest waiting ∧ LineAgrees { waiting with pending := [.deferralGapReached] } ∧
      (stepped { waiting with pending := [.deferralGapReached] }).isSome := by
  decide +kernel

theorem witness_PostedIsOvertaken :
    AtRest (handedOn on) ∧ LineAgrees (handedOn on) ∧ (handedOn on).posted ≠ [] ∧ (handedOn on).overtaken ∧
      (stepped (handedOn on)).any (fun t => t.posted.isEmpty) := by
  decide +kernel

theorem witness_standing : StandingFits on ∧ StandingFits (withdrawn 48 on) :=
  ⟨⟨by decide, by decide, by decide, by decide, by decide⟩, ⟨by decide, by decide, by decide, by decide, by decide⟩⟩

end Sys2Proof.Tests
end

/-! PROOFS. SET_REACTION (R65): what its bytes decode to, and why a tally written to 0 moves no head. -/

namespace Sys2Proof.Machine

/-! ### The bytes of SET_REACTION (R199, R200) -/

theorem toFin?_eq_ite (k n : Nat) [NeZero k] : toFin? k n = if n < k then some (Fin.ofNat k n) else none := by
  unfold toFin?
  split
  · rename_i h
    exact congrArg some (Fin.ext (Nat.mod_eq_of_lt h).symm)
  · rfl

theorem boolOfByte_eq_ite (b : Byte) : boolOfByte b = if b.toNat < 2 then some (decide (b = 1)) else none := by
  unfold boolOfByte
  by_cases h0 : b = 0
  · subst h0; decide
  by_cases h1 : b = 1
  · subst h1; decide
  have hb : ¬ b.toNat < 2 := by bv_omega
  rw [if_neg h0, if_neg h1, if_neg hb]

theorem reactionSource_eq_ite (b : Byte) :
    reactionSource b =
      if b.toNat ≤ 32 then some (if b = 32 then none else some (Fin.ofNat 32 b.toNat)) else none := by
  unfold reactionSource
  by_cases any : b = 32
  · subst any; decide
  have same : b.toNat < 32 ↔ b.toNat ≤ 32 := by bv_omega
  simp only [if_neg any, toFin?_eq_ite, same]
  split <;> rfl

/-- The action and parameter bytes that have a meaning (R65, R200). -/
abbrev ActionHasMeaning (action parameter : Byte) : Prop :=
  ((action = 0 ∨ action = 1 ∨ action = 4) ∧ parameter = 0) ∨ (action = 2 ∧ parameter.toNat < 4) ∨
    (action = 3 ∧ parameter.toNat < 64)

/-- The action that such bytes name. -/
abbrev namedAction (action parameter : Byte) : Action :=
  if action = 0 then .tally
  else if action = 1 then .cut
  else if action = 2 then .capture (Fin.ofNat 4 parameter.toNat)
  else if action = 3 then .emit (Fin.ofNat 64 parameter.toNat)
  else .stopLocal

theorem actionOfBytes_eq_ite (action parameter : Byte) :
    actionOfBytes action parameter =
      if ActionHasMeaning action parameter then some (namedAction action parameter) else none := by
  unfold actionOfBytes
  split
  case h_1 code => obtain rfl : action = 0 := BitVec.eq_of_toNat_eq code; simp [ActionHasMeaning, namedAction]
  case h_2 code => obtain rfl : action = 1 := BitVec.eq_of_toNat_eq code; simp [ActionHasMeaning, namedAction]
  case h_3 code =>
    obtain rfl : action = 2 := BitVec.eq_of_toNat_eq code
    rw [toFin?_eq_ite]; split <;> simp [ActionHasMeaning, namedAction, *]
  case h_4 code =>
    obtain rfl : action = 3 := BitVec.eq_of_toNat_eq code
    rw [toFin?_eq_ite]; split <;> simp [ActionHasMeaning, namedAction, *]
  case h_5 code => obtain rfl : action = 4 := BitVec.eq_of_toNat_eq code; simp [ActionHasMeaning, namedAction]
  case h_6 n0 n1 n2 n3 n4 =>
    have unnamed : ¬ ActionHasMeaning action parameter := by
      rintro (⟨rfl | rfl | rfl, -⟩ | ⟨rfl, -⟩ | ⟨rfl, -⟩) <;> contradiction
    rw [if_neg unnamed]

/-- The arguments of SET_REACTION behind its index that have a meaning (R65). -/
abbrev ReactionHasMeaning (source mark action parameter mode : Byte) : Prop :=
  source.toNat ≤ 32 ∧ mark.toNat < 64 ∧ ActionHasMeaning action parameter ∧ mode.toNat < 2

/-- The entry that such arguments name: in use and Armed with tally 0. -/
abbrev namedReaction (source mark action parameter mode : Byte) : Reaction where
  inUse := true
  source := if source = 32 then none else some (Fin.ofNat 32 source.toNat)
  mark := Fin.ofNat 64 mark.toNat
  action := namedAction action parameter
  once := decide (mode = 0)
  spent := false
  tally := 0
  overflow := false

theorem reactionOfBytes_of_meaning {source mark action parameter mode : Byte}
    (h : ReactionHasMeaning source mark action parameter mode) :
    reactionOfBytes source mark action parameter mode = some (namedReaction source mark action parameter mode) := by
  obtain ⟨hsource, hmark, haction, hmode⟩ := h
  have once : (!decide (mode = 1)) = decide (mode = 0) := by
    rw [← decide_not]; exact decide_eq_decide.2 (by bv_omega)
  simp only [reactionOfBytes, reactionSource_eq_ite, toFin?_eq_ite, actionOfBytes_eq_ite, boolOfByte_eq_ite,
    if_pos hsource, if_pos hmark, if_pos haction, if_pos hmode, Option.bind_eq_bind, Option.bind_some, once]

theorem reactionOfBytes_of_no_meaning {source mark action parameter mode : Byte}
    (h : ¬ ReactionHasMeaning source mark action parameter mode) :
    reactionOfBytes source mark action parameter mode = none := by
  simp only [reactionOfBytes, reactionSource_eq_ite, toFin?_eq_ite, actionOfBytes_eq_ite, boolOfByte_eq_ite]
  by_cases hsource : source.toNat ≤ 32
  case neg => simp [hsource]
  by_cases hmark : mark.toNat < 64
  case neg => simp [hmark]
  by_cases haction : ActionHasMeaning action parameter
  case neg => simp only [if_neg haction]; simp
  have hmode : ¬ mode.toNat < 2 := fun hmode => h ⟨hsource, hmark, haction, hmode⟩
  simp [hmode]

/-! ### A head that stays (R11) -/

theorem evaluateHead_of_headStays (watch : WatchTake) {s : State} (stays : HeadStays s) :
    evaluateHead watch s = s := by
  unfold evaluateHead
  split
  · rename_i e rest queue
    refine if_neg fun starts => ?_
    simp only [Bool.and_eq_true, beq_iff_eq, State.mayStart] at starts
    obtain ⟨⟨waiting, -, online⟩, opened⟩ := starts
    obtain offline | ⟨unconsumed, shut⟩ := stays e (by simp [queue]) waiting
    · exact offline online
    · simp [unconsumed, shut] at opened
  · rfl

theorem takeHanded_of_evaluate {s : State} (values : s.handed.values = []) (due : s.handed.evaluate = true) :
    takeHanded s = evaluateHead watchNow { s with handed := { s.handed with evaluate := false } } := by
  unfold takeHanded
  split
  · rename_i v vs cons
    exact absurd (values.symm.trans cons) (List.cons_ne_nil v vs).symm
  · exact if_pos due

theorem settleWithin_of_atRest (n : Nat) {s : State} (atRest : AtRest s) : settleWithin n s = s := by
  cases n with
  | zero => rfl
  | succ n => rw [settleWithin, if_neg (by simp [(waits_eq_false_iff _).2 atRest])]

/-- An evaluation of a head that stays is taken and leaves no trace. -/
theorem settle_handEvaluate_of_headStays {s : State} (atRest : AtRest s) (stays : HeadStays s) :
    settle (handEvaluate s) = s := by
  have cleared : { handEvaluate s with handed := { (handEvaluate s).handed with evaluate := false } } = s := by
    obtain ⟨⟩ := s
    cases atRest
    rfl
  have taken : takeHanded (handEvaluate s) = s := by
    rw [takeHanded_of_evaluate (by simp [atRest, Handed.empty]) (by simp), cleared,
      evaluateHead_of_headStays _ stays]
  obtain ⟨n, work⟩ : ∃ n, (handEvaluate s).work = n + 1 := by
    refine Nat.exists_eq_add_one.2 ?_
    simp [State.work]
  have waits : (handEvaluate s).handed.waits = true := by simp [Handed.waits]
  rw [settle, work, settleWithin, if_pos waits, taken, settleWithin_of_atRest n atRest]

/-! ### A change of a tally that leaves its gate shut (R11, R60) -/

theorem headStays_of_headWaitsOn_shut {g : Gate} {s : State} (waits : headWaitsOn (fun k => k == g) s = true)
    (shut : s.gateOpen g = false) : HeadStays s := by
  intro e head _
  obtain ⟨rest, queue⟩ := List.head?_eq_some_iff.1 head
  simp only [headWaitsOn, queue, Bool.and_eq_true, Bool.not_eq_true', beq_iff_eq] at waits
  obtain ⟨⟨-, unconsumed⟩, gate⟩ := waits
  exact .inr ⟨unconsumed, gate ▸ shut⟩

theorem settle_handTally_of_shut {e : Fin 24} {s : State} (atRest : AtRest s) (shut : s.gateOpen (.tally e) = false) :
    settle (handTally e s) = s := by
  unfold handTally handGateChange
  split
  · rename_i waits
    exact settle_handEvaluate_of_headStays atRest (headStays_of_headWaitsOn_shut waits shut)
  · exact settle_of_atRest atRest

theorem respond_handTally (code : ResultCode) (data : List Byte) (e : Fin 24) (s : State) :
    respond code data (handTally e s) = handTally e (respond code data s) :=
  apply_ite (respond code data) _ _ _

theorem gateOpen_tally_setReactionAt {e : Fin 24} {r : Reaction} (s : State) (zero : r.tally = 0) :
    (setReactionAt e r s).gateOpen (.tally e) = false := by
  simp only [State.gateOpen, setReactionAt_reactions, List.getD_eq_getElem?_getD, List.getElem?_set_self']
  cases s.reactions[e.val]? <;> simp [zero, Reaction.cleared]

/-- Replacing an entry by one of tally 0 and answering, everything handed on taken, does that and no more. -/
theorem settle_respond_setReactionAt (code : ResultCode) (data : List Byte) (e : Fin 24) {r : Reaction} {s : State}
    (atRest : AtRest s) (zero : r.tally = 0) :
    settle (respond code data (handTally e (setReactionAt e r s))) = respond code data (setReactionAt e r s) := by
  rw [respond_handTally]
  exact settle_handTally_of_shut atRest (gateOpen_tally_setReactionAt s zero)

/-! ### SET_REACTION (R65) -/

theorem exec_setReaction_of_no_meaning {index source mark action parameter mode : Byte} {s : State}
    (awaits : s.awaitsCommand)
    (h : ¬ (index.toNat < 24 ∧ ReactionHasMeaning source mark action parameter mode)) :
    exec (.setReaction index source mark action parameter mode) s = .next (respond .invalid [] s) := by
  change execSetReaction index source mark action parameter mode s = _
  rw [execSetReaction, onPort_of_awaits awaits, toFin?_eq_ite]
  by_cases hindex : index.toNat < 24
  · rw [reactionOfBytes_of_no_meaning fun meant => h ⟨hindex, meant⟩]
    simp
  · simp [hindex]

theorem exec_setReaction_of_meaning {index source mark action parameter mode : Byte} {s : State}
    (atRest : AtRest s) (awaits : s.awaitsCommand) (hindex : index.toNat < 24)
    (meant : ReactionHasMeaning source mark action parameter mode) :
    exec (.setReaction index source mark action parameter mode) s =
      .next (respond .ok []
        { s with reactions := s.reactions.set index.toNat (namedReaction source mark action parameter mode) }) := by
  change execSetReaction index source mark action parameter mode s = _
  rw [execSetReaction, onPort_of_awaits awaits, reactionOfBytes_of_meaning meant, toFin?, dif_pos hindex]
  exact congrArg _ (settle_respond_setReactionAt .ok [] _ atRest rfl)

/-- Settles O18: the entry is written with tally 0, so the gate on it is shut and the evaluation handed on starts no
head. -/
theorem setReactionWritesTheEntry : Obligations.SetReactionWritesTheEntry := by
  intro s index source mark action parameter mode atRest awaits good
  exact ⟨exec_setReaction_of_no_meaning awaits,
    fun ⟨hindex, meant⟩ => exec_setReaction_of_meaning atRest awaits hindex meant⟩

end Sys2Proof.Machine

/-! PROOFS. The watch conditions (R72), and that no operation but a comparison and a hit changes a watch record (R70,
R73). -/

namespace Sys2Proof.Machine

/-! ### The conditions (R72) -/

theorem atOrAbove_hits_iff (v p q : Position) : WatchCondition.atOrAbove.hits v p q = true ↔ v.toInt ≤ p.toInt :=
  BitVec.sle_iff_toInt_le

theorem below_hits_iff (v p q : Position) : WatchCondition.below.hits v p q = true ↔ p.toInt < v.toInt :=
  BitVec.slt_iff_toInt_lt

theorem crossUp_hits_iff (v p q : Position) :
    WatchCondition.crossUp.hits v p q = true ↔ q.toInt < v.toInt ∧ v.toInt ≤ p.toInt := by
  rw [WatchCondition.hits, Bool.and_eq_true, BitVec.slt_iff_toInt_lt, BitVec.sle_iff_toInt_le]

theorem crossDown_hits_iff (v p q : Position) :
    WatchCondition.crossDown.hits v p q = true ↔ v.toInt ≤ q.toInt ∧ p.toInt < v.toInt := by
  rw [WatchCondition.hits, Bool.and_eq_true, BitVec.slt_iff_toInt_lt, BitVec.sle_iff_toInt_le]

theorem atOrAbove_hitsAtArming_iff (v p : Position) :
    WatchCondition.atOrAbove.hitsAtArming v p = true ↔ v.toInt ≤ p.toInt :=
  BitVec.sle_iff_toInt_le

theorem below_hitsAtArming_iff (v p : Position) :
    WatchCondition.below.hitsAtArming v p = true ↔ p.toInt < v.toInt :=
  BitVec.slt_iff_toInt_lt

theorem crossDown_hits_from_value_iff (v p : Position) :
    WatchCondition.crossDown.hits v p v = true ↔ p.toInt < v.toInt := by
  rw [crossDown_hits_iff, and_iff_right le_rfl]

theorem crossUp_hits_from_value (v p : Position) : WatchCondition.crossUp.hits v p v = false :=
  Bool.eq_false_iff.2 fun hit => lt_irrefl _ ((crossUp_hits_iff v p v).1 hit).1

theorem crossUp_hits_by_one_count {v p q : Position} (up : p.toInt = q.toInt + 1) :
    WatchCondition.crossUp.hits v p q = true ↔ p = v := by
  rw [crossUp_hits_iff, ← BitVec.toInt_inj]
  omega

theorem crossDown_hits_by_one_count {v p q : Position} (down : p.toInt = q.toInt - 1) :
    WatchCondition.crossDown.hits v p q = true ↔ p.toInt = v.toInt - 1 := by
  rw [crossDown_hits_iff]
  omega

/-! ### Notices, marks, answers, announcements leave the watches alone -/

@[simp] theorem notify_watches (n : Notice) (s : State) : (notify n s).watches = s.watches :=
  (quiet_notify n s).watches

@[simp] theorem handGateChange_watches (g : Gate → Bool) (s : State) : (handGateChange g s).watches = s.watches := by
  unfold handGateChange
  split <;> simp

@[simp] theorem handWatch_watches (w : Fin 4) (s : State) : (handWatch w s).watches = s.watches :=
  handGateChange_watches _ s

@[simp] theorem notSent_watches (r : NotSentReason) (m : Mark) (stamp : Option Position) (o : EmitOrigin) (i : Byte)
    (s : State) : (notSent r m stamp o i s).watches = s.watches := by
  simp [notSent]

@[simp] theorem requestMark_watches (m : Mark) (stamp : Option Position) (o : EmitOrigin) (i : Byte) (s : State) :
    (requestMark m stamp o i s).watches = s.watches := by
  unfold requestMark
  split
  · split
    · rename_i t admitted
      exact (quiet_admit admitted).watches
    · simp
  · simp

@[simp] theorem requestMark?_watches (m : Option Mark) (o : EmitOrigin) (i : Byte) (s : State) :
    (requestMark? m o i s).watches = s.watches := by
  cases m <;> simp [requestMark?]

@[simp] theorem answerPeer_watches (n : Station) (q : Seq) (k : AnswerKind) (tag : Byte) (s : State) :
    (answerPeer n q k tag s).watches = s.watches :=
  (quiet_answerPeer n q k tag s).watches

@[simp] theorem raiseByCause_watches (c : Cause) (s : State) : (raiseByCause c s).watches = s.watches :=
  (quiet_raiseByCause c s).watches

/-! ### Retirement, flushes, stops leave the watches alone -/

@[simp] theorem retireEffects_watches (e : Entry) (o : Retirement) (s : State) :
    (retireEffects e o s).watches = s.watches := by
  unfold retireEffects
  cases o <;> cases e.origin <;> simp

@[simp] theorem flushEntries_watches (es : List Entry) (s : State) : (flushEntries es s).watches = s.watches := by
  unfold flushEntries
  induction es generalizing s with
  | nil => rfl
  | cons e es ih => rw [List.foldl_cons, ih, retireEffects_watches]

@[simp] theorem retireHead_watches (o : Retirement) (s : State) : (retireHead o s).watches = s.watches := by
  unfold retireHead
  split <;> simp

@[simp] theorem flushBehind_watches (s : State) : (flushBehind s).watches = s.watches := by
  unfold flushBehind
  split
  · split <;> simp
  · rfl

@[simp] theorem brake_watches (c : BrakeCause) (r : Nat) (e : Entry) (s : State) :
    (brake c r e s).watches = s.watches := by
  unfold brake
  split <;> simp

@[simp] theorem decelerateHead_watches (e : Entry) (s : State) : (decelerateHead e s).watches = s.watches := by
  unfold decelerateHead
  split <;> simp

@[simp] theorem orderStop_watches (k : StopKind) (s : State) : (orderStop k s).watches = s.watches := by
  unfold orderStop
  split <;> simp

@[simp] theorem raiseCause_watches (c : Cause) (s : State) : (raiseCause c s).watches = s.watches := by
  unfold raiseCause
  split <;> simp

@[simp] theorem checkGap_watches (s : State) : (checkGap s).watches = s.watches := by
  unfold checkGap
  split <;> simp

/-! ### The plan, junctions, cuts leave the watches alone -/

@[simp] theorem replan_watches (s : State) : (replan s).watches = s.watches := (quiet_replan s).watches

@[simp] theorem commitSecond_watches (s : State) : (commitSecond s).watches = s.watches := by
  unfold commitSecond
  split <;> rfl

@[simp] theorem commitPlan_watches (s : State) : (commitPlan s).watches = s.watches := by
  unfold commitPlan
  split
  · rfl
  · split
    · rfl
    · split
      · rename_i t consumed
        simpa using (quiet_consumeSecond consumed).watches
      · rfl

@[simp] theorem decelerationPoint_watches (e : Entry) (s : State) : (decelerationPoint e s).watches = s.watches := by
  unfold decelerationPoint
  split <;> simp

@[simp] theorem takeOver_watches (n : Entry) (r : Ramp) (d : Dir) (s : State) :
    (takeOver n r d s).watches = s.watches :=
  (quiet_takeOver n r d s).watches

@[simp] theorem junction_watches (s : State) : (junction s).watches = s.watches := by
  unfold junction
  split
  · split
    · split <;> simp
    · simp
  · simp

@[simp] theorem cutBrake_watches (e : Entry) (s : State) : (cutBrake e s).watches = s.watches := by simp [cutBrake]

@[simp] theorem cutChainedRun_watches (e : Entry) (s : State) : (cutChainedRun e s).watches = s.watches := by
  unfold cutChainedRun
  dsimp only
  split
  · split <;> simp
  · simp

@[simp] theorem takeCut_watches (s : State) : (takeCut s).watches = s.watches := by
  unfold takeCut
  split
  · rfl
  · split
    case h_1 => simp
    case h_5 => rfl
    all_goals
      split
      · rfl
      · split <;> simp

/-! ### Pulses, finds, starts leave the watches alone while new values are held -/

/-- A way of taking new values that changes no watch record. -/
def KeepsWatches (take : WatchTake) : Prop := ∀ values s, (take values s).watches = s.watches

theorem keepsWatches_watchLater : KeepsWatches watchLater := watchLater_watches

@[simp] theorem rearmPulse_watches (s : State) : (rearmPulse s).watches = s.watches := by
  unfold rearmPulse
  split <;> rfl

@[simp] theorem refuseStep_watches (s : State) : (refuseStep s).watches = s.watches := by
  unfold refuseStep
  dsimp only
  split <;> simp

@[simp] theorem emitPulse_watches (e : Entry) (s : State) : (emitPulse e s).watches = s.watches := by simp [emitPulse]

@[simp] theorem endMove_watches (s : State) : (endMove s).watches = s.watches := by
  unfold endMove
  dsimp only
  split <;> simp

@[simp] theorem endMotion_watches (s : State) : (endMotion s).watches = s.watches := by
  unfold endMotion
  split
  · rfl
  · dsimp only
    split
    case h_1 => split <;> simp
    case h_2 | h_3 => split <;> simp
    case h_4 =>
      split
      · simp
      · split
        · split <;> simp
        · split <;> simp
    case h_5 => rfl

@[simp] theorem stopAtFind_watches (still : Bool) (k : StopKind) (s : State) :
    (stopAtFind still k s).watches = s.watches := by
  unfold stopAtFind
  split <;> simp

namespace KeepsWatches

variable {take : WatchTake}

theorem jumpPositions (keeps : KeepsWatches take) (c m : Position) (s : State) :
    (jumpPositions take c m s).watches = s.watches :=
  keeps _ _

theorem zeroAtFind (keeps : KeepsWatches take) (zero : Bool) (s : State) :
    (zeroAtFind take zero s).watches = s.watches := by
  unfold Machine.zeroAtFind
  split
  · exact keeps.jumpPositions 0 0 s
  · rfl

theorem seekFind (keeps : KeepsWatches take) (still : Bool) (s : State) :
    (seekFind take still s).watches = s.watches := by
  unfold Machine.seekFind
  split
  · split
    · rw [stopAtFind_watches, keeps.zeroAtFind]
    · rfl
  · rfl

theorem pulse (keeps : KeepsWatches take) (s : State) : (pulse take s).watches = s.watches := by
  unfold Machine.pulse
  split
  · rfl
  · split
    · dsimp only
      split
      · simp
      · simp [keeps _ _]
    · rfl

theorem startMotion (keeps : KeepsWatches take) (g : Segment) (r : Ramp) (d : Dir) (s : State) :
    (startMotion take g r d s).watches = s.watches := by
  unfold Machine.startMotion
  dsimp only
  split
  · simp
  · split
    · rw [keeps.seekFind, requestMark?_watches]
    · rw [keeps.pulse, requestMark?_watches]

theorem runHead (keeps : KeepsWatches take) (g : Segment) (s : State) :
    (runHead take g s).watches = s.watches := by
  unfold Machine.runHead
  split
  · simp
  · rw [retireHead_watches, checkGap_watches, keeps.jumpPositions, requestMark?_watches]
  · split
    · exact keeps.startMotion g _ _ s
    · simp

theorem startHead (keeps : KeepsWatches take) (e : Entry) (rest : List Entry) (s : State) :
    (startHead take e rest s).watches = s.watches := by
  unfold Machine.startHead
  split
  · rename_i t consumed
    rw [keeps.runHead]
    split at consumed
    · obtain rfl := Option.some.inj consumed
      rfl
    · exact (quiet_consumeGate consumed).watches
  · rfl

theorem evaluateHead (keeps : KeepsWatches take) (s : State) : (evaluateHead take s).watches = s.watches := by
  unfold Machine.evaluateHead
  split
  · split
    · exact keeps.startHead _ _ s
    · rfl
  · rfl

end KeepsWatches

@[simp] theorem evaluateWithin_watches (n : Nat) (s : State) : (evaluateWithin n s).watches = s.watches := by
  induction n generalizing s with
  | zero => rfl
  | succ n ih =>
    unfold evaluateWithin
    split
    · rw [ih, keepsWatches_watchLater.evaluateHead]
    · rfl

@[simp] theorem evaluateNow_watches (s : State) : (evaluateNow s).watches = s.watches := evaluateWithin_watches _ s

/-! ### A hit and a comparison change one record (R71, R73) -/

@[simp] theorem hitEffects_watches (w : Fin 4) (r : Watch) (s : State) :
    (hitEffects w r s).watches = s.watches.set w.val { r with state := .hit } := by
  unfold hitEffects
  dsimp only
  split <;> simp

@[simp] theorem hitWatch_watches (w : Fin 4) (r : Watch) (s : State) :
    (hitWatch w r s).watches = s.watches.set w.val { r with state := .hit } := by
  simp [hitWatch]

/-- The record of an Armed watch after it has compared the value p. -/
def Watch.compared (r : Watch) (p : Position) : Watch :=
  { r with previous := p, state := if r.condition.hits r.value p r.previous then .hit else .armed }

theorem compareWatch_of_armed (p : Position) {s : State} {w : Fin 4} (armed : (s.watch w).state = .armed) :
    compareWatch (s.watch w).source p s w =
      if (s.watch w).condition.hits (s.watch w).value p (s.watch w).previous then
        evaluateNow (hitWatch w { s.watch w with previous := p } s)
      else { s with watches := s.watches.set w.val { s.watch w with previous := p } } :=
  if_pos ⟨armed, rfl⟩

theorem compareWatch_watches_of_armed (p : Position) {s : State} {w : Fin 4} (armed : (s.watch w).state = .armed) :
    (compareWatch (s.watch w).source p s w).watches = s.watches.set w.val ((s.watch w).compared p) := by
  rw [compareWatch_of_armed p armed, Watch.compared]
  split
  · rw [evaluateNow_watches, hitWatch_watches]
  · rw [← armed]

theorem watch_of_watches_set {s t : State} {w : Fin 4} {r : Watch} (fit : TablesFit s)
    (written : t.watches = s.watches.set w.val r) : t.watch w = r := by
  obtain ⟨-, four, -⟩ := fit
  simp [State.watch, written, four]

theorem compareWatch_state_of_armed (p : Position) {s : State} {w : Fin 4} (fit : TablesFit s)
    (armed : (s.watch w).state = .armed) :
    ((compareWatch (s.watch w).source p s w).watch w).state =
      if (s.watch w).condition.hits (s.watch w).value p (s.watch w).previous then .hit else .armed := by
  rw [watch_of_watches_set fit (compareWatch_watches_of_armed p armed), Watch.compared]

/-- Settles O23: the conditions are comparisons of integers, and a watch stays as its comparison wrote it, because the
cut and the evaluations that a hit brings change no watch record. -/
theorem watchConditionsAreJudged : Obligations.WatchConditionsAreJudged := by
  intro v p q s w x
  refine ⟨atOrAbove_hits_iff v p q, below_hits_iff v p q, crossUp_hits_iff v p q, crossDown_hits_iff v p q,
    atOrAbove_hitsAtArming_iff v p, below_hitsAtArming_iff v p, rfl, rfl, crossDown_hits_from_value_iff v p,
    crossUp_hits_from_value v p, crossUp_hits_by_one_count, crossDown_hits_by_one_count, ?_⟩
  rintro fit armed rfl
  exact compareWatch_state_of_armed p fit armed

end Sys2Proof.Machine

/-! PROOFS. The deferral gap (R111): the place of a station within the band of a class, the bands in their order, and why
two stations never share a gap. -/

namespace Sys2Proof.Machine

/-! ### The place within a band (R111) -/

/-- R111: where a station stands within the 64 bit times of a class: its number, behind all 32 numbers while it yields. -/
def State.placeInBand (s : State) : Nat := s.station.val + if s.lif.yielding then 32 else 0

theorem placeInBand_of_not_yielding {s : State} (steady : s.lif.yielding = false) :
    s.placeInBand = s.station.val := by
  simp [State.placeInBand, steady]

theorem placeInBand_of_yielding {s : State} (yields : s.lif.yielding = true) :
    s.placeInBand = s.station.val + 32 := by
  simp [State.placeInBand, yields]

theorem placeInBand_lt (s : State) : s.placeInBand < 64 := by
  have number := s.station.isLt
  unfold State.placeInBand
  split <;> omega

theorem placeInBand_mod (s : State) : s.placeInBand % 32 = s.station.val := by
  have number := s.station.isLt
  unfold State.placeInBand
  split <;> omega

theorem placeInBand_eq_zero_iff (s : State) : s.placeInBand = 0 ↔ s.station = 0 ∧ s.lif.yielding = false := by
  cases yields : s.lif.yielding with
  | false => simp [placeInBand_of_not_yielding yields]
  | true => simp [placeInBand_of_yielding yields]

theorem placeInBand_eq_last_iff (s : State) : s.placeInBand = 63 ↔ s.station = 31 ∧ s.lif.yielding = true := by
  have number := s.station.isLt
  cases yields : s.lif.yielding with
  | false => simp [placeInBand_of_not_yielding yields]; omega
  | true =>
    rw [placeInBand_of_yielding yields, Fin.ext_iff, and_iff_left rfl]
    change s.station.val + 32 = 31 + 32 ↔ s.station.val = 31
    omega

theorem placeInBand_lt_of_yielding {s t : State} (steady : s.lif.yielding = false) (yields : t.lif.yielding = true) :
    s.placeInBand < t.placeInBand := by
  have number := s.station.isLt
  rw [placeInBand_of_not_yielding steady, placeInBand_of_yielding yields]
  omega

theorem placeInBand_lt_of_station_lt {s t : State} (same : s.lif.yielding = t.lif.yielding)
    (lower : s.station < t.station) : s.placeInBand < t.placeInBand := by
  unfold State.placeInBand
  rw [same]
  exact Nat.add_lt_add_right lower _

/-! ### The gap by its band (R107, R111) -/

theorem cls_le_three (f : OutFrame) : f.cls ≤ 3 := by
  unfold OutFrame.cls
  cases f.payload.kind <;> decide

theorem gapOf_of_not_reticent {s : State} (f : OutFrame) (early : s.standing ≠ .reticent) :
    s.gapOf f = 8 + 64 * f.cls + s.placeInBand := by
  simp only [State.gapOf, State.placeInBand, early, if_false]
  omega

theorem gapOf_of_reticent {s : State} (f : OutFrame) (late : s.standing = .reticent) :
    s.gapOf f = 8 + 64 * f.cls + s.placeInBand + 256 := by
  simp only [State.gapOf, State.placeInBand, late, if_true]
  omega

theorem gapOf_ge (s : State) (f : OutFrame) : 8 ≤ s.gapOf f := by
  unfold State.gapOf
  omega

theorem gapOf_le (s : State) (f : OutFrame) : s.gapOf f ≤ 519 := by
  have class_le := cls_le_three f
  have place_lt := placeInBand_lt s
  by_cases standing : s.standing = .reticent
  · rw [gapOf_of_reticent f standing]; omega
  · rw [gapOf_of_not_reticent f standing]; omega

theorem gapOf_eq_least_iff (s : State) (f : OutFrame) :
    s.gapOf f = 8 ↔ f.cls = 0 ∧ s.station = 0 ∧ s.lif.yielding = false ∧ s.standing ≠ .reticent := by
  rw [← and_assoc (a := s.station = 0), ← placeInBand_eq_zero_iff]
  by_cases standing : s.standing = .reticent
  · simp [gapOf_of_reticent f standing, standing]
  · simp [gapOf_of_not_reticent f standing, standing]; omega

theorem gapOf_eq_greatest_iff (s : State) (f : OutFrame) :
    s.gapOf f = 519 ↔ f.cls = 3 ∧ s.station = 31 ∧ s.lif.yielding = true ∧ s.standing = .reticent := by
  have class_le := cls_le_three f
  have place_lt := placeInBand_lt s
  rw [← and_assoc (a := s.station = 31), ← placeInBand_eq_last_iff]
  by_cases standing : s.standing = .reticent
  · simp only [gapOf_of_reticent f standing, standing, and_true]; omega
  · simp only [gapOf_of_not_reticent f standing, standing, and_false, iff_false]; omega

/-! ### Two stations (R111) -/

/-- The class, the yield flag and the standing add multiples of 32, so the gap still tells the number. -/
theorem gapOf_mod (s : State) (f : OutFrame) : s.gapOf f % 32 = (8 + s.station.val) % 32 := by
  have place_mod := placeInBand_mod s
  by_cases standing : s.standing = .reticent
  · rw [gapOf_of_reticent f standing]; omega
  · rw [gapOf_of_not_reticent f standing]; omega

theorem station_eq_of_gapOf_eq {s t : State} {f g : OutFrame} (same : s.gapOf f = t.gapOf g) :
    s.station = t.station := by
  have remainders : (8 + s.station.val) % 32 = (8 + t.station.val) % 32 := by rw [← gapOf_mod s f, same, gapOf_mod]
  have number := s.station.isLt
  have other := t.station.isLt
  exact Fin.ext (by omega)

theorem gapOf_lt_of_reticent {s t : State} (f g : OutFrame) (early : s.standing ≠ .reticent)
    (late : t.standing = .reticent) : s.gapOf f < t.gapOf g := by
  have class_le := cls_le_three f
  have place_lt := placeInBand_lt s
  rw [gapOf_of_not_reticent f early, gapOf_of_reticent g late]
  omega

/-- Where both stations are Reticent or neither is, the band of the class decides and then the place within it. -/
theorem gapOf_lt_iff {s t : State} (f g : OutFrame) (same : s.standing = .reticent ↔ t.standing = .reticent) :
    s.gapOf f < t.gapOf g ↔ f.cls < g.cls ∨ f.cls = g.cls ∧ s.placeInBand < t.placeInBand := by
  have place_lt := placeInBand_lt s
  have other_lt := placeInBand_lt t
  by_cases standing : s.standing = .reticent
  · rw [gapOf_of_reticent f standing, gapOf_of_reticent g (same.1 standing)]; omega
  · rw [gapOf_of_not_reticent f standing, gapOf_of_not_reticent g (standing ∘ same.2)]; omega

/-- Settles O51: a gap is a place below 64 within the band of its class, 256 later for a Reticent station, and its
remainder by 32 tells the station. -/
theorem deferralGapsNeverMeet : Obligations.DeferralGapsNeverMeet := by
  intro s t f g
  refine ⟨rfl, cls_le_three f, gapOf_ge s f, gapOf_le s f, gapOf_eq_least_iff s f, gapOf_eq_greatest_iff s f,
    fun differ same => differ (station_eq_of_gapOf_eq same), gapOf_lt_of_reticent f g,
    fun same => ⟨?byClass, ?byYield, ?byNumber⟩⟩ <;> rw [gapOf_lt_iff f g same]
  case byClass => exact Or.inl
  case byYield => exact fun cls steady yields => .inr ⟨cls, placeInBand_lt_of_yielding steady yields⟩
  case byNumber => exact fun cls yield lower => .inr ⟨cls, placeInBand_lt_of_station_lt yield lower⟩

end Sys2Proof.Machine

/-! PROOFS. Sequence numbers (R118): admission and supersession take the counter's value, a failed attempt and an update in
place keep the frame's own, and a pick moves neither the frames nor the counter. -/

namespace Sys2Proof.Machine

/-! ### A pick leaves the frames and the counter alone (R113, R137) -/

theorem pick_eq (s : State) :
    ∃ x p, pick s = { s with lif := { s.lif with transmitter := x, picked := p } } := by
  unfold pick
  split
  · exact ⟨_, _, rfl⟩
  · exact ⟨_, _, rfl⟩
  · split <;> exact ⟨_, _, rfl⟩

@[simp] theorem pick_outbound (s : State) : (pick s).outbound = s.outbound := by
  obtain ⟨x, p, picked⟩ := pick_eq s
  rw [picked]

@[simp] theorem pick_lif_sequence (s : State) : (pick s).lif.sequence = s.lif.sequence := by
  obtain ⟨x, p, picked⟩ := pick_eq s
  rw [picked]

@[simp] theorem pickIfSilent_outbound (s : State) : (pickIfSilent s).outbound = s.outbound := by
  unfold pickIfSilent
  split <;> simp

@[simp] theorem pickIfSilent_lif_sequence (s : State) : (pickIfSilent s).lif.sequence = s.lif.sequence := by
  unfold pickIfSilent
  split <;> simp

@[simp] theorem repick_outbound (id : Nat) (s : State) : (repick id s).outbound = s.outbound := by
  unfold repick
  split
  · split <;> simp
  · rfl

@[simp] theorem repick_lif_sequence (id : Nat) (s : State) : (repick id s).lif.sequence = s.lif.sequence := by
  unfold repick
  split
  · split <;> simp
  · rfl

/-! ### Admission (R118, R130) -/

/-- The record of a frame as the Outbound Queue admits it. -/
def State.newFrame (s : State) (d : Dest) (p : Payload) : OutFrame :=
  { id := s.nextFrame, dest := d, payload := p, sequence := s.lif.sequence, attempts := 0, inFlight := false
    held := none }

theorem admission_eq_some {d : Dest} {p : Payload} {s t : State} (admitted : admission d p s = some t) :
    t = pickIfSilent
      { s with
        outbound := s.outbound ++ [s.newFrame d p]
        nextFrame := s.nextFrame + 1
        lif := { s.lif with sequence := s.lif.sequence + 1 } } := by
  unfold admission at admitted
  split at admitted
  · exact (Option.some.inj admitted).symm
  · cases admitted

theorem outbound_of_admission {d : Dest} {p : Payload} {s t : State} (admitted : admission d p s = some t) :
    t.outbound = s.outbound ++ [s.newFrame d p] := by
  rw [admission_eq_some admitted, pickIfSilent_outbound]

theorem sequence_of_admission {d : Dest} {p : Payload} {s t : State} (admitted : admission d p s = some t) :
    t.lif.sequence = s.lif.sequence + 1 := by
  rw [admission_eq_some admitted, pickIfSilent_lif_sequence]

/-- The counter goes from 15 back to 0. -/
theorem seq_val_add_one (q : Seq) : (q + 1).val = (q.val + 1) % 16 := Fin.val_add q 1

/-! ### A frame replaced (R133, R135) -/

theorem map_sequence_replaceFrame (frames : List OutFrame) (g : OutFrame) (id : Nat) :
    (replaceFrame frames g id).map (fun h => h.sequence) =
      frames.map (fun h => if h.id = id then g.sequence else h.sequence) := by
  simp [replaceFrame, apply_ite OutFrame.sequence]

theorem failFrame_of_stays (echo : Bool) {f : OutFrame} (s : State) (stays : f.attempts < 7) (bare : f.held = none) :
    failFrame echo f s =
      { s with outbound := replaceFrame s.outbound { f with attempts := f.attempts + 1, inFlight := false } f.id } := by
  simp [failFrame, Nat.not_le.2 stays, bare]

/-! ### The held PRESENCE (R133) -/

/-- A record that is a PRESENCE carries one's fields. -/
theorem isPresence_iff (f : OutFrame) : f.isPresence = true ↔ ∃ p, f.payload = .presence p := by
  unfold OutFrame.isPresence
  cases f.payload <;> simp [Payload.kind]

theorem updatePresence_in_place {change : Presence → Presence} {f : OutFrame} {p : Presence} {s : State}
    (held : s.outbound.find? OutFrame.isPresence = some f) (fields : f.payload = .presence p)
    (fresh : f.attempts = 0) (grounded : f.inFlight = false) :
    updatePresence change s =
      { s with outbound := replaceFrame s.outbound { f with payload := .presence (change p) } f.id } := by
  simp [updatePresence, held, fields, fresh, grounded]

theorem updatePresence_supersedes {change : Presence → Presence} {f : OutFrame} {p : Presence} {s : State}
    (held : s.outbound.find? OutFrame.isPresence = some f) (fields : f.payload = .presence p)
    (tried : f.attempts ≠ 0) (grounded : f.inFlight = false) :
    updatePresence change s = supersede f (change p) s := by
  simp [updatePresence, held, fields, tried, grounded]

theorem departed_of_nothing_owed (id : Nat) {s : State} (paid : s.ownHalt.owed = .none) :
    departed id s = repick id s := by
  simp [departed, askOwed, owedPayload, paid]

theorem supersede_of_nothing_owed (f : OutFrame) (p : Presence) {s : State} (paid : s.ownHalt.owed = .none) :
    supersede f p s = repick f.id
      { s with
        outbound := replaceFrame s.outbound (s.newFrame f.dest (.presence p)) f.id
        nextFrame := s.nextFrame + 1
        lif := { s.lif with sequence := s.lif.sequence + 1 } } :=
  departed_of_nothing_owed f.id paid

/-- Settles O52: only admission and supersession build a record of their own, with the counter's value; the other two
replace a record by one with the number it had. -/
theorem sequenceNumbersComeFromOneCounter : Obligations.SequenceNumbersComeFromOneCounter := by
  intro s d p f x echo
  refine ⟨fun t admitted => ?admitted, fun stays bare => ?failed, fun h held fresh grounded => ?inPlace,
    fun h held tried grounded paid => ?superseded⟩
  case admitted =>
    exact ⟨s.newFrame d p, outbound_of_admission admitted, rfl, by
      rw [sequence_of_admission admitted, seq_val_add_one]⟩
  case failed =>
    rw [failFrame_of_stays echo s stays bare]
    exact ⟨map_sequence_replaceFrame .., rfl⟩
  case inPlace =>
    obtain ⟨p, fields⟩ := (isPresence_iff h).1 (List.find?_some held)
    rw [updatePresence_in_place held fields fresh grounded]
    exact ⟨rfl, map_sequence_replaceFrame ..⟩
  case superseded =>
    obtain ⟨p, fields⟩ := (isPresence_iff h).1 (List.find?_some held)
    rw [updatePresence_supersedes held fields tried grounded, supersede_of_nothing_owed h x paid,
      repick_lif_sequence, repick_outbound]
    exact ⟨seq_val_add_one _, map_sequence_replaceFrame ..⟩

end Sys2Proof.Machine

/-! PROOFS. The check characters (R126): the register over the bits of all characters, and what the receiver finds. -/

namespace Sys2Proof.Machine

/-- The bits of a character in the order in which the register takes them (R126, step 2). -/
def bitsDown (c : Byte) : List Bool := [7, 6, 5, 4, 3, 2, 1, 0].map fun k => c.getLsbD k

theorem crcByte_eq_foldl_bitsDown : crcByte = fun r c => (bitsDown c).foldl crcBit r := by
  funext r c
  rw [crcByte, bitsDown, List.foldl_map]

/-- Character by character is bit by bit over all of them. -/
theorem crc16_eq_foldl_flatMap (chars : List Byte) :
    crc16 chars = (chars.flatMap bitsDown).foldl crcBit 0xFFFF#16 := by
  rw [crc16, crcByte_eq_foldl_bitsDown, List.foldl_flatMap]

theorem checkBytes_eq (chars : List Byte) :
    checkBytes chars = [(crc16 chars).extractLsb' 8 8, (crc16 chars).extractLsb' 0 8] := rfl

theorem check_mem_rxErrors_iff (f : RxFrame) : RxError.check ∈ rxErrors f ↔ checkOk f.chars = false := by
  simp [rxErrors]

theorem checkOk_eq_false_iff (chars : List Byte) :
    checkOk chars = false ↔
      chars.drop (3 + headerLength chars) ≠ checkBytes (chars.take (3 + headerLength chars)) := by
  simp [checkOk]

/-- Settles O53: the register folds one bit at a time, and Check is the one of the errors that compares it. -/
theorem checkCharactersFollowTheRule : Obligations.CheckCharactersFollowTheRule := by
  refine ⟨crc16_eq_foldl_flatMap, fun n f => ?sent, fun f => ?judged, by decide +kernel⟩
  case sent => rw [frameChars, checkBytes_eq]
  case judged => rw [check_mem_rxErrors_iff, checkOk_eq_false_iff, checkBytes_eq]

end Sys2Proof.Machine

/-! PROOFS. The notice queue (R190), READ_NOTICE (R191) and IRQ (R192): a notice joins the tail or is counted, a read takes
the head, and IRQ says whether any is held. -/

namespace Sys2Proof.Machine

/-! ### A notice is queued (R190) -/

theorem notify_of_room {n : Notice} {s : State} (room : s.notices.length < 16) :
    notify n s = { s with notices := s.notices ++ [n] } := if_pos room

theorem notify_of_full {n : Notice} {s : State} (full : 16 ≤ s.notices.length) :
    notify n s = { s with lost := min 255 (s.lost + 1) } := if_neg full.not_gt

@[simp] theorem notify_port (n : Notice) (s : State) : (notify n s).port = s.port := by
  obtain room | full := Nat.lt_or_ge s.notices.length 16
  · rw [notify_of_room room]
  · rw [notify_of_full full]

@[simp] theorem notify_awaitsCommand (n : Notice) (s : State) : (notify n s).awaitsCommand = s.awaitsCommand := by
  rw [State.awaitsCommand, State.awaitsCommand, notify_port]

theorem notify_notices_of_room {n : Notice} {s : State} (room : s.notices.length < 16) :
    (notify n s).notices = s.notices ++ [n] := by rw [notify_of_room room]

theorem notify_lost_of_room {n : Notice} {s : State} (room : s.notices.length < 16) :
    (notify n s).lost = s.lost := by rw [notify_of_room room]

theorem notify_notices_of_full {n : Notice} {s : State} (full : 16 ≤ s.notices.length) :
    (notify n s).notices = s.notices := by rw [notify_of_full full]

theorem notify_lost_of_full {n : Notice} {s : State} (full : 16 ≤ s.notices.length) :
    (notify n s).lost = min 255 (s.lost + 1) := by rw [notify_of_full full]

/-- The notice that takes the last place leaves the queue full for the next. -/
theorem notify_notify_of_one_place {n m : Notice} {s : State} (h : s.notices.length = 15) :
    notify m (notify n s) = { s with notices := s.notices ++ [n], lost := min 255 (s.lost + 1) } := by
  rw [notify_of_room (n := n) (by omega), notify_of_full (by simp [h])]

/-! ### The oldest notice is read (R191, R201) -/

theorem noticeBytes_some (x : Notice) (lost : Nat) :
    noticeBytes (some x) lost = x.record ++ [BitVec.ofNat 8 lost] ++ bytesOf 4 x.position := rfl

theorem noticeBytes_none (lost : Nat) :
    noticeBytes none lost = [0, 0, 0, 0, 0, BitVec.ofNat 8 lost, 0, 0, 0, 0] := rfl

theorem record_length (x : Notice) : x.record.length = 5 := by
  cases x with
  | watchHit w tag => cases tag <;> rfl
  | _ => rfl

theorem noticeBytes_some_take_record (x : Notice) (lost : Nat) : (noticeBytes (some x) lost).take 5 = x.record := by
  rw [noticeBytes_some, List.append_assoc, ← record_length x, List.take_left]

/-- What READ_NOTICE makes of a state in which the Local Port awaits a command. -/
def noticeRead (s : State) : State :=
  respond .ok (noticeBytes s.notices.head? s.lost) { s with notices := s.notices.tail, lost := 0 }

theorem exec_readNotice {s : State} (awaits : s.awaitsCommand) : exec .readNotice s = .next (noticeRead s) := by
  change execReadNotice s = _
  rw [execReadNotice, onPort_of_awaits awaits, noticeRead]

theorem exec_readNotice_notify {n : Notice} {s : State} (awaits : s.awaitsCommand) :
    exec .readNotice (notify n s) = .next (noticeRead (notify n s)) :=
  exec_readNotice (by rwa [notify_awaitsCommand])

@[simp] theorem noticeRead_notices (s : State) : (noticeRead s).notices = s.notices.tail := rfl
@[simp] theorem noticeRead_lost (s : State) : (noticeRead s).lost = 0 := rfl
@[simp] theorem noticeRead_result (s : State) :
    (noticeRead s).port.result = 0 :: noticeBytes s.notices.head? s.lost := rfl

/-! ### A notice before or after the read (R191) -/

theorem noticeRead_notify_of_room {n : Notice} {s : State} (room : s.notices.length < 16) :
    (noticeRead (notify n s)).notices = (s.notices ++ [n]).tail ∧
      (noticeRead (notify n s)).port.result = 0 :: noticeBytes (s.notices ++ [n]).head? s.lost := by
  simp [notify_notices_of_room room, notify_lost_of_room room]

theorem noticeRead_notify_of_full {n : Notice} {s : State} (full : 16 ≤ s.notices.length) :
    (noticeRead (notify n s)).notices = s.notices.tail ∧
      (noticeRead (notify n s)).port.result = 0 :: noticeBytes s.notices.head? (min 255 (s.lost + 1)) := by
  simp [notify_notices_of_full full, notify_lost_of_full full]

/-- A read leaves room for a notice, even in a queue that was full. -/
theorem notify_noticeRead {n : Notice} {s : State} (fits : s.notices.length ≤ 16) :
    (notify n (noticeRead s)).notices = s.notices.tail ++ [n] ∧ (notify n (noticeRead s)).lost = 0 := by
  have room : (noticeRead s).notices.length < 16 := by simp; omega
  rw [notify_notices_of_room room, notify_lost_of_room room]
  exact ⟨rfl, rfl⟩

/-- Settles O29: the read is one equation, and each row of the table puts a notice before it or after it. -/
theorem readNoticeTakesTheOldest : Obligations.ReadNoticeTakesTheOldest := by
  intro s n awaits record
  have readFirst := exec_readNotice awaits
  have readLater := exec_readNotice_notify (n := n) awaits
  refine ⟨fun x oldest => ?oldest, fun empty => ?empty, fun empty => ?beforeEmpty, fun empty => ?afterEmpty,
    fun x oldest full => ?beforeFull, fun full => ?afterFull, fun x oldest room => ?someHeld⟩
  case oldest => rw [readFirst, noticeRead, Option.mem_def.1 oldest, noticeBytes_some]
  case empty => rw [readFirst, noticeRead, empty, List.head?_nil, noticeBytes_none, List.tail_nil, ← empty]
  case beforeEmpty =>
    obtain ⟨left, result⟩ := noticeRead_notify_of_room (n := n) (s := s) (by simp [empty])
    rw [empty] at left result
    exact ⟨_, readLater, left, result⟩
  case afterEmpty =>
    obtain ⟨held, -⟩ := notify_noticeRead (n := n) (s := s) (by simp [empty])
    rw [empty] at held
    exact ⟨_, readFirst, held⟩
  case beforeFull =>
    obtain ⟨left, result⟩ := noticeRead_notify_of_full (n := n) full.ge
    rw [Option.mem_def.1 oldest] at result
    exact ⟨_, readLater, left, noticeRead_lost _, result⟩
  case afterFull => exact ⟨_, readFirst, notify_noticeRead full.le⟩
  case someHeld =>
    obtain ⟨rest, queue⟩ := List.head?_eq_some_iff.1 oldest
    obtain ⟨left, result⟩ := noticeRead_notify_of_room (n := n) room
    obtain ⟨held, -⟩ := notify_noticeRead (n := n) room.le
    rw [queue] at left result held ⊢
    refine ⟨⟨_, readLater, left, result⟩, ⟨_, readFirst, held, ?_⟩⟩
    rw [noticeRead_result, queue]
    rfl

/-! ### IRQ and the notice-pending bit (R183, R192) -/

theorem irq_eq_true_iff (s : State) : s.irq = true ↔ s.notices ≠ [] := by simp [State.irq]

theorem irq_eq_false_iff (s : State) : s.irq = false ↔ s.notices = [] := by simp [State.irq]

theorem notify_notices_ne_nil (n : Notice) (s : State) : (notify n s).notices ≠ [] := by
  obtain room | full := Nat.lt_or_ge s.notices.length 16
  · simp [notify_notices_of_room room]
  · rw [notify_notices_of_full full]
    exact List.ne_nil_of_length_pos (by omega)

theorem bitByte_getLsbD (b : Bool) (k i : Nat) :
    (bitByte b k).getLsbD i = (b && decide (i = k ∧ i < 8)) := by
  cases b with
  | false => exact BitVec.getLsbD_zero
  | true =>
    rw [bitByte, if_pos rfl, BitVec.getLsbD_shiftLeft, BitVec.getLsbD_one, Bool.eq_iff_iff]
    simp
    omega

/-- A line state code lies in the low four bits of the status byte. -/
theorem lineStateCode_getLsbD_four (l : Lifecycle) (st : Standing) : (lineStateCode l st).getLsbD 4 = false := by
  cases l <;> cases st <;> rfl

theorem statusByte_getLsbD_four (s : State) : s.statusByte.getLsbD 4 = s.irq := by
  simp only [State.statusByte, BitVec.getLsbD_or, lineStateCode_getLsbD_four, bitByte_getLsbD]
  simp

/-- Settles O30: a read takes the head, so IRQ stays exactly where a second notice was held behind it. -/
theorem noticesQueueAndIrq : Obligations.NoticesQueueAndIrq := by
  intro s n m
  refine ⟨irq_eq_true_iff s, notify_of_room, notify_of_full, notify_notify_of_one_place,
    fun awaits x oldest => ⟨_, exec_readNotice awaits, ?record, noticeRead_notices s⟩,
    (irq_eq_true_iff _).2 (notify_notices_ne_nil n s),
    fun awaits last => ⟨_, exec_readNotice awaits, (irq_eq_false_iff _).2 ?released⟩,
    fun awaits more => ⟨_, exec_readNotice awaits, (irq_eq_true_iff _).2 ?asserted⟩,
    fun k _ => rfl, statusByte_getLsbD_four s⟩
  case record => rw [noticeRead_result, Option.mem_def.1 oldest, List.take_succ_cons, noticeBytes_some_take_record]
  case released => exact List.eq_nil_of_length_eq_zero (by simp; omega)
  case asserted => exact List.ne_nil_of_length_pos (by simp; omega)

end Sys2Proof.Machine

/-! PROOFS. What the operations on the line, the marks and the notices leave alone: the rest of the state, the notices
already queued, and the transmitter but for a new pick (R51, R97, R113, R130, R190). -/

namespace Sys2Proof.Machine

-- One thread for the many small proofs of this part: each default proof waits for the declarations before it.
set_option Elab.async false

/-! ### Picks (R113) -/

/-- The Line Interface but for what a pick and an admission change. -/
def Lif.besidesPick (l : Lif) : Lif := { l with sequence := 0, transmitter := .silent, picked := none }

/-- R113: the transmitter stands as it stood, or one that sends nothing has picked anew. -/
def Repicks (s t : State) : Prop :=
  (t.lif.transmitter = s.lif.transmitter ∧ t.lif.picked = s.lif.picked) ∨
    (s.lif.transmitter = .silent ∨ s.lif.transmitter = .waiting) ∧
      (t.lif.transmitter = .silent ∧ t.lif.picked = none ∨
        t.lif.transmitter = .waiting ∧ t.lif.picked.isSome = true)

theorem Repicks.refl (s : State) : Repicks s s := .inl ⟨rfl, rfl⟩

theorem Repicks.trans {s t u : State} (h : Repicks s t) (k : Repicks t u) : Repicks s u := by
  obtain ⟨k₁, k₂⟩ | ⟨_, k⟩ := k
  · simpa only [Repicks, k₁, k₂] using h
  · refine .inr ⟨?_, k⟩
    obtain ⟨h₁, _⟩ | ⟨h, _⟩ := h
    · simpa only [← h₁]
    · exact h

/-! ### Picks and admissions (R113, R130) -/

/-- The state but for what picks and admissions change. -/
def State.besidesAdmission (s : State) : State := { s with lif := s.lif.besidesPick, outbound := [], nextFrame := 0 }

/-- Picks and admissions: nothing else changes, and the transmitter at most picks. -/
structure Admits (s t : State) : Prop where
  same : t.besidesAdmission = s.besidesAdmission
  picks : Repicks s t

theorem Admits.refl (s : State) : Admits s s := ⟨rfl, .refl s⟩

theorem Admits.trans {s t u : State} (h : Admits s t) (k : Admits t u) : Admits s u :=
  ⟨k.same.trans h.same, h.picks.trans k.picks⟩

theorem Admits.of_same {s t : State} (h : t.besidesAdmission = s.besidesAdmission := by rfl)
    (hx : t.lif.transmitter = s.lif.transmitter := by rfl) (hp : t.lif.picked = s.lif.picked := by rfl) : Admits s t :=
  ⟨h, .inl ⟨hx, hp⟩⟩

theorem Admits.ite {s t u : State} {c : Prop} [Decidable c] (h : Admits s t) (k : Admits s u) :
    Admits s (if c then t else u) := by split <;> assumption

theorem admits_pick (s : State) : Admits s (pick s) := by
  have quiet (h₁ : s.lif.transmitter ≠ .sending) (h₂ : s.lif.transmitter ≠ .listeningBack) :
      s.lif.transmitter = .silent ∨ s.lif.transmitter = .waiting := by
    cases h : s.lif.transmitter <;> simp_all
  unfold pick
  split
  · exact .refl s
  · exact .refl s
  · rename_i h₁ h₂
    split
    · exact ⟨rfl, .inr ⟨quiet h₁ h₂, .inr ⟨rfl, rfl⟩⟩⟩
    · exact ⟨rfl, .inr ⟨quiet h₁ h₂, .inl ⟨rfl, rfl⟩⟩⟩

theorem admits_pickIfSilent (s : State) : Admits s (pickIfSilent s) := .ite (admits_pick s) (.refl s)

theorem admits_repick (id : Nat) (s : State) : Admits s (repick id s) := by
  unfold repick
  split
  · exact .ite (admits_pick s) (.refl s)
  · exact .refl s

theorem admits_dropPick (s : State) : Admits s (dropPick s) := by
  unfold dropPick
  split
  · rename_i h; exact ⟨rfl, .inr ⟨.inr h, .inl ⟨rfl, rfl⟩⟩⟩
  · exact .refl s

theorem admits_admission {d : Dest} {p : Payload} {s t : State} (h : admission d p s = some t) : Admits s t := by
  rw [admission_eq_some h]
  exact Admits.trans .of_same (admits_pickIfSilent _)

/-! ### Operations on frames and notices -/

/-- The state but for what the operations on frames and notices change. -/
def State.besidesFrames (s : State) : State := { s.besidesAdmission with notices := [], lost := 0 }

/-- An operation on frames and notices: nothing else changes, and the transmitter at most picks. -/
structure Frames (s t : State) : Prop where
  same : t.besidesFrames = s.besidesFrames
  picks : Repicks s t
  notices : s.notices <+: t.notices

theorem Admits.notices {s t : State} (h : Admits s t) : t.notices = s.notices := (congrArg State.notices h.same :)

theorem Admits.frames {s t : State} (h : Admits s t) : Frames s t :=
  ⟨(congrArg State.besidesFrames h.same :), h.picks, h.notices ▸ List.prefix_rfl⟩

theorem Frames.refl (s : State) : Frames s s := ⟨rfl, .refl s, List.prefix_rfl⟩

theorem Frames.trans {s t u : State} (h : Frames s t) (k : Frames t u) : Frames s u :=
  ⟨k.same.trans h.same, h.picks.trans k.picks, h.notices.trans k.notices⟩

theorem Frames.of_same {s t : State} (h : t.besidesFrames = s.besidesFrames := by rfl)
    (hx : t.lif.transmitter = s.lif.transmitter := by rfl) (hp : t.lif.picked = s.lif.picked := by rfl)
    (hn : t.notices = s.notices := by rfl) : Frames s t :=
  ⟨h, .inl ⟨hx, hp⟩, hn ▸ List.prefix_rfl⟩

theorem Frames.ite {s t u : State} {c : Prop} [Decidable c] (h : Frames s t) (k : Frames s u) :
    Frames s (if c then t else u) := by split <;> assumption

theorem Frames.foldl {α : Type} (f : State → α → State) (h : ∀ s a, Frames s (f s a)) (l : List α) (s : State) :
    Frames s (l.foldl f s) := by
  induction l generalizing s with
  | nil => exact .refl s
  | cons a l ih => exact (h s a).trans (ih _)

theorem frames_notify (n : Notice) (s : State) : Frames s (notify n s) := by
  unfold notify
  split
  · exact ⟨rfl, .refl s, List.prefix_append ..⟩
  · exact .of_same

theorem frames_answerPeer (n : Station) (q : Seq) (k : AnswerKind) (tag : Byte) (s : State) :
    Frames s (answerPeer n q k tag s) := by
  unfold answerPeer
  split
  · rename_i h; exact (admits_admission h).frames
  · exact frames_notify _ s

/-- R17: a retirement without its end mark. -/
theorem frames_retired (e : Entry) (o : Retirement) (s : State) :
    Frames s (match e.origin with
      | .localPort => notify (.segmentRetired e.segment.tag e.origin o s.command) s
      | .peer n q => answerPeer n q (.finished o) e.segment.tag
          (notify (.segmentRetired e.segment.tag e.origin o s.command) s)) := by
  split
  · exact frames_notify _ _
  · exact (frames_notify _ _).trans (frames_answerPeer _ _ _ _ _)

/-- R17: a segment that is Stopped or Flushed has no end mark. -/
theorem frames_retireEffects (e : Entry) {o : Retirement} (ho : o = .stopped ∨ o = .flushed) (s : State) :
    Frames s (retireEffects e o s) := by
  have retired := frames_retired e o s
  unfold retireEffects
  obtain rfl | rfl := ho <;> exact retired

theorem frames_flushEntries (es : List Entry) (s : State) : Frames s (flushEntries es s) :=
  .foldl _ (fun s e => frames_retireEffects e (.inr rfl) s) es s

/-! ### Operations on owed frames and PRESENCEs (R97, R133) -/

/-- The state but for what the operations on frames and the frame owed change. -/
def State.besidesOffers (s : State) : State := { s.besidesAdmission with ownHalt := { s.ownHalt with owed := .none } }

/-- An operation on frames and the frame owed: nothing else changes, and the transmitter at most picks. -/
structure Offers (s t : State) : Prop where
  same : t.besidesOffers = s.besidesOffers
  picks : Repicks s t

theorem Admits.offers {s t : State} (h : Admits s t) : Offers s t :=
  ⟨(congrArg State.besidesOffers h.same :), h.picks⟩

theorem Offers.refl (s : State) : Offers s s := ⟨rfl, .refl s⟩

theorem Offers.trans {s t u : State} (h : Offers s t) (k : Offers t u) : Offers s u :=
  ⟨k.same.trans h.same, h.picks.trans k.picks⟩

theorem Offers.of_same {s t : State} (h : t.besidesOffers = s.besidesOffers := by rfl)
    (hx : t.lif.transmitter = s.lif.transmitter := by rfl) (hp : t.lif.picked = s.lif.picked := by rfl) : Offers s t :=
  ⟨h, .inl ⟨hx, hp⟩⟩

theorem Offers.ite {s t u : State} {c : Prop} [Decidable c] (h : Offers s t) (k : Offers s u) :
    Offers s (if c then t else u) := by split <;> assumption

theorem offers_askOwed (s : State) : Offers s (askOwed s) := by
  unfold askOwed
  split
  · exact .refl s
  · split
    · split
      · rename_i h; exact (admits_admission h).offers.trans .of_same
      · exact .refl s
    · exact .of_same

theorem offers_departed (id : Nat) (s : State) : Offers s (departed id s) :=
  (offers_askOwed s).trans (admits_repick id _).offers

theorem offers_supersede (f : OutFrame) (p : Presence) (s : State) : Offers s (supersede f p s) :=
  Offers.trans .of_same (offers_departed _ _)

theorem offers_updatePresence (c : Presence → Presence) (s : State) : Offers s (updatePresence c s) := by
  unfold updatePresence
  split
  · split
    · exact .ite .of_same (.ite .of_same (offers_supersede _ _ s))
    · exact .refl s
  · exact .refl s

theorem offers_announceHalt (s : State) : Offers s (announceHalt s) :=
  (offers_updatePresence _ s).trans (Offers.trans .of_same (offers_askOwed _))

theorem offers_requestPresence (s : State) : Offers s (requestPresence s) := by
  unfold requestPresence
  split
  · split
    · exact offers_updatePresence _ s
    · split
      · rename_i h; exact (admits_admission h).offers
      · exact .refl s
  · exact .refl s

/-! ### Operations on marks -/

/-- The state but for what the operations on frames, owed frames, marks, notices and events handed on change. -/
def State.besidesMarks (s : State) : State := { s.besidesOffers with notices := [], lost := 0, emissions := [], handed := .empty }

/-- An operation on frames, marks and notices: nothing else changes, and the transmitter at most picks. -/
structure Marks (s t : State) : Prop where
  same : t.besidesMarks = s.besidesMarks
  picks : Repicks s t
  notices : s.notices <+: t.notices

theorem Frames.marks {s t : State} (h : Frames s t) : Marks s t :=
  ⟨(congrArg State.besidesMarks h.same :), h.picks, h.notices⟩

theorem Offers.notices {s t : State} (h : Offers s t) : t.notices = s.notices := (congrArg State.notices h.same :)

theorem Offers.marks {s t : State} (h : Offers s t) : Marks s t :=
  ⟨(congrArg State.besidesMarks h.same :), h.picks, h.notices ▸ List.prefix_rfl⟩

theorem Admits.marks {s t : State} (h : Admits s t) : Marks s t := h.frames.marks

theorem Marks.refl (s : State) : Marks s s := ⟨rfl, .refl s, List.prefix_rfl⟩

theorem Marks.trans {s t u : State} (h : Marks s t) (k : Marks t u) : Marks s u :=
  ⟨k.same.trans h.same, h.picks.trans k.picks, h.notices.trans k.notices⟩

theorem Marks.of_same {s t : State} (h : t.besidesMarks = s.besidesMarks := by rfl)
    (hx : t.lif.transmitter = s.lif.transmitter := by rfl) (hp : t.lif.picked = s.lif.picked := by rfl)
    (hn : t.notices = s.notices := by rfl) : Marks s t :=
  ⟨h, .inl ⟨hx, hp⟩, hn ▸ List.prefix_rfl⟩

theorem Marks.ite {s t u : State} {c : Prop} [Decidable c] (h : Marks s t) (k : Marks s u) :
    Marks s (if c then t else u) := by split <;> assumption

theorem Marks.queue {s t : State} (h : Marks s t) : t.queue = s.queue := (congrArg State.queue h.same :)
theorem Marks.axis {s t : State} (h : Marks s t) : t.axis = s.axis := (congrArg State.axis h.same :)
theorem Marks.config {s t : State} (h : Marks s t) : t.config = s.config := (congrArg State.config h.same :)
theorem Marks.command {s t : State} (h : Marks s t) : t.command = s.command := (congrArg State.command h.same :)
theorem Marks.kept {s t : State} (h : Marks s t) : t.kept = s.kept := (congrArg State.kept h.same :)
theorem Marks.lif {s t : State} (h : Marks s t) : t.lif.besidesPick = s.lif.besidesPick := (congrArg State.lif h.same :)

theorem marks_handEvaluate (s : State) : Marks s (handEvaluate s) := .of_same

theorem marks_handLoopBack (m : Mark) (p : Option Position) (s : State) : Marks s (handLoopBack m p s) := .of_same

theorem marks_handGateChange (p : Gate → Bool) (s : State) : Marks s (handGateChange p s) :=
  .ite (marks_handEvaluate s) (.refl s)

theorem marks_notSent (r : NotSentReason) (m : Mark) (p : Option Position) (o : EmitOrigin) (i : Byte) (s : State) :
    Marks s (notSent r m p o i s) := (frames_notify _ s).marks.trans (marks_handLoopBack m p _)

theorem marks_requestMark (m : Mark) (p : Option Position) (o : EmitOrigin) (i : Byte) (s : State) :
    Marks s (requestMark m p o i s) := by
  unfold requestMark
  split
  · split
    · rename_i h; exact (admits_admission h).marks.trans .of_same
    · exact marks_notSent _ m p o i s
  · exact marks_notSent _ m p o i s

theorem marks_requestMark? (m : Option Mark) (o : EmitOrigin) (i : Byte) (s : State) :
    Marks s (requestMark? m o i s) := by
  unfold requestMark?
  split
  · exact marks_requestMark _ _ o i s
  · exact .refl s

theorem marks_retireEffects (e : Entry) (o : Retirement) (s : State) : Marks s (retireEffects e o s) := by
  have mark : Marks s (match o with
      | .completed | .cut => requestMark? e.segment.endMark .finish e.segment.tag s
      | _ => s) := by
    cases o with
    | completed | cut => exact marks_requestMark? _ _ _ s
    | stopped | flushed => exact .refl s
  unfold retireEffects
  exact mark.trans (frames_retired e o _).marks

end Sys2Proof.Machine

/-! PROOFS. What every inner operation of the blocks keeps of the order of the queue with the axis state (R9, R23) and of
the Line Interface (R113). -/

namespace Sys2Proof.Machine

-- One thread for the many small proofs of this part: each default proof waits for the declarations before it.
set_option Elab.async false

/-! ### The queue and the axis, with a start in progress (R12) -/

/-- QueueInOrder, or, while a start is in progress, the same with an axis that may still be GATED behind its Running
head. -/
structure InOrder (starting : Bool) (s : State) : Prop where
  heads : OnlyHeadRuns s
  empty : s.queue = [] → s.axis.state = .idle
  waiting : ∀ e ∈ s.queue.head?, e.state = .waiting → s.axis.state = .gated
  running : ∀ e ∈ s.queue.head?, e.state = .running →
    s.axis.state.moving = true ∨ s.axis.state = .dwell ∨ starting = true ∧ s.axis.state = .gated

theorem queueInOrder_iff (s : State) : QueueInOrder s ↔ InOrder false s := by
  constructor
  · rintro ⟨heads, empty, heads'⟩
    exact ⟨heads, empty, fun e he => (heads' e he).1, fun e he r => ((heads' e he).2 r).imp_right .inl⟩
  · rintro ⟨heads, empty, waiting, running⟩
    exact ⟨heads, empty, fun e he => ⟨waiting e he, fun r => by simpa using running e he r⟩⟩

/-- The order reads the queue and the axis state alone. -/
theorem InOrder.of_same {b : Bool} {s t : State} (h : InOrder b s) (hq : t.queue = s.queue := by rfl)
    (ha : t.axis.state = s.axis.state := by rfl) : InOrder b t := by
  obtain ⟨heads, empty, waiting, running⟩ := h
  refine ⟨?_, ?_, ?_, ?_⟩
  · simpa only [OnlyHeadRuns, hq] using heads
  all_goals rw [hq, ha]; assumption

theorem runningHead_eq_some {s : State} {e : Entry} :
    s.runningHead = some e ↔ ∃ rest, s.queue = e :: rest ∧ e.state = .running := by
  unfold State.runningHead
  split
  · rename_i x rest h
    rw [h]
    constructor
    · intro k
      split at k
      · rename_i hx
        cases k
        exact ⟨rest, rfl, hx⟩
      · cases k
    · rintro ⟨_, k, hx⟩
      cases k
      exact if_pos hx
  · rename_i h
    simp [h]

theorem runningHead_eq_none {s : State} : s.runningHead = none ↔ ∀ e ∈ s.queue.head?, e.state ≠ .running := by
  unfold State.runningHead
  split <;> rename_i h <;> simp [h]

/-- A queue headed by a Running entry, behind it a successor that waits or is Committed and then entries that wait. -/
theorem inOrder_running {b : Bool} {s : State} {e : Entry} {rest : List Entry} (hq : s.queue = e :: rest)
    (he : e.state = .running) (htail : ∀ n ∈ rest, n.state ≠ .running) (hrest : ∀ n ∈ rest.tail, n.state = .waiting)
    (ha : s.axis.state.moving = true ∨ s.axis.state = .dwell ∨ b = true ∧ s.axis.state = .gated) : InOrder b s := by
  constructor <;> simp_all [OnlyHeadRuns]

/-- A queue in which every entry waits, the axis at rest with it. -/
theorem inOrder_waiting {b : Bool} {s : State} (h : ∀ e ∈ s.queue, e.state = .waiting)
    (ha : s.axis.state = restState s.queue) : InOrder b s := by
  cases hq : s.queue with
  | nil => constructor <;> simp_all [OnlyHeadRuns, restState]
  | cons e rest =>
    have tail (n) (hn : n ∈ rest.tail) : n.state = .waiting := h n (by simp [hq, List.mem_of_mem_tail hn])
    constructor <;> simp_all [OnlyHeadRuns, restState]

/-- Behind the head nothing runs, and behind the second entry everything waits. -/
theorem OnlyHeadRuns.tail_uncommit {s : State} {e : Entry} {rest : List Entry} (h : OnlyHeadRuns s)
    (hq : s.queue = e :: rest) : ∀ n ∈ rest.map Entry.uncommit, n.state = .waiting := by
  intro n hn
  obtain ⟨m, hm, rfl⟩ := List.mem_map.1 hn
  have := h.2.1 m (by rw [hq]; exact hm)
  unfold Entry.uncommit
  cases hs : m.state <;> simp_all

/-- With a Running head the axis state may become any of motion. -/
theorem InOrder.move {b b' : Bool} {s t : State} (h : InOrder b s) (hr : s.runningHead.isSome = true)
    (hq : t.queue = s.queue) (ha : t.axis.state.moving = true ∨ t.axis.state = .dwell) :
    InOrder b' t := by
  obtain ⟨e, he⟩ := Option.isSome_iff_exists.1 hr
  obtain ⟨rest, hs, hrun⟩ := runningHead_eq_some.1 he
  have heads := h.heads
  refine inOrder_running (hq.trans hs) hrun ?_ ?_ (ha.imp_right .inl)
  · simpa [hs] using heads.2.1
  · simpa [hs] using heads.2.2.1

theorem InOrder.of_empty {b b' : Bool} {s : State} (h : InOrder b s) (hq : s.queue = []) : InOrder b' s :=
  inOrder_waiting (by simp [hq]) (by rw [h.empty hq, hq]; rfl)

/-- An axis in motion goes on in motion. -/
theorem InOrder.keep_moving {b : Bool} {s t : State} (h : InOrder b s) (hs : s.axis.state.moving = true)
    (hq : t.queue = s.queue) (ht : t.axis.state.moving = true) : InOrder b t := by
  cases hq' : s.queue with
  | nil => simp [h.empty hq', AxisState.moving] at hs
  | cons e rest =>
    have running : e.state = .running := by
      cases he : e.state with
      | running => rfl
      | waiting => simp [h.waiting e (by simp [hq']) he, AxisState.moving] at hs
      | committed => exact absurd he (h.heads.1 e (by simp [hq']))
    exact h.move (by simp [State.runningHead, hq', running]) hq (.inl ht)

/-! ### Inner operations -/

/-- An inner operation: the Line Interface stays but for a pick, and the order of the queue is kept. -/
structure Inner (s t : State) : Prop where
  lif : t.lif.besidesPick = s.lif.besidesPick
  picks : Repicks s t
  order : ∀ b, InOrder b s → InOrder b t

theorem Inner.refl (s : State) : Inner s s := ⟨rfl, .inl ⟨rfl, rfl⟩, fun _ => id⟩

theorem Inner.trans {s t u : State} (h : Inner s t) (k : Inner t u) : Inner s u :=
  ⟨k.lif.trans h.lif, h.picks.trans k.picks, fun b => k.order b ∘ h.order b⟩

theorem Inner.ite {s t u : State} {c : Prop} [Decidable c] (h : Inner s t) (k : Inner s u) :
    Inner s (if c then t else u) := by split <;> assumption

theorem Inner.foldl {α : Type} (f : State → α → State) (h : ∀ s a, Inner s (f s a)) (l : List α) (s : State) :
    Inner s (l.foldl f s) := by
  induction l generalizing s with
  | nil => exact .refl s
  | cons a l ih => exact (h s a).trans (ih _)

theorem Marks.inner {s t : State} (h : Marks s t) : Inner s t :=
  ⟨h.lif, h.picks, fun _ k => k.of_same h.queue (by rw [h.axis])⟩

theorem Frames.inner {s t : State} (h : Frames s t) : Inner s t := h.marks.inner

theorem Admits.inner {s t : State} (h : Admits s t) : Inner s t := h.marks.inner

theorem Offers.inner {s t : State} (h : Offers s t) : Inner s t := h.marks.inner

/-- An operation on other fields. -/
theorem Inner.of_same {s t : State} (hl : t.lif = s.lif := by rfl) (hq : t.queue = s.queue := by rfl)
    (ha : t.axis.state = s.axis.state := by rfl) : Inner s t :=
  ⟨by rw [hl], .inl (by rw [hl]; exact ⟨rfl, rfl⟩), fun _ k => k.of_same hq ha⟩

/-- An operation on the queue and the axis that puts them in order. -/
theorem Inner.of_order {s t : State} (h : ∀ b, InOrder b s → InOrder b t) (hl : t.lif = s.lif := by rfl) : Inner s t :=
  ⟨by rw [hl], .inl (by rw [hl]; exact ⟨rfl, rfl⟩), h⟩

/-! ### Retirement, flushes, stops -/

/-- The head is off the queue and the axis at rest with what is left. -/
def State.headless (s : State) (rest : List Entry) : State :=
  { s with
    queue := rest.map Entry.uncommit
    axis := { s.axis.ended with state := restState (rest.map Entry.uncommit) } }

theorem retireHead_cons (o : Retirement) {s : State} {e : Entry} {rest : List Entry} (h : s.queue = e :: rest) :
    retireHead o s = handEvaluate (retireEffects e o (s.headless rest)) := by
  simp only [retireHead, h, State.headless]

theorem retireHead_nil (o : Retirement) {s : State} (h : s.queue = []) : retireHead o s = s := by
  simp only [retireHead, h]

/-- R17: the entries behind a retired head wait, and the axis is at rest. -/
theorem retireHead_inOrder (o : Retirement) {s : State} {b b' : Bool} (h : InOrder b s) :
    InOrder b' (retireHead o s) := by
  cases hq : s.queue with
  | nil => rw [retireHead_nil o hq]; exact h.of_empty hq
  | cons e rest =>
    rw [retireHead_cons o hq]
    have m := (marks_retireEffects e o (s.headless rest)).trans (marks_handEvaluate _)
    refine InOrder.of_same ?_ m.queue (by rw [m.axis])
    exact inOrder_waiting (h.heads.tail_uncommit hq) rfl

theorem inner_retireHead (o : Retirement) (s : State) : Inner s (retireHead o s) := by
  have order b (h : InOrder b s) : InOrder b (retireHead o s) := retireHead_inOrder o h
  cases hq : s.queue with
  | nil => rw [retireHead_nil o hq]; exact .refl s
  | cons e rest =>
    have m : Marks (s.headless rest) (retireHead o s) := by
      rw [retireHead_cons o hq]; exact (marks_retireEffects e o _).trans (marks_handEvaluate _)
    exact ⟨m.lif, m.picks, order⟩

theorem inner_flushBehind (s : State) : Inner s (flushBehind s) := by
  unfold flushBehind
  split
  · rename_i e rest hq
    split
    · rename_i he
      refine Inner.trans (.of_order fun b h => ?_) (frames_flushEntries rest { s with queue := [e] }).inner
      exact inOrder_running (s := { s with queue := [e] }) rfl he (by simp) (by simp)
        (h.running e (by simp [hq]) he)
    · refine Inner.trans (t := { s with queue := [], axis := { s.axis with state := .idle } }) ?_
        (frames_flushEntries _ _).inner
      exact .of_order fun b _ => inOrder_waiting (by simp) rfl
  · exact .refl s

theorem flushBehind_of_running {s : State} {e : Entry} (h : s.runningHead = some e) :
    (flushBehind s).queue = [e] ∧ (flushBehind s).axis = s.axis := by
  obtain ⟨rest, hq, he⟩ := runningHead_eq_some.1 h
  unfold flushBehind
  rw [hq]
  simp only [he, if_true]
  exact ⟨(frames_flushEntries _ _).marks.queue, (frames_flushEntries _ _).marks.axis⟩

theorem runningHead_of_queue {s t : State} (h : t.queue = s.queue) : t.runningHead = s.runningHead := by
  simp only [State.runningHead, h]

theorem runningHead_flushBehind {s : State} {e : Entry} (h : s.runningHead = some e) :
    (flushBehind s).runningHead = some e := by
  obtain ⟨_, _, he⟩ := runningHead_eq_some.1 h
  exact runningHead_eq_some.2 ⟨[], (flushBehind_of_running h).1, he⟩

theorem inner_brake (c : BrakeCause) (r : Nat) (e : Entry) {s : State} (h : s.runningHead.isSome = true) :
    Inner s (brake c r e s) :=
  .ite (inner_retireHead _ s) (.of_order fun _ k => k.move h rfl (.inl rfl))

theorem inner_decelerateHead (e : Entry) {s : State} (h : s.runningHead.isSome = true) :
    Inner s (decelerateHead e s) := by
  unfold decelerateHead
  split
  case h_1 => exact .of_same (ha := rfl)
  case h_5 => exact inner_retireHead _ s
  all_goals exact inner_brake _ _ e h

theorem inner_orderStop (k : StopKind) (s : State) : Inner s (orderStop k s) := by
  unfold orderStop
  split
  · exact inner_flushBehind s
  · exact (inner_retireHead _ s).trans (inner_flushBehind _)
  · rename_i e he
    exact (inner_flushBehind s).trans (inner_decelerateHead e (by rw [runningHead_flushBehind he]; rfl))

theorem offers_raiseByCause (c : Cause) (s : State) :
    raiseByCause c s = s ∨ ∃ h, Offers { s with ownHalt := h } (raiseByCause c s) := by
  unfold raiseByCause
  split
  · exact .inr ⟨_, offers_announceHalt _⟩
  · exact .inl rfl

theorem inner_raiseByCause (c : Cause) (s : State) : Inner s (raiseByCause c s) := by
  obtain h | ⟨_, h⟩ := offers_raiseByCause c s
  · rw [h]; exact .refl s
  · exact Inner.trans .of_same h.inner

theorem inner_raiseCause (c : Cause) (s : State) : Inner s (raiseCause c s) := by
  refine .ite (.refl s) (Inner.trans (t := { s with faults := s.faults.put c true }) .of_same ?_)
  exact (frames_notify _ _).inner.trans ((inner_orderStop _ _).trans (inner_raiseByCause c _))

theorem inner_checkGap (s : State) : Inner s (checkGap s) := .ite (inner_raiseCause _ s) (.refl s)

theorem inner_trigger (n : Fin 4) (x : Trigger) (s : State) : Inner s (trigger n x s) :=
  .ite .of_same (Inner.trans .of_same (frames_notify _ _).inner)

/-! ### The plan, junctions, cuts -/

theorem consumeGate_eq {g : Gate} {s t : State} (h : consumeGate g s = some t) :
    ∃ r, t = { s with reactions := r } := by
  unfold consumeGate at h
  split at h
  · simp only at h
    split at h
    · cases h
    · cases h; exact ⟨_, rfl⟩
  · cases h; exact ⟨_, rfl⟩

theorem consumeSecond_eq {s t : State} (h : consumeSecond s = some t) : ∃ r, t = { s with reactions := r } := by
  unfold consumeSecond at h
  split at h
  · split at h
    · cases h; exact ⟨_, rfl⟩
    · exact consumeGate_eq h
  · cases h

theorem inner_replan (s : State) : Inner s (replan s) := .ite (.refl s) .of_same

theorem inner_commitSecond {s : State} (h : s.runningHead.isSome = true) : Inner s (commitSecond s) := by
  unfold commitSecond
  split
  · rename_i e n rest hq
    obtain ⟨e', he'⟩ := Option.isSome_iff_exists.1 h
    obtain ⟨_, hq', hr⟩ := runningHead_eq_some.1 he'
    obtain ⟨rfl, -⟩ : e = e' ∧ _ := by simpa [hq] using hq'
    refine .of_order fun b k => inOrder_running rfl hr ?_ ?_ (k.running e (by simp [hq]) hr)
    · intro m hm
      obtain rfl | hm := List.mem_cons.1 hm
      · simp
      · exact k.heads.2.1 m (by simp [hq, hm])
    · exact fun m hm => k.heads.2.2.1 m (by simpa [hq] using hm)
  · exact .refl s

theorem inner_commitPlan {s : State} (h : s.runningHead.isSome = true) : Inner s (commitPlan s) := by
  unfold commitPlan
  split
  · exact .refl s
  · split
    · exact .of_same
    · split
      · rename_i ht
        obtain ⟨r, rfl⟩ := consumeSecond_eq ht
        exact Inner.trans .of_same (inner_commitSecond h)
      · exact .of_same

theorem queue_commitSecond_head (s : State) : (commitSecond s).queue.head? = s.queue.head? := by
  unfold commitSecond
  split
  · rename_i h; simp [h]
  · rfl

theorem runningHead_of_head {s t : State} (h : t.queue.head? = s.queue.head?) : t.runningHead = s.runningHead := by
  cases hs : s.queue <;> cases ht : t.queue <;> simp_all [State.runningHead]

theorem runningHead_commitPlan (s : State) : (commitPlan s).runningHead = s.runningHead := by
  apply runningHead_of_head
  unfold commitPlan
  split
  · rfl
  · split
    · rfl
    · split
      · rename_i ht
        obtain ⟨r, rfl⟩ := consumeSecond_eq ht
        exact queue_commitSecond_head _
      · rfl

theorem runningHead_replan (s : State) : (replan s).runningHead = s.runningHead := by
  unfold replan; split <;> rfl

theorem inner_decelerationPoint (e : Entry) {s : State} (h : s.runningHead.isSome = true) :
    Inner s (decelerationPoint e s) := by
  refine .ite ((inner_commitPlan h).trans (.of_order fun b k => ?_)) (.refl s)
  exact k.move (by rwa [runningHead_commitPlan]) rfl (.inl rfl)

theorem startSpeed_moving (top base units : Nat) : (startSpeed top base units).1.moving = true := by
  unfold startSpeed
  split
  · rfl
  · simp only; split <;> rfl

theorem takeOver_moving (n : Entry) (r : Ramp) (d : Dir) (s : State) :
    (takeOver n r d s).axis.state.moving = true := startSpeed_moving _ _ _

theorem junction_inOrder {s : State} {b b' : Bool} (h : InOrder b s) : InOrder b' (junction s) := by
  unfold junction
  split
  · rename_i e n rest hq
    split
    · rename_i r d _ _
      split
      · set t := retireEffects e .completed
          { s with queue := { n with state := .running, consumed := false } :: rest } with ht
        refine InOrder.of_same (s := takeOver n r d t) ?_ (marks_requestMark? _ _ _ _).queue
          (congrArg Axis.state (marks_requestMark? _ _ _ _).axis)
        refine inOrder_running (s := takeOver n r d t) (marks_retireEffects _ _ _).queue rfl ?_ ?_
          (.inl (takeOver_moving n r d t))
        · intro m hm; rw [h.heads.2.2.1 m (by simpa [hq] using hm)]; simp
        · exact fun m hm => h.heads.2.2.1 m (by simpa [hq] using List.mem_of_mem_tail hm)
      · exact retireHead_inOrder _ h
    · exact retireHead_inOrder _ h
  · exact retireHead_inOrder _ h

theorem inner_junction (s : State) : Inner s (junction s) := by
  have order b (h : InOrder b s) : InOrder b (junction s) := junction_inOrder h
  have line : (junction s).lif.besidesPick = s.lif.besidesPick ∧ Repicks s (junction s) := by
    have retired := inner_retireHead .completed s
    unfold junction
    split
    · rename_i e n rest hq
      split
      · rename_i r d _ _
        split
        · have m := marks_retireEffects e .completed
            { s with queue := { n with state := .running, consumed := false } :: rest }
          have k := marks_requestMark? n.segment.startMark .start n.segment.tag (takeOver n r d
            (retireEffects e .completed { s with queue := { n with state := .running, consumed := false } :: rest }))
          exact ⟨k.lif.trans m.lif, Repicks.trans m.picks k.picks⟩
        · exact ⟨retired.lif, retired.picks⟩
      · exact ⟨retired.lif, retired.picks⟩
    · exact ⟨retired.lif, retired.picks⟩
  exact ⟨line.1, line.2, order⟩

theorem inner_cutBrake (e : Entry) {s : State} (h : s.runningHead.isSome = true) : Inner s (cutBrake e s) := by
  obtain ⟨x, hx⟩ := Option.isSome_iff_exists.1 h
  obtain ⟨rest, hq, hr⟩ := runningHead_eq_some.1 hx
  unfold cutBrake
  refine Inner.trans (.of_order fun b k => ?_) (inner_brake _ _ e ?_)
  · refine inOrder_running (e := x) (rest := rest.map Entry.uncommit) (by simp [hq]) hr ?_ ?_
      (k.running x (by simp [hq]) hr)
    · intro m hm; rw [k.heads.tail_uncommit hq m hm]; simp
    · exact fun m hm => k.heads.tail_uncommit hq m (List.mem_of_mem_tail hm)
  · simp [State.runningHead, hq, hr]

theorem inner_cutChainedRun (e : Entry) {s : State} (h : s.runningHead.isSome = true) :
    Inner s (cutChainedRun e s) := by
  have hrun : (commitPlan (replan s)).runningHead.isSome = true := by
    rwa [runningHead_commitPlan, runningHead_replan]
  have plan := (inner_replan s).trans (inner_commitPlan (by rwa [runningHead_replan]))
  unfold cutChainedRun
  exact .ite (.ite (plan.trans (.of_order fun b k => k.move hrun rfl (.inl rfl))) (plan.trans (inner_junction _)))
    (plan.trans (inner_cutBrake e hrun))

theorem inner_takeCut (s : State) : Inner s (takeCut s) := by
  unfold takeCut
  split
  · exact .refl s
  · rename_i e he
    have h : s.runningHead.isSome = true := by rw [he]; rfl
    split
    case h_1 => exact inner_retireHead _ s
    case h_5 => exact .refl s
    all_goals exact .ite (.refl s) (.ite (inner_cutChainedRun _ h) (inner_cutBrake _ h))

end Sys2Proof.Machine

/-! PROOFS. The inner operations go on: pulses, finds, starts, watches, reactions, and the taking of what is handed on. -/

namespace Sys2Proof.Machine

-- One thread for the many small proofs of this part: each default proof waits for the declarations before it.
set_option Elab.async false

/-! ### Pulses (R25, R46) -/

theorem inner_rearmPulse (s : State) : Inner s (rearmPulse s) := .ite .of_same (.refl s)

theorem inner_refuseStep (s : State) : Inner s (refuseStep s) :=
  .ite ((inner_retireHead _ s).trans (inner_raiseCause _ _)) ((inner_raiseCause _ s).trans (inner_rearmPulse _))

/-- R26: a pulse leaves an axis in motion in motion, and any other as it is. -/
theorem speedAfter_state (e : Entry) (s : State) :
    (speedAfter e s).1 = s.axis.state ∨ s.axis.state.moving = true ∧ (speedAfter e s).1.moving = true := by
  unfold speedAfter
  split
  · rename_i h
    refine .inr ⟨by rw [h]; rfl, ?_⟩
    split
    · simp only; split <;> rfl
    · rfl
  · rename_i h; exact .inl h.symm
  · rename_i h; exact .inl h.symm
  · exact .inl rfl

theorem inner_emitPulse (e : Entry) (s : State) : Inner s (emitPulse e s) := by
  refine .of_order fun b h => ?_
  have hs : (emitPulse e s).axis.state = (speedAfter e s).1 := rfl
  obtain same | ⟨before, after⟩ := speedAfter_state e s
  · exact h.of_same rfl (hs.trans same)
  · exact h.keep_moving before rfl (hs ▸ after)

theorem inner_endMove {s : State} (h : s.runningHead.isSome = true) : Inner s (endMove s) :=
  ((inner_replan s).trans (inner_commitPlan (by rwa [runningHead_replan]))).trans
    (.ite (inner_junction _) (inner_retireHead _ _))

theorem inner_endMotion (s : State) : Inner s (endMotion s) := by
  unfold endMotion
  split
  · exact .refl s
  · rename_i e he
    have h : s.runningHead.isSome = true := by rw [he]; rfl
    simp only
    split
    · exact .ite (inner_retireHead _ s) (.refl s)
    · exact .ite (inner_endMove h) (.refl s)
    · exact .ite (inner_endMove h) (.refl s)
    · exact .ite (inner_endMove h) (.ite (.ite (inner_retireHead _ s) (.refl s)) (.ite (inner_junction s) (.refl s)))
    · exact .refl s

/-- R27: a motion segment as it sets out from standstill, before its start check. -/
def State.setOut (g : Segment) (r : Ramp) (d : Dir) (s : State) : State :=
  { s with
    axis := { s.axis with
      state := (startSpeed r.top s.baseUnits s.baseUnits).1, speed := (startSpeed r.top s.baseUnits s.baseUnits).2
      dir := d, pulseMode := s.config.pulseMode, remaining := g.body.pulsesAt s.command, blend := none
      committed := false, braking := .none, brakeRate := 0, found := false, dwellTimer := 0, pulseTimer := 0 } }

section
variable {watch : WatchTake} (hw : ∀ l s, Inner s (watch l s))
include hw

theorem inner_pulse (s : State) : Inner s (pulse watch s) := by
  unfold pulse
  split
  · exact .refl s
  · rename_i e he
    have plan : Inner s (decelerationPoint e (replan s)) :=
      (inner_replan s).trans (inner_decelerationPoint e (by rw [runningHead_replan, he]; rfl))
    refine .ite (.ite (plan.trans (inner_refuseStep _)) ?_) (.refl s)
    exact (plan.trans (inner_emitPulse e _)).trans ((hw _ _).trans ((inner_checkGap _).trans (inner_endMotion _)))

theorem inner_jumpPositions (c m : Position) (s : State) : Inner s (jumpPositions watch c m s) :=
  Inner.trans .of_same (hw _ _)

theorem inner_zeroAtFind (z : Bool) (s : State) : Inner s (zeroAtFind watch z s) :=
  .ite (inner_jumpPositions hw _ _ s) (.refl s)

theorem inner_seekFind_standstill (s : State) : Inner s (seekFind watch true s) := by
  unfold seekFind
  split
  · split
    · exact Inner.trans .of_same ((inner_zeroAtFind hw _ _).trans (inner_retireHead _ _))
    · exact .refl s
  · exact .refl s

/-! ### Starts (R12) -/

omit hw in
/-- A part of a start behind the Running head: from an axis still GATED to one in order. -/
structure Starts (s t : State) : Prop where
  lif : t.lif.besidesPick = s.lif.besidesPick
  picks : Repicks s t
  order : ∀ b, InOrder true s → InOrder b t

omit hw in
theorem Inner.starts {s t u : State} (h : Inner s t) (k : Starts t u) : Starts s u :=
  ⟨k.lif.trans h.lif, h.picks.trans k.picks, fun b o => k.order b (h.order true o)⟩

omit hw in
theorem Starts.inner {s t u : State} (h : Starts s t) (k : Inner t u) : Starts s u :=
  ⟨k.lif.trans h.lif, h.picks.trans k.picks, fun b o => k.order b (h.order b o)⟩

omit hw in
/-- With a Running head the axis is set in motion or to DWELL. -/
theorem Starts.of_axis {s : State} {a : Axis} (h : s.runningHead.isSome = true)
    (ha : a.state.moving = true ∨ a.state = .dwell) : Starts s { s with axis := a } :=
  ⟨rfl, .inl ⟨rfl, rfl⟩, fun _ o => o.move h rfl ha⟩

omit hw in
theorem starts_retireHead (o : Retirement) (s : State) : Starts s (retireHead o s) :=
  ⟨(inner_retireHead o s).lif, (inner_retireHead o s).picks, fun _ h => retireHead_inOrder o h⟩

omit hw in
theorem startMotion_eq (watch : WatchTake) (g : Segment) (r : Ramp) (d : Dir) (s : State) :
    startMotion watch g r d s =
      match startRefusal g.body d (s.setOut g r d) with
      | some c => raiseCause c (s.setOut g r d)
      | none =>
        let t := requestMark? g.startMark .start g.tag (s.setOut g r d)
        if findsAtStart g.body t then seekFind watch true t else pulse watch t := rfl

theorem starts_startMotion (g : Segment) (r : Ramp) (d : Dir) {s : State} (h : s.runningHead.isSome = true) :
    Starts s (startMotion watch g r d s) := by
  rw [startMotion_eq]
  have out : Starts s (s.setOut g r d) := .of_axis h (.inl (startSpeed_moving r.top s.baseUnits s.baseUnits))
  split
  · exact out.inner (inner_raiseCause _ _)
  · exact out.inner ((marks_requestMark? _ _ _ _).inner.trans (.ite (inner_seekFind_standstill hw _) (inner_pulse hw _)))

theorem starts_runHead (g : Segment) {s : State} (h : s.runningHead.isSome = true) :
    Starts s (runHead watch g s) := by
  have mark := marks_requestMark? g.startMark .start g.tag s
  unfold runHead
  split
  · exact mark.inner.starts (.of_axis (by rwa [runningHead_of_queue mark.queue]) (.inr rfl))
  · exact (mark.inner.trans ((inner_jumpPositions hw _ _ _).trans (inner_checkGap _))).starts (starts_retireHead _ _)
  · split
    · exact starts_startMotion hw g _ _ h
    · exact mark.inner.starts (starts_retireHead _ _)

omit hw in
/-- R12: the Waiting head becomes Running. -/
theorem InOrder.start {b : Bool} {s t : State} {e : Entry} {rest : List Entry} (h : InOrder b s)
    (hq : s.queue = e :: rest) (he : e.state = .waiting)
    (ht : t.queue = { e with state := .running, consumed := false } :: rest) (ha : t.axis = s.axis) :
    InOrder true t := by
  obtain ⟨-, -, -, behind⟩ := h.heads
  have tail := behind e (by simp [hq]) he
  refine inOrder_running ht rfl ?_ ?_ (.inr (.inr ⟨rfl, ?_⟩))
  · intro n hn; rw [tail n (by simpa [hq] using hn)]; simp
  · exact fun n hn => tail n (by simpa [hq] using List.mem_of_mem_tail hn)
  · rw [ha]; exact h.waiting e (by simp [hq]) he

theorem inner_startHead {e : Entry} {rest : List Entry} {s : State} (hq : s.queue = e :: rest)
    (he : e.state = .waiting) : Inner s (startHead watch e rest s) := by
  unfold startHead
  split
  · rename_i t ht
    obtain ⟨r, rfl⟩ : ∃ r, t = { s with reactions := r } := by
      split at ht
      · cases ht; exact ⟨_, rfl⟩
      · exact consumeGate_eq ht
    have k := starts_runHead hw e.segment (s := { s with
      reactions := r, queue := { e with state := .running, consumed := false } :: rest }) rfl
    exact ⟨k.lif, k.picks, fun b h => k.order b (h.start hq he rfl rfl)⟩
  · exact .refl s

theorem inner_evaluateHead (s : State) : Inner s (evaluateHead watch s) := by
  unfold evaluateHead
  split
  · rename_i e rest hq
    split
    · rename_i h
      exact inner_startHead hw hq (by simp_all)
    · exact .refl s
  · exact .refl s

end

/-! ### Watches (R71, R73) -/

theorem inner_watchLater (l : List (WatchSource × Position)) (s : State) : Inner s (watchLater l s) := .of_same

theorem inner_evaluateWithin (n : Nat) (s : State) : Inner s (evaluateWithin n s) := by
  induction n generalizing s with
  | zero => exact .refl s
  | succ n ih =>
    exact .ite (Inner.trans .of_same ((inner_evaluateHead inner_watchLater _).trans (ih _))) (.refl s)

theorem inner_evaluateNow (s : State) : Inner s (evaluateNow s) := inner_evaluateWithin _ s

theorem inner_hitEffects (w : Fin 4) (r : Watch) (s : State) : Inner s (hitEffects w r s) := by
  have mark : Inner s (requestMark? r.mark .watch (byteOfNat w.val)
      (notify (.watchHit w { s with watches := s.watches.set w.val { r with state := .hit } }.headTag)
        { s with watches := s.watches.set w.val { r with state := .hit } })) :=
    Inner.trans .of_same ((frames_notify _ _).marks.trans (marks_requestMark? _ _ _ _)).inner
  exact .ite (mark.trans (inner_takeCut _)) mark

theorem inner_hitWatch (w : Fin 4) (r : Watch) (s : State) : Inner s (hitWatch w r s) :=
  (inner_hitEffects w r s).trans (marks_handGateChange _ _).inner

theorem inner_compareWatch (x : WatchSource) (p : Position) (s : State) (w : Fin 4) :
    Inner s (compareWatch x p s w) :=
  .ite (.ite ((inner_hitWatch w _ s).trans (inner_evaluateNow _)) .of_same) (.refl s)

theorem inner_compareWatches (x : WatchSource) (p : Position) (s : State) : Inner s (compareWatches x p s) :=
  .foldl _ (inner_compareWatch x p) _ s

theorem inner_watchNow (l : List (WatchSource × Position)) (s : State) : Inner s (watchNow l s) := by
  unfold watchNow
  induction l generalizing s with
  | nil => exact .refl s
  | cons v l ih =>
    rw [List.foldl_cons]
    exact (inner_compareWatches v.1 v.2 s).trans (ih _)

/-! ### A find in motion (R32, R33) -/

/-- A SEEK that has found and is still in motion: no cut and no evaluation reaches its head. -/
structure FindHolds (s : State) : Prop where
  running : s.runningHead.isSome = true
  found : s.axis.found = true
  motion : s.axis.state = .rampUp ∨ s.axis.state = .cruise

theorem FindHolds.of_same {s t : State} (h : FindHolds s) (hq : t.queue = s.queue) (ha : t.axis = s.axis) :
    FindHolds t := by
  refine ⟨by rw [runningHead_of_queue hq]; exact h.running, ?_, ?_⟩ <;> rw [ha]
  exacts [h.found, h.motion]

theorem takeCut_of_findHolds {s : State} (h : FindHolds s) : takeCut s = s := by
  obtain ⟨e, he⟩ := Option.isSome_iff_exists.1 h.running
  obtain ha | ha := h.motion <;> simp [takeCut, he, ha, h.found]

theorem evaluateHead_of_running (watch : WatchTake) {s : State} (h : s.runningHead.isSome = true) :
    evaluateHead watch s = s := by
  obtain ⟨e, he⟩ := Option.isSome_iff_exists.1 h
  obtain ⟨rest, hq, hr⟩ := runningHead_eq_some.1 he
  simp [evaluateHead, hq, hr]

theorem evaluateWithin_of_running (n : Nat) {s : State} (h : s.runningHead.isSome = true) :
    (evaluateWithin n s).queue = s.queue ∧ (evaluateWithin n s).axis = s.axis := by
  induction n generalizing s with
  | zero => exact ⟨rfl, rfl⟩
  | succ n ih =>
    unfold evaluateWithin
    split
    · rw [evaluateHead_of_running _ (by exact h)]
      exact ih h
    · exact ⟨rfl, rfl⟩

theorem compareWatch_of_findHolds (x : WatchSource) (p : Position) {s : State} (w : Fin 4) (h : FindHolds s) :
    (compareWatch x p s w).queue = s.queue ∧ (compareWatch x p s w).axis = s.axis := by
  have hit (r : Watch) : (hitWatch w r s).queue = s.queue ∧ (hitWatch w r s).axis = s.axis := by
    have mark := (frames_notify (.watchHit w { s with watches := s.watches.set w.val { r with state := .hit } }.headTag)
      { s with watches := s.watches.set w.val { r with state := .hit } }).marks.trans
        (marks_requestMark? r.mark .watch (byteOfNat w.val) _)
    have hand (t : State) (ht : FindHolds t) : (handWatch w (if r.cutOnHit then takeCut t else t)).queue = t.queue ∧
        (handWatch w (if r.cutOnHit then takeCut t else t)).axis = t.axis := by
      rw [takeCut_of_findHolds ht, ite_self]
      exact ⟨(marks_handGateChange _ _).queue, (marks_handGateChange _ _).axis⟩
    have := hand _ (h.of_same mark.queue mark.axis)
    exact ⟨this.1.trans mark.queue, this.2.trans mark.axis⟩
  unfold compareWatch
  simp only
  split
  · split
    · have hit := hit { s.watches.getD w.val .cleared with previous := p }
      have now := evaluateWithin_of_running ((hitWatch w { s.watches.getD w.val .cleared with previous := p } s).queue.length + 1)
        (h.of_same hit.1 hit.2).running
      exact ⟨now.1.trans hit.1, now.2.trans hit.2⟩
    · exact ⟨rfl, rfl⟩
  · exact ⟨rfl, rfl⟩

theorem foldl_findHolds {α : Type} (f : State → α → State)
    (hf : ∀ s a, FindHolds s → (f s a).queue = s.queue ∧ (f s a).axis = s.axis) (l : List α) {s : State}
    (h : FindHolds s) : (l.foldl f s).queue = s.queue ∧ (l.foldl f s).axis = s.axis := by
  induction l generalizing s with
  | nil => exact ⟨rfl, rfl⟩
  | cons a l ih =>
    have one := hf s a h
    have more := ih (h.of_same one.1 one.2)
    exact ⟨more.1.trans one.1, more.2.trans one.2⟩

theorem compareWatches_of_findHolds (x : WatchSource) (p : Position) {s : State} (h : FindHolds s) :
    (compareWatches x p s).queue = s.queue ∧ (compareWatches x p s).axis = s.axis := by
  unfold compareWatches
  exact foldl_findHolds _ (fun _ w k => compareWatch_of_findHolds x p w k) _ h

theorem watchNow_of_findHolds (l : List (WatchSource × Position)) {s : State} (h : FindHolds s) :
    (watchNow l s).queue = s.queue ∧ (watchNow l s).axis = s.axis := by
  unfold watchNow
  induction l generalizing s with
  | nil => exact ⟨rfl, rfl⟩
  | cons v l ih =>
    rw [List.foldl_cons]
    have one := compareWatches_of_findHolds v.1 v.2 h
    have more := ih (h.of_same one.1 one.2)
    exact ⟨more.1.trans one.1, more.2.trans one.2⟩

theorem jumpPositions_of_findHolds (c m : Position) {s : State} (h : FindHolds s) :
    FindHolds (jumpPositions watchNow c m s) := by
  have jumped : FindHolds { s with command := c, measured := m } := h.of_same rfl rfl
  have watched := watchNow_of_findHolds [(.command, c), (.measured, m)] jumped
  unfold jumpPositions
  exact jumped.of_same watched.1 watched.2

theorem zeroAtFind_of_findHolds (z : Bool) {s : State} (h : FindHolds s) : FindHolds (zeroAtFind watchNow z s) := by
  unfold zeroAtFind
  split
  · exact jumpPositions_of_findHolds 0 0 h
  · exact h

theorem inner_stopAtFind (standstill : Bool) (k : StopKind) {s : State} (h : s.runningHead.isSome = true) :
    Inner s (stopAtFind standstill k s) :=
  .ite (inner_retireHead _ s) (.of_order fun _ o => o.move h rfl (.inl rfl))

theorem inner_seekInputChange (i : Input) (s : State) : Inner s (seekInputChange watchNow i s) := by
  unfold seekInputChange
  split
  · rename_i e he
    split
    · split
      · rename_i hseek hc
        unfold seekFind
        rw [he]
        simp only [hseek]
        have motion : s.axis.state = .rampUp ∨ s.axis.state = .cruise := by simp_all
        have holds : FindHolds { s with axis := { s.axis with found := true } } :=
          ⟨Option.isSome_iff_exists.2 ⟨e, he⟩, rfl, motion⟩
        exact Inner.trans .of_same ((inner_zeroAtFind inner_watchNow _ _).trans
          (inner_stopAtFind _ _ (zeroAtFind_of_findHolds _ holds).running))
      · exact .refl s
    · exact .refl s
  · exact .refl s

/-! ### Reactions and the events handed on (R58 to R64) -/

theorem inner_takeRequest (q : Request) (s : State) : Inner s (takeRequest q s) := by
  unfold takeRequest
  split
  · exact (marks_handGateChange _ s).inner
  · exact inner_takeCut s
  · exact inner_trigger _ _ s
  · exact (marks_requestMark _ _ _ _ s).inner
  · exact (frames_notify _ s).inner.trans (inner_orderStop _ _)

theorem inner_takeHanded (s : State) : Inner s (takeHanded s) := by
  unfold takeHanded
  split
  · exact Inner.trans .of_same (inner_compareWatches _ _ _)
  · refine .ite (Inner.trans .of_same (inner_evaluateHead inner_watchNow _)) ?_
    split
    · exact Inner.trans .of_same (inner_takeRequest _ _)
    · split
      · exact .of_same
      · exact .refl s

theorem inner_settleWithin (n : Nat) (s : State) : Inner s (settleWithin n s) := by
  induction n generalizing s with
  | zero => exact .refl s
  | succ n ih => exact .ite ((inner_takeHanded s).trans (ih _)) (.refl s)

theorem inner_settle (s : State) : Inner s (settle s) := inner_settleWithin _ s

end Sys2Proof.Machine

/-! PROOFS. What every operation of the blocks keeps, the outer ones that change the standing, the roster, the posts and the
lifecycle included: the capacities, the positions, the standing table, the queue and the line in order. -/

namespace Sys2Proof.Machine

-- One thread for the many small proofs of this part: each default proof waits for the declarations before it.
set_option Elab.async false

/-- The capacities and ranges of every collection. -/
def CapsFit (s : State) : Prop := Fits s ∧ QueueFits s ∧ PostsFit s ∧ StationTablesFit s

theorem CapsFit.of_same {s t : State} (h : CapsFit s) (hn : t.notices = s.notices := by rfl)
    (hl : t.lost = s.lost := by rfl) (ho : t.outbound.length ≤ s.outbound.length := by exact le_rfl)
    (hr : t.reactions = s.reactions := by rfl) (hw : t.watches.length = s.watches.length := by rfl)
    (hc : t.captures.length = s.captures.length := by rfl) (hq : t.queue.length ≤ s.queue.length := by exact le_rfl)
    (hp : t.posts.length ≤ s.posts.length := by exact le_rfl) (hro : t.roster.length = s.roster.length := by rfl)
    (hh : t.halts.length = s.halts.length := by rfl) : CapsFit t := by
  obtain ⟨⟨notices, outbound, tables, tallies⟩, queue, posts, roster, halts⟩ := h
  refine ⟨⟨?_, ho.trans outbound, ?_, ?_⟩, hq.trans queue, hp.trans posts, hro.trans roster, hh.trans halts⟩
  · simpa only [NoticesFit, hn, hl] using notices
  · simpa only [TablesFit, hr, hw, hc] using tables
  · simpa only [TalliesFit, hr] using tallies

theorem StandingFits.of_same {s t : State} (h : StandingFits s) (hs : t.score = s.score := by rfl)
    (hr : t.recovery = s.recovery := by rfl) (hst : t.standing = s.standing := by rfl)
    (hl : t.lifecycle = .online ↔ s.lifecycle = .online := by exact Iff.rfl) : StandingFits t := by
  obtain ⟨score, recovery, withdrawn, standing, reticent⟩ := h
  constructor <;> simp only [hs, hr, hst, hl] <;> assumption

theorem StandingFits.of_kept {s t : State} (h : StandingFits s) (hk : t.kept = s.kept) : StandingFits t :=
  h.of_same (congrArg Kept.score hk) (congrArg Kept.recovery hk) (congrArg Kept.standing hk)
    (by rw [show t.lifecycle = s.lifecycle from congrArg Kept.lifecycle hk])

/-- R142: Engaged with a low score. -/
theorem standingFits_engaged {s : State} (hs : s.standing = .engaged) (hsc : s.score ≤ 95) (hr : s.recovery ≤ 48) :
    StandingFits s := by
  have low : ¬ 96 ≤ s.score := by omega
  exact ⟨by omega, hr, by simp [hs], fun _ => by omega, by simp [hs, low]⟩

/-- What an operation keeps of the invariants besides the standing, and no POST is handed on and left. -/
structure Holds (s t : State) : Prop where
  caps : CapsFit s → CapsFit t
  positions : PositionsAgree s → PositionsAgree t
  order : QueueInOrder s → QueueInOrder t
  line : LineAgrees s → LineAgrees t
  posted : s.posted = [] → t.posted = []

/-- What an operation keeps: each invariant of the part, and no POST is handed on and left. -/
structure Keeps (s t : State) : Prop extends Holds s t where
  standing : StandingFits s → StandingFits t

theorem Holds.trans {s t u : State} (h : Holds s t) (k : Holds t u) : Holds s u :=
  ⟨k.caps ∘ h.caps, k.positions ∘ h.positions, k.order ∘ h.order, k.line ∘ h.line, k.posted ∘ h.posted⟩

/-- An operation on other fields. -/
theorem Holds.of_same {s t : State} (caps : CapsFit s → CapsFit t := by exact fun h => h.of_same)
    (positions : PositionsAgree s → PositionsAgree t := by exact fun h => h)
    (order : QueueInOrder s → QueueInOrder t := by exact fun h => h)
    (line : LineAgrees s → LineAgrees t := by exact fun h => h)
    (posted : s.posted = [] → t.posted = [] := by exact fun h => h) : Holds s t :=
  ⟨caps, positions, order, line, posted⟩

theorem Keeps.refl (s : State) : Keeps s s := ⟨⟨id, id, id, id, id⟩, id⟩

theorem Keeps.trans {s t u : State} (h : Keeps s t) (k : Keeps t u) : Keeps s u :=
  ⟨h.toHolds.trans k.toHolds, k.standing ∘ h.standing⟩

theorem Keeps.ite {s t u : State} {c : Prop} [Decidable c] (h : Keeps s t) (k : Keeps s u) :
    Keeps s (if c then t else u) := by split <;> assumption

theorem Keeps.foldl {α : Type} (f : State → α → State) (h : ∀ s a, Keeps s (f s a)) (l : List α) (s : State) :
    Keeps s (l.foldl f s) := by
  induction l generalizing s with
  | nil => exact .refl s
  | cons a l ih => exact (h s a).trans (ih _)

/-- An operation on other fields. -/
theorem Keeps.of_same {s t : State} (caps : CapsFit s → CapsFit t := by exact fun h => h.of_same)
    (standing : StandingFits s → StandingFits t := by exact fun h => h.of_same)
    (positions : PositionsAgree s → PositionsAgree t := by exact fun h => h)
    (order : QueueInOrder s → QueueInOrder t := by exact fun h => h)
    (line : LineAgrees s → LineAgrees t := by exact fun h => h)
    (posted : s.posted = [] → t.posted = [] := by exact fun h => h) : Keeps s t :=
  ⟨⟨caps, positions, order, line, posted⟩, standing⟩

/-- The Line Interface agrees after a pick as before it. -/
theorem Repicks.agrees {s t : State} (h : Repicks s t) (hl : t.lif.besidesPick = s.lif.besidesPick) :
    LineAgrees s → LineAgrees t := by
  have flight : t.lif.flight = s.lif.flight := (congrArg Lif.flight hl :)
  rintro ⟨waiting, sends⟩
  rcases h with ⟨hx, hp⟩ | ⟨hs | hs, ⟨ht, hp⟩ | ⟨ht, hp⟩⟩
  · simpa only [LineAgrees, State.sends, hx, hp, flight] using And.intro waiting sends
  all_goals simp_all [LineAgrees, State.sends]

theorem Inner.keeps {s t : State} (h : Inner s t) (k : Tame s t) : Keeps s t where
  caps := fun ⟨fits, queue, posts, roster, halts⟩ =>
    ⟨k.fits fits, k.depth.trans queue, by rwa [PostsFit, show t.posts = s.posts from congrArg Kept.posts k.kept],
      by rwa [show t.roster = s.roster from congrArg Kept.roster k.kept],
      by rwa [show t.halts = s.halts from congrArg Kept.halts k.kept]⟩
  positions := k.positions
  standing := fun f => f.of_kept k.kept
  order := fun o => (queueInOrder_iff t).2 (h.order false ((queueInOrder_iff s).1 o))
  line := h.picks.agrees h.lif
  posted := fun p => (show t.posted = s.posted from congrArg Kept.posted k.kept).trans p

theorem keeps_notify (n : Notice) (s : State) : Keeps s (notify n s) := (frames_notify n s).inner.keeps (tame_notify n s)
theorem keeps_pick (s : State) : Keeps s (pick s) := (admits_pick s).inner.keeps (tame_pick s)
theorem keeps_pickIfSilent (s : State) : Keeps s (pickIfSilent s) :=
  (admits_pickIfSilent s).inner.keeps (tame_pickIfSilent s)
theorem keeps_dropPick (s : State) : Keeps s (dropPick s) := (admits_dropPick s).inner.keeps (tame_dropPick s)
theorem keeps_handEvaluate (s : State) : Keeps s (handEvaluate s) := (marks_handEvaluate s).inner.keeps (tame_handEvaluate s)
theorem keeps_handGateChange (p : Gate → Bool) (s : State) : Keeps s (handGateChange p s) :=
  (marks_handGateChange p s).inner.keeps (tame_handGateChange p s)
theorem keeps_admission {d : Dest} {p : Payload} {s t : State} (h : admission d p s = some t) : Keeps s t :=
  (admits_admission h).inner.keeps (tame_admit h)
theorem keeps_departed (id : Nat) (s : State) : Keeps s (departed id s) :=
  (offers_departed id s).inner.keeps (tame_departed id s)
theorem keeps_supersede (f : OutFrame) (p : Presence) (s : State) : Keeps s (supersede f p s) :=
  (offers_supersede f p s).inner.keeps (tame_supersede f p s)
theorem keeps_announceHalt (s : State) : Keeps s (announceHalt s) :=
  (offers_announceHalt s).inner.keeps (tame_announceHalt s)
theorem keeps_requestPresence (s : State) : Keeps s (requestPresence s) :=
  (offers_requestPresence s).inner.keeps (tame_requestPresence s)
theorem keeps_requestMark (m : Mark) (p : Option Position) (o : EmitOrigin) (i : Byte) (s : State) :
    Keeps s (requestMark m p o i s) := (marks_requestMark m p o i s).inner.keeps (tame_requestMark m p o i s)
theorem keeps_answerPeer (n : Station) (q : Seq) (k : AnswerKind) (tag : Byte) (s : State) :
    Keeps s (answerPeer n q k tag s) := (frames_answerPeer n q k tag s).inner.keeps (tame_answerPeer n q k tag s)
theorem keeps_flushEntries (es : List Entry) (s : State) : Keeps s (flushEntries es s) :=
  (frames_flushEntries es s).inner.keeps (tame_flushEntries es s)
theorem keeps_retireHead (o : Retirement) (s : State) : Keeps s (retireHead o s) :=
  (inner_retireHead o s).keeps (tame_retireHead o s)
theorem keeps_orderStop (k : StopKind) (s : State) : Keeps s (orderStop k s) :=
  (inner_orderStop k s).keeps (tame_orderStop k s)
theorem keeps_raiseCause (c : Cause) (s : State) : Keeps s (raiseCause c s) :=
  (inner_raiseCause c s).keeps (tame_raiseCause c s)
theorem keeps_checkGap (s : State) : Keeps s (checkGap s) := (inner_checkGap s).keeps (tame_checkGap s)
theorem keeps_trigger (n : Fin 4) (x : Trigger) (s : State) : Keeps s (trigger n x s) :=
  (inner_trigger n x s).keeps (tame_trigger n x s)
theorem keeps_hitEffects (w : Fin 4) (r : Watch) (s : State) : Keeps s (hitEffects w r s) :=
  (inner_hitEffects w r s).keeps (tame_hitEffects w r s)
theorem keeps_watchNow (l : List (WatchSource × Position)) (s : State) : Keeps s (watchNow l s) :=
  (inner_watchNow l s).keeps (tame_watchNow l s)
theorem keeps_settle (s : State) : Keeps s (settle s) := (inner_settle s).keeps (tame_settle s)
theorem keeps_pulse (s : State) : Keeps s (pulse watchNow s) :=
  (inner_pulse inner_watchNow s).keeps (tame_pulse tame_watchNow s)
theorem keeps_takeArrival (a : Arrival) (s : State) : Keeps s (takeArrival a s) :=
  Inner.keeps .of_same (tame_takeArrival a s)
theorem keeps_dropEmission (id : Nat) (s : State) : Keeps s (dropEmission id s) := by
  refine Inner.keeps ?_ (tame_dropEmission id s)
  unfold dropEmission
  split
  · exact Inner.trans .of_same ((marks_notSent _ _ _ _ _ _).inner.trans (inner_settle _))
  · exact .refl s
theorem keeps_loopBackCarried (id : Nat) (s : State) : Keeps s (loopBackCarried id s) := by
  refine Inner.keeps ?_ (tame_loopBackCarried id s)
  unfold loopBackCarried
  split
  · exact Inner.trans .of_same ((marks_handLoopBack _ _ _).inner.trans (inner_settle _))
  · exact .refl s

theorem keeps_respond (code : ResultCode) (data : List Byte) (s : State) : Keeps s (respond code data s) := .of_same

theorem keeps_startPresenceTimer (s : State) : Keeps s (startPresenceTimer s) := .of_same

theorem keeps_openHaltRequest (s : State) : Keeps s (openHaltRequest s) :=
  .ite (keeps_announceHalt s) ((offers_askOwed s).inner.keeps (tame_askOwed s))

theorem keeps_openPresenceRequest (s : State) : Keeps s (openPresenceRequest s) :=
  (keeps_requestPresence s).trans (keeps_startPresenceTimer _)

theorem keeps_openOutbound (s : State) : Keeps s (openOutbound s) := by
  unfold openOutbound
  refine .ite (Keeps.trans (t := { s with free := s.free + 1 }) .of_same ?_) (keeps_openPresenceRequest s)
  exact .ite ((keeps_openHaltRequest _).trans (keeps_openPresenceRequest _))
    ((keeps_openPresenceRequest _).trans (keeps_openHaltRequest _))

theorem keeps_openLine (s : State) : Keeps s (openLine s) := (keeps_openOutbound s).trans (keeps_dropPick _)

/-! ### The Post Table and the emptying of the Outbound Queue -/

theorem keeps_losePosts (p : PostEntry → Bool) (r : LostReason) (s : State) : Keeps s (losePosts p r s) := by
  unfold losePosts
  refine Keeps.trans (t := { s with posts := s.posts.filter fun e => !p e }) ?_ (.foldl _ (fun s _ => keeps_notify _ s) _ _)
  exact .of_same (caps := fun h => h.of_same (hp := List.length_filter_le _ _))

theorem keeps_releasePost (id : Nat) (s : State) : Keeps s (releasePost id s) :=
  .of_same (caps := fun h => h.of_same (hp := by simp [releasePost]))

theorem keeps_dropPost (why : Emptying) (id : Nat) (s : State) : Keeps s (dropPost why id s) := by
  cases why
  · exact keeps_losePosts _ _ s
  · exact keeps_releasePost id s

theorem keeps_filterOutbound (p : OutFrame → Bool) (s : State) :
    Keeps s { s with outbound := s.outbound.filter p } :=
  .of_same (caps := fun h => h.of_same (ho := List.length_filter_le _ _))

theorem keeps_dropFrame (why : Emptying) (s : State) (f : OutFrame) : Keeps s (dropFrame why s f) := by
  unfold dropFrame
  refine (keeps_filterOutbound (fun g => g.id != f.id) s).trans ?_
  split
  · exact keeps_dropEmission _ _
  · exact keeps_dropPost _ _ _
  · split
    · exact keeps_notify _ _
    · exact .refl _
  · exact .of_same
  · exact .of_same
  · exact .refl _

theorem keeps_emptyWithin (why : Emptying) (n : Nat) (s : State) : Keeps s (emptyWithin why n s) := by
  induction n generalizing s with
  | zero => exact .refl s
  | succ n ih =>
    unfold emptyWithin
    split
    · exact (keeps_dropFrame why s _).trans (ih _)
    · exact .refl s

theorem keeps_closeOutbound (b : Bool) (s : State) : Keeps s (closeOutbound b s) :=
  Keeps.trans (t := { s with closing := s.closing || b }) .of_same (keeps_emptyWithin _ _ _)

/-! ### Line Standing (R142 to R149) -/

/-- R145, R151: a standing entered with a new score and a new recovery count keeps all but the standing's table, which must
hold of it. -/
theorem keeps_setStanding (st : Standing) (c : StandingCause) (n m : Nat) (s : State)
    (h : StandingFits s → StandingFits { s with score := n, recovery := m, standing := st }) :
    Keeps s (setStanding st c { s with score := n, recovery := m }) := by
  unfold setStanding
  split
  · rename_i he
    refine .of_same (standing := fun k => ?_)
    have := h k
    rwa [he] at this
  · refine Keeps.trans (t := { s with score := n, recovery := m, standing := st }) ?_ (keeps_notify _ _)
    exact .of_same (standing := h)

theorem keeps_enterWithdrawn (c : StandingCause) (s : State) : Keeps s (enterWithdrawn c s) := by
  have enter : Keeps s (dropPick (setStanding .withdrawn c { s with score := 192, recovery := 0 })) := by
    refine (keeps_setStanding _ c 192 0 s fun _ => ?_).trans (keeps_dropPick _)
    constructor <;> simp
  exact .ite (enter.trans (keeps_closeOutbound true _)) enter

theorem keeps_moveScore (n : Nat) (c : StandingCause) (s : State) : Keeps s (moveScore n c s) := by
  unfold moveScore
  split
  · exact .refl s
  · rename_i hw
    split
    · exact keeps_enterWithdrawn c s
    · rename_i hn
      split
      · rename_i online
        refine keeps_setStanding _ c n s.recovery s fun h => ?_
        have recovery := h.recovery
        unfold standingFor
        split <;> constructor <;> simp_all <;> omega
      · rename_i off
        refine .of_same (standing := fun h => ⟨by show n ≤ 192; omega, h.recovery, fun k => absurd k hw,
          fun _ => by show n ≤ 191; omega, ?_⟩)
        have calm : s.standing ≠ .reticent := fun k => off (h.reticent.1 k).1
        simp [off, calm]

theorem keeps_returnEngaged (c : StandingCause) (s : State) : Keeps s (returnEngaged c s) := by
  have engage : Keeps s (setStanding .engaged c { s with score := 0, recovery := 0 }) :=
    keeps_setStanding _ c 0 0 s fun _ => standingFits_engaged rfl (by simp) (by simp)
  exact .ite (engage.trans (keeps_openLine _)) engage

theorem keeps_observe (s : State) : Keeps s (observe s) := by
  unfold observe
  have count : Keeps s { s with recovery := min 48 (s.recovery + 1) } :=
    .of_same (standing := fun h => ⟨h.score, Nat.min_le_left _ _, h.withdrawn, h.standing, h.reticent⟩)
  exact .ite (.ite (count.trans (keeps_returnEngaged _ _)) count) (.refl s)

theorem keeps_receiveResult (clean : Bool) (s : State) : Keeps s (receiveResult clean s) :=
  .ite (.ite (.ite (keeps_observe s) (keeps_moveScore _ _ s)) (keeps_moveScore _ _ s)) (.refl s)

/-! ### The end of an attempt (R115 to R117) -/

theorem keeps_askHeld (held : Option Presence) (s : State) : Keeps s (askHeld held s) := by
  unfold askHeld
  split
  · split
    · rename_i h; exact keeps_admission h
    · exact .refl s
  · exact .refl s

theorem keeps_removeFrame (id : Nat) (s : State) : Keeps s (removeFrame id s) :=
  (keeps_filterOutbound (fun g => g.id != id) s).trans (keeps_releasePost id _)

theorem keeps_failFrame (echo : Bool) (f : OutFrame) (s : State) : Keeps s (failFrame echo f s) := by
  unfold failFrame
  refine .ite ?_ ?_
  · exact ((keeps_removeFrame f.id s).trans (keeps_notify _ _)).trans
      ((keeps_dropEmission _ _).trans ((keeps_departed _ _).trans (keeps_askHeld _ _)))
  · have replaced (g : OutFrame) : Keeps s { s with outbound := replaceFrame s.outbound g f.id } :=
      .of_same (caps := fun h => h.of_same (ho := (length_replaceFrame ..).le))
    simp only
    split
    · exact (replaced _).trans (keeps_supersede _ _ _)
    · exact replaced _

theorem keeps_takeResult (r : AttemptResult) (f : OutFrame) (s : State) : Keeps s (takeResult r f s) := by
  cases r
  · exact (keeps_removeFrame f.id s).trans ((keeps_departed _ _).trans (keeps_askHeld _ _))
  · exact keeps_failFrame false f s
  · exact keeps_failFrame true f s

/-- The flight of an attempt is over: an agreeing Line Interface has no pick meanwhile. -/
theorem keeps_landed (s : State) (hf : s.lif.flight.isSome = true) :
    Keeps s { s with lif := { s.lif with transmitter := .silent, flight := none } } := by
  refine .of_same (line := fun ⟨waiting, sends⟩ => ?_)
  have sending := sends.2 hf
  have idle : s.lif.transmitter ≠ .waiting := fun h => by simp [State.sends, h] at sending
  simp_all [LineAgrees, State.sends]

theorem keeps_attemptResult (r : AttemptResult) (s : State) : Keeps s (attemptResult r s) := by
  unfold attemptResult
  split
  · exact .refl s
  · rename_i fl hf
    have landed := keeps_landed s (by rw [hf]; rfl)
    simp only
    set t : State := { s with lif := { s.lif with transmitter := .silent, flight := none } }
    have carried : Keeps s (if r = .echo then t else loopBackCarried fl.frame t) :=
      .ite landed (landed.trans (keeps_loopBackCarried _ _))
    have taken : Keeps s (match (if r = .echo then t else loopBackCarried fl.frame t).outbound.find?
        fun f => f.id == fl.frame with
      | some f => takeResult r f (if r = .echo then t else loopBackCarried fl.frame t)
      | none => (if r = .echo then t else loopBackCarried fl.frame t)) := by
      split
      · exact carried.trans (keeps_takeResult _ _ _)
      · exact carried
    split
    · exact taken.trans (Keeps.trans .of_same (keeps_moveScore _ _ _))
    · exact taken.trans (keeps_moveScore _ _ _)

end Sys2Proof.Machine

/-! PROOFS. What the reception of a frame keeps: appends, the halt list, the roster, the Post Table, the entry into Conflict
(R7, R99 to R101, R123 to R125, R159, R162 to R164, R172 to R176). -/

namespace Sys2Proof.Machine

-- One thread for the many small proofs of this part: each default proof waits for the declarations before it.
set_option Elab.async false

/-! ### Appends (R7, R8) -/

theorem keeps_enqueue (g : Segment) (o : Origin) {s : State} (room : s.queue.length < 32) : Keeps s (enqueue g o s) := by
  unfold enqueue
  split
  · rename_i he
    have hq : s.queue = [] := List.isEmpty_iff.1 he
    refine Keeps.trans (t := { s with
      queue := [{ segment := g, origin := o, state := .waiting, consumed := false }]
      axis := { s.axis with state := .gated } }) ?_ (keeps_handEvaluate _)
    refine .of_same (caps := fun ⟨fits, _, posts⟩ => ⟨⟨fits.notices, fits.outbound, fits.tables, fits.tallies⟩,
      by simp [QueueFits], posts⟩) (order := fun _ => (queueInOrder_iff _).2 (inOrder_waiting ?_ rfl))
    simp
  · rename_i he
    refine .of_same (caps := fun ⟨fits, _, posts⟩ => ⟨⟨fits.notices, fits.outbound, fits.tables, fits.tallies⟩,
      by simp [QueueFits]; omega, posts⟩) (order := fun h => ?_)
    obtain ⟨x, rest, hq⟩ := List.exists_cons_of_ne_nil (mt List.isEmpty_iff.2 he)
    cases hr : rest with
    | nil => simp_all [QueueInOrder, OnlyHeadRuns, AxisFollowsQueue]
    | cons y rest => simp_all [QueueInOrder, OnlyHeadRuns, AxisFollowsQueue, or_imp, forall_and]

theorem keeps_takePost (n : Station) (q : Seq) (bytes : List Byte) (s : State) : Keeps s (takePost n q bytes s) := by
  have refuse (r : RefusalReason) := keeps_answerPeer n q (.refused r) (byteAt bytes 1) s
  unfold takePost
  refine .ite (refuse _) (.ite (refuse _) (.ite (refuse _) ?_))
  split
  · exact refuse _
  · split
    · exact (keeps_enqueue _ _ (by omega)).trans (keeps_answerPeer _ _ _ _ _)
    · exact refuse _

theorem keeps_takePosted (s : State) : Keeps s (takePosted s) :=
  Keeps.trans (t := { s with posted := [] }) (.of_same (posted := fun _ => rfl))
    (.foldl _ (fun s (p : HandedPost) => keeps_takePost p.source p.sequence p.segment s) _ _)

/-! ### A POST that is overtaken (R7; log 50) -/

/-- An operation that keeps the invariants and may leave a POST handed on that the next command overtakes. -/
def Leaves (s t : State) : Prop :=
  ∃ u, Keeps s u ∧ (t = u ∨ u.overtaken = true ∧ ∃ l, t = { u with posted := l })

theorem Keeps.leaves {s t : State} (h : Keeps s t) : Leaves s t := ⟨t, h, .inl rfl⟩

theorem Keeps.trans_leaves {s t u : State} (h : Keeps s t) (k : Leaves t u) : Leaves s u := by
  obtain ⟨v, hv, k⟩ := k
  exact ⟨v, h.trans hv, k⟩

/-- Overtaking reads nothing that an inner operation changes but the transmitter, and that stays without a frame. -/
theorem overtaken_of_inner {s t : State} (h : Inner s t) (k : Tame s t) (ho : s.overtaken = true) :
    t.overtaken = true := by
  have hr : t.lif.receiver = s.lif.receiver := (congrArg Lif.receiver h.lif :)
  have receives : s.receives = true → t.receives = true := by
    have hl : t.onLine = s.onLine := by
      simp only [State.onLine, show t.lifecycle = s.lifecycle from congrArg Kept.lifecycle k.kept]
    simp only [State.receives, hl, hr, Bool.and_eq_true]
    rintro ⟨on, quiet⟩
    refine ⟨on, ?_⟩
    rcases h.picks with ⟨hx, -⟩ | ⟨-, ⟨ht, -⟩ | ⟨ht, -⟩⟩
    · rwa [hx]
    · simp [ht]
    · simp [ht]
  unfold State.overtaken at ho ⊢
  rw [show t.lifecycle = s.lifecycle from congrArg Kept.lifecycle k.kept,
    show t.pending = s.pending from congrArg Kept.pending k.kept,
    show t.station = s.station from congrArg Kept.station k.kept]
  unfold State.awaitsCommand at ho ⊢
  rw [show t.port = s.port from congrArg Kept.port k.kept]
  simp only [Bool.and_eq_true] at ho ⊢
  refine ⟨ho.1, ?_⟩
  have := ho.2
  split at this
  · exact this
  · simp only [Bool.and_eq_true] at this ⊢
    obtain ⟨⟨taken, clean⟩, own⟩ := this
    exact ⟨⟨receives taken, clean⟩, own⟩
  · cases this

theorem leaves_handPost (n : Station) (q : Seq) (bytes : List Byte) (s : State) : Leaves s (handPost n q bytes s) := by
  unfold handPost
  have used : Keeps s { s with free := s.free + 1 } := .of_same
  split
  · rename_i ho
    simp only
    split
    · exact (used.trans (keeps_takePost n q bytes _)).leaves
    · exact ⟨_, used, .inr ⟨ho, _, rfl⟩⟩
  · exact (keeps_takePost n q bytes s).leaves

/-! ### The roster, the halt list, the Post Table -/

theorem keeps_setPeer (n : Station) (e : RosterEntry) (s : State) : Keeps s (setPeer n e s) :=
  .of_same (caps := fun h => h.of_same (hro := by simp))

theorem keeps_refreshPeer (n : Station) (k : FrameKind) (s : State) : Keeps s (refreshPeer n k s) := by
  unfold refreshPeer
  simp only
  split
  · exact (keeps_setPeer _ _ s).trans (keeps_notify _ _)
  · exact keeps_setPeer _ _ s

theorem keeps_lapsePeer (n : Station) (s : State) : Keeps s (lapsePeer n s) :=
  (keeps_setPeer _ _ s).trans ((keeps_notify _ _).trans (keeps_losePosts _ _ _))

theorem keeps_setHalt (n : Station) (h : Option HaltEntry) (s : State) :
    Keeps s { s with halts := s.halts.set n.val h } := .of_same (caps := fun k => k.of_same (hh := by simp))

theorem keeps_enterHalt (n : Station) (h : HaltEntry) (s : State) : Keeps s (enterHalt n h s) :=
  (keeps_setHalt n _ s).trans ((keeps_notify _ _).trans (keeps_orderStop _ _))

theorem keeps_removeHalt (n : Station) (w : ClearedWay) (s : State) : Keeps s (removeHalt n w s) :=
  (keeps_setHalt n _ s).trans (keeps_notify _ _)

theorem keeps_haltsChanged (s : State) : Keeps s (haltsChanged s) := .ite (.refl s) (keeps_handEvaluate s)

theorem keeps_clearHalt (n : Station) (w : ClearedWay) (s : State) : Keeps s (clearHalt n w s) := by
  unfold clearHalt
  split
  · exact (keeps_removeHalt n w s).trans (keeps_haltsChanged _)
  · exact .refl s

theorem keeps_reconcile (n : Station) (p : Presence) (s : State) : Keeps s (reconcile n p s) := by
  unfold reconcile
  refine .ite ?_ (keeps_clearHalt n _ s)
  split
  · exact .refl s
  · exact keeps_enterHalt _ _ s

theorem keeps_takeAnswer (n : Station) (payload : List Byte) (s : State) : Keeps s (takeAnswer n payload s) := by
  have close (m : Station) (q : Seq) : Keeps s (closePost m q s) :=
    .of_same (caps := fun h => h.of_same (hp := List.length_filter_le _ _))
  unfold takeAnswer
  simp only
  split
  · rename_i k e _ _
    cases k with
    | taken => exact .of_same (caps := fun h => h.of_same (hp := by simp [answerPost]))
    | refused | finished => exact (close _ _).trans (keeps_notify _ _)
  · exact keeps_notify _ s

theorem leaves_dispatch (h : RxHeader) (s : State) : Leaves s (dispatch h s) := by
  unfold dispatch
  split
  · exact ((keeps_setPeer _ _ s).trans (keeps_reconcile _ _ _)).leaves
  · split
    · split
      · exact (keeps_enterHalt _ _ s).leaves
      · exact (keeps_clearHalt _ _ s).leaves
      · split
        · exact (keeps_takeArrival _ s).leaves
        · exact (Keeps.refl s).leaves
      · exact (keeps_takeAnswer _ _ s).leaves
      · exact leaves_handPost _ _ _ s
      · exact (Keeps.refl s).leaves
    · exact (Keeps.refl s).leaves

theorem leaves_takeFromPeer (h : RxHeader) (s : State) : Leaves s (takeFromPeer h s) := by
  have recorded : Keeps s (recordFrame h (refreshPeer h.source h.kind s)) :=
    (keeps_refreshPeer _ _ s).trans (keeps_setPeer _ _ _)
  unfold takeFromPeer
  simp only
  split
  · exact recorded.trans_leaves (leaves_dispatch h _)
  · exact recorded.leaves

/-! ### Conflict (R159) -/

theorem countConflictFrame_eq (s : State) :
    ∃ n m, countConflictFrame s = { s with score := n, recovery := m } := by
  unfold countConflictFrame
  split
  · exact ⟨s.score, _, rfl⟩
  · exact ⟨_, s.recovery, rfl⟩

/-- R142, R159: off the line, with the frame counted and a Reticent standing ended, the standing has its table. -/
theorem standingFits_conflict (h : RxHeader) {s : State} (fits : StandingFits s) :
    StandingFits (endReticence (notify (.conflict h.kind h.sequence s.lifecycle s.standing)
      { countConflictFrame s with lifecycle := .conflict, listenTimer := 0, presenceTimer := 0 })) := by
  obtain ⟨score, recovery, withdrawn, standing, -⟩ := fits
  have kept {t u : State} (k : Tame t u) : StandingFits t → StandingFits u := fun f => f.of_kept k.kept
  have notified (n : Notice) (t : State) :
      (notify n t).standing = t.standing ∧ (notify n t).score = t.score ∧ (notify n t).recovery = t.recovery ∧
        (notify n t).lifecycle = t.lifecycle := by unfold notify; split <;> exact ⟨rfl, rfl, rfl, rfl⟩
  have counted : (countConflictFrame s).standing = s.standing ∧ (countConflictFrame s).score ≤ 192 ∧
      (countConflictFrame s).recovery ≤ 48 ∧ (s.standing = .withdrawn → (countConflictFrame s).score = 192) ∧
      (s.standing ≠ .withdrawn → (countConflictFrame s).score ≤ 191) := by
    unfold countConflictFrame
    split <;> simp_all; omega
  obtain ⟨c₁, c₂, c₃, c₄, c₅⟩ := counted
  set n : Notice := .conflict h.kind h.sequence s.lifecycle s.standing
  set t : State := { countConflictFrame s with lifecycle := .conflict, listenTimer := 0, presenceTimer := 0 }
  obtain ⟨n₁, n₂, n₃, n₄⟩ := notified n t
  unfold endReticence setStanding
  split
  · rename_i hr
    rw [hr, if_neg (by simp)]
    refine kept (tame_notify _ _) ⟨?_, ?_, ?_, ?_, ?_⟩ <;> simp_all [t]
  · rename_i hr
    refine ⟨?_, ?_, ?_, ?_, ?_⟩ <;> simp_all [t]

theorem holds_setStanding (st : Standing) (c : StandingCause) (s : State) : Holds s (setStanding st c s) := by
  unfold setStanding
  split
  · exact (Keeps.refl s).toHolds
  · exact Holds.trans (t := { s with standing := st }) .of_same (keeps_notify _ _).toHolds

theorem holds_lineOff (s : State) : Holds s (lineOff s) :=
  .of_same (caps := fun h => h.of_same (ho := by simp [lineOff]))
    (line := fun _ => by simp [lineOff, LineAgrees, State.sends])

theorem keeps_lineOff (s : State) : Keeps s (lineOff s) := ⟨holds_lineOff s, fun h => h.of_same⟩

theorem keeps_enterConflict (h : RxHeader) (s : State) : Keeps s (enterConflict h s) := by
  have counted : Holds s { countConflictFrame s with lifecycle := .conflict, listenTimer := 0, presenceTimer := 0 } := by
    obtain ⟨n, m, e⟩ := countConflictFrame_eq s
    rw [e]
    exact .of_same
  have left : Keeps s (endReticence (notify (.conflict h.kind h.sequence s.lifecycle s.standing)
      { countConflictFrame s with lifecycle := .conflict, listenTimer := 0, presenceTimer := 0 })) := by
    refine ⟨(counted.trans (keeps_notify (.conflict h.kind h.sequence s.lifecycle s.standing) _).toHolds).trans ?_,
      standingFits_conflict h⟩
    unfold endReticence
    split
    · exact holds_setStanding _ _ _
    · exact (Keeps.refl _).toHolds
  have off := left.trans (keeps_lineOff _)
  unfold enterConflict
  exact Keeps.trans (.ite (off.trans (keeps_closeOutbound _ _)) off)
    ((keeps_orderStop _ _).trans (keeps_takePosted _))

/-! ### The receiver (R109, R110, R123) -/

theorem keeps_clearYieldAfterEcho (s : State) : Keeps s (clearYieldAfterEcho s) := by
  unfold clearYieldAfterEcho
  split
  · exact .ite .of_same (.refl s)
  · exact .refl s

theorem leaves_frameEnds (f : RxFrame) (s : State) : Leaves s (frameEnds f s) := by
  have noted : Keeps s (clearYieldAfterEcho (noteFrame f s)) :=
    Keeps.trans .of_same (keeps_clearYieldAfterEcho _)
  unfold frameEnds
  split
  · simp only
    split
    · split
      · split
        · exact (noted.trans (keeps_enterConflict _ _)).leaves
        · exact noted.trans_leaves (leaves_takeFromPeer _ _)
      · exact noted.leaves
    · exact noted.leaves
  · exact (Keeps.refl s).leaves

theorem keeps_setReference (gone : Nat) (s : State) : Keeps s (setReference gone s) :=
  Keeps.trans .of_same (keeps_pick _)

theorem keeps_hunt (gone : Nat) (s : State) : Keeps s (hunt gone s) := Keeps.trans .of_same (keeps_setReference _ _)

theorem keeps_windowEnds (f : RxFrame) (s : State) : Keeps s (windowEnds f s) :=
  .ite (((keeps_clearYieldAfterEcho s).trans (keeps_receiveResult _ _)).trans (Keeps.trans .of_same (keeps_hunt 0 _)))
    (.refl s)

theorem keeps_truncate (s : State) : Keeps s (truncate s) := by
  have ended (own : Bool) : Keeps s (hunt 10 (noReject (if own then s else receiveResult false s))) :=
    Keeps.trans (.ite (.refl s) (keeps_receiveResult false s)) (Keeps.trans .of_same (keeps_hunt 10 _))
  exact .ite (ended _) (.refl s)

end Sys2Proof.Machine

/-! PROOFS. Every command answers a next state that keeps the invariants and leaves nothing handed on. -/

namespace Sys2Proof.Machine

-- One thread for the many small proofs of this part: each default proof waits for the declarations before it.
set_option Elab.async false

/-- A command's answer: a next state with a property. -/
def Answers (P : State → Prop) (o : Host.Outcome State Fault Refusal) : Prop := ∃ t, o = .next t ∧ P t

theorem Answers.next {P : State → Prop} {t : State} (h : P t) : Answers P (.next t) := ⟨t, rfl, h⟩

theorem Answers.ite {P : State → Prop} {c : Prop} [Decidable c] {o p : Host.Outcome State Fault Refusal}
    (h : Answers P o) (k : Answers P p) : Answers P (if c then o else p) := by split <;> assumption

theorem Answers.onPort {P : State → Prop} {f : State → Host.Outcome State Fault Refusal} {s : State}
    (h : Answers P (f s)) (k : P s) : Answers P (onPort f s) := .ite h (.next k)

/-- What a command keeps: the invariants, and that nothing handed on is left. -/
structure Row (s t : State) : Prop where
  keeps : Keeps s t
  atRest : AtRest s → AtRest t

theorem Row.refl (s : State) : Row s s := ⟨.refl s, id⟩

theorem Row.settled {s t : State} (h : Keeps s t) : Row s (settle t) := ⟨h.trans (keeps_settle t), fun _ => atRest_settle t⟩

theorem Row.of_handed {s t : State} (h : Keeps s t) (k : t.handed = s.handed) : Row s t := ⟨h, fun r => k.trans r⟩

theorem Row.of_quiet {s t : State} (h : Keeps s t) (k : Quiet s t) : Row s t := .of_handed h k.handed

theorem Row.ite {s t u : State} {c : Prop} [Decidable c] (h : Row s t) (k : Row s u) :
    Row s (if c then t else u) := by split <;> assumption

theorem row_respond (code : ResultCode) (data : List Byte) (s : State) : Row s (respond code data s) :=
  .of_handed (keeps_respond code data s) rfl

/-! ### The axis signals (R25, R35, R44, R82) -/

theorem keeps_stopOnInput (i : Input) (s : State) : Keeps s (stopOnInput i s) := by
  cases i with
  | estop | drvflt | limp | limn => exact .ite (keeps_raiseCause _ s) (.refl s)
  | home | in0 | in1 => exact .refl s

theorem keeps_captureEdge (e : CaptureSetup) (s : State) : Keeps s (captureEdge e s) :=
  .foldl _ (fun s n => keeps_trigger n _ s) _ s

theorem keeps_moveOnInput (i : Input) (s : State) : Keeps s (moveOnInput i s) :=
  ((inner_seekInputChange i s).keeps (tame_seekInputChange tame_watchNow i s)).trans
    ((keeps_handGateChange _ _).trans (keeps_settle _))

theorem keeps_inputChanged (i : Input) (s : State) : Keeps s (inputChanged i s) := by
  have used (t : State) : Keeps t { t with free := t.free + 1 } := .of_same
  unfold inputChanged
  refine .ite ?_ ((keeps_stopOnInput i s).trans (keeps_moveOnInput i _))
  refine ((keeps_stopOnInput i s).trans (used _)).trans ?_
  exact .ite ((keeps_captureEdge _ _).trans (keeps_moveOnInput i _))
    ((keeps_moveOnInput i _).trans (keeps_captureEdge _ _))

theorem keeps_inputBecomes (i : Input) (high : Bool) (s : State) : Keeps s (inputBecomes i high s) :=
  .ite (.refl s) (Keeps.trans .of_same (keeps_inputChanged i _))

/-- R44: one count of the measured position. -/
def counted (d : Dir) (p : Position) : Position :=
  match d with
  | .plus => p + 1
  | .minus => p - 1

theorem countEncoder_eq (s : State) (d : Dir) :
    countEncoder s d = settle (checkGap (watchNow [(.measured, counted d s.measured)]
      { s with measured := counted d s.measured })) := by
  cases d <;> rfl

/-- R44: the encoder counts nothing while it is Off. -/
theorem keeps_countEncoder (d : Dir) {s : State} (on : s.config.encoder ≠ .off) : Keeps s (countEncoder s d) := by
  have moved : Keeps s { s with measured := counted d s.measured } := .of_same (positions := fun _ off => absurd off on)
  rw [countEncoder_eq]
  exact moved.trans ((keeps_watchNow _ _).trans ((keeps_checkGap _).trans (keeps_settle _)))

theorem countEncoder_config (d : Dir) (s : State) : (countEncoder s d).config = s.config := by
  rw [countEncoder_eq, config_of_kept (tame_settle _).kept, config_of_kept (tame_checkGap _).kept,
    config_of_kept (tame_watchNow _ _).kept]

theorem keeps_countEncoders (l : List Dir) {s : State} (on : s.config.encoder ≠ .off) :
    Keeps s (l.foldl countEncoder s) := by
  induction l generalizing s with
  | nil => exact .refl s
  | cons d l ih =>
    rw [List.foldl_cons]
    exact (keeps_countEncoder d on).trans (ih (by rwa [countEncoder_config]))

theorem keeps_encoderEdge (a b : Bool) (s : State) : Keeps s (encoderEdge a b s) := by
  have pins : Keeps s { s with encA := a, encB := b } := .of_same
  unfold encoderEdge
  by_cases on : s.config.encoder = .off
  · rw [on]; exact pins
  · exact pins.trans (keeps_countEncoders _ on)

theorem keeps_dwellDone (s : State) : Keeps s (dwellDone s) := by
  unfold dwellDone
  split
  · exact .ite (keeps_retireHead _ s) (.refl s)
  · exact .refl s

/-! ### Resets (R158) -/

theorem length_rosterOf (n : Station) : (rosterOf n).length = 32 := by simp [rosterOf]

/-- The collections as a reset leaves them. -/
theorem capsFit_of_reset {s : State} (hn : s.notices = [] := by rfl) (hl : s.lost = 0 := by rfl)
    (ho : s.outbound = [] := by rfl) (hr : s.reactions = List.replicate 24 .cleared := by rfl)
    (hw : s.watches = List.replicate 4 .cleared := by rfl) (hc : s.captures = List.replicate 4 .cleared := by rfl)
    (hq : s.queue = [] := by rfl) (hp : s.posts = [] := by rfl)
    (hro : s.roster.length = 32 := by exact length_rosterOf _)
    (hh : s.halts = List.replicate 32 none := by rfl) : CapsFit s := by
  refine ⟨⟨?_, ?_, ?_, ?_⟩, ?_, ?_, hro, ?_⟩
  · simp [NoticesFit, hn, hl]
  · simp [OutboundFits, ho]
  · simp [TablesFit, hr, hw, hc]
  · simp [TalliesFit, hr, Reaction.cleared]
  · simp [QueueFits, hq]
  · simp [PostsFit, hp]
  · simp [hh]

/-- What a reset leaves of the invariants. -/
structure Afresh (t : State) : Prop where
  caps : CapsFit t
  positions : PositionsAgree t
  standing : StandingFits t
  order : QueueInOrder t
  line : LineAgrees t
  posted : t.posted = []
  atRest : AtRest t

theorem Afresh.row {s t : State} (h : Afresh t) : Row s t :=
  ⟨⟨⟨fun _ => h.caps, fun _ => h.positions, fun _ => h.order, fun _ => h.line, fun _ => h.posted⟩,
    fun _ => h.standing⟩, fun _ => h.atRest⟩

theorem afresh_of_reset {t : State} (caps : CapsFit t) (positions : t.measured = t.command := by rfl)
    (standing : t.standing = .engaged := by rfl) (score : t.score = 0 := by rfl) (recovery : t.recovery = 0 := by rfl)
    (queue : t.queue = [] := by rfl) (axis : t.axis.state = .idle := by rfl)
    (lif : t.lif.transmitter = .silent ∧ t.lif.picked = none ∧ t.lif.flight = none := by exact ⟨rfl, rfl, rfl⟩)
    (posted : t.posted = [] := by rfl) (atRest : t.handed = .empty := by rfl) : Afresh t where
  caps := caps
  positions := fun _ => positions
  standing := standingFits_engaged standing (by omega) (by omega)
  order := by simp [QueueInOrder, OnlyHeadRuns, AxisFollowsQueue, queue, axis]
  line := by simp [LineAgrees, State.sends, lif]
  posted := posted
  atRest := atRest

theorem afresh_hardReset (straps : Straps) (s : State) : Afresh (hardReset straps s) := afresh_of_reset capsFit_of_reset

theorem afresh_reset : Afresh State.reset := afresh_of_reset capsFit_of_reset

theorem afresh_restartCleared (straps : Straps) (s : State) : Afresh (restartCleared straps s) :=
  afresh_of_reset capsFit_of_reset

theorem keeps_restart (straps : Straps) (s : State) : Keeps s (restart straps s) := by
  have refilled (i : Input) (c : Cause) (t : State) : Keeps t (refill i c t) := .ite (keeps_raiseCause c t) (.refl t)
  exact (afresh_restartCleared straps s).row.keeps.trans ((refilled _ _ _).trans (refilled _ _ _))

/-! ### WRITE_CONFIG, JOIN, LEAVE, REJOIN (R150, R155, R157, R188) -/

theorem keeps_rejudge (old : ConfigBlock) (s : State) (i : Input) : Keeps s (rejudge old s i) :=
  .ite (.refl s) (keeps_inputChanged i s)

theorem keeps_encoderModeChanged (old : ConfigBlock) (s : State) : Keeps s (encoderModeChanged old s) :=
  .ite (.refl s) (Keeps.trans (.of_same (positions := fun _ _ => rfl)) ((keeps_watchNow _ _).trans (keeps_settle _)))

theorem keeps_gapLimitChanged (old : ConfigBlock) (s : State) : Keeps s (gapLimitChanged old s) :=
  .ite (.refl s) (keeps_checkGap s)

theorem inputChanged_kept (i : Input) (s : State) : (inputChanged i s).kept = s.kept := by
  have stop : Tame s (stopOnInput i s) := by
    cases i with
    | estop | drvflt | limp | limn => exact .ite (tame_raiseCause _ s) (.refl s)
    | home | in0 | in1 => exact .refl s
  have move (t : State) : Tame t (moveOnInput i t) :=
    (tame_seekInputChange tame_watchNow i t).trans ((tame_handGateChange _ _).trans (tame_settle _))
  have capture (e : CaptureSetup) (t : State) : Tame t (captureEdge e t) := .foldl _ (fun t n => tame_trigger n _ t) _ t
  have used (t : State) : Tame t { t with free := t.free + 1 } := .of_same
  unfold inputChanged
  refine Tame.kept (.ite ?_ (stop.trans (move _)))
  exact (stop.trans (used _)).trans (.ite ((capture _ _).trans (move _)) ((move _).trans (capture _ _)))

theorem rejudgeAll_config (old : ConfigBlock) (l : List Input) (s : State) :
    (l.foldl (rejudge old) s).config = s.config := by
  induction l generalizing s with
  | nil => rfl
  | cons i l ih =>
    rw [List.foldl_cons, ih]
    unfold rejudge
    split
    · rfl
    · exact config_of_kept (inputChanged_kept i s)

/-- R44, R189: with the encoder Off in the new block, either it was Off before or the measured position is set anew. -/
theorem positionsAgree_encoderModeChanged (c : ConfigBlock) {s t : State} (h : PositionsAgree s) (hc : t.config = c)
    (k : PositionsAgree { s with config := c } → PositionsAgree t) :
    PositionsAgree (encoderModeChanged s.config t) := by
  unfold encoderModeChanged
  split
  · rename_i same
    exact k fun off => h (by rw [same, hc]; exact off)
  · have set : PositionsAgree { t with measured := t.command } := fun _ => rfl
    exact ((keeps_watchNow _ _).trans (keeps_settle _)).positions set

theorem keeps_replaceConfig (c : ConfigBlock) {s : State} (off : s.lifecycle ≠ .online) : Keeps s (replaceConfig c s) := by
  have judged : Keeps { s with config := c, lifecycle := .configured }
      (allInputs.foldl (rejudge s.config) { s with config := c, lifecycle := .configured }) :=
    .foldl _ (keeps_rejudge s.config) _ _
  have all := judged.trans ((keeps_encoderModeChanged s.config _).trans (keeps_gapLimitChanged s.config _))
  refine ⟨⟨fun h => all.caps h.of_same, fun h => ?_, all.order, all.line, all.posted⟩, fun h => all.standing ?_⟩
  · refine (keeps_gapLimitChanged s.config _).positions (positionsAgree_encoderModeChanged c h ?_ judged.positions)
    exact rejudgeAll_config _ _ _
  · exact h.of_same (hl := by simp [off])

theorem keeps_writeConfig (block : List Byte) (s : State) : Keeps s (writeConfig block s) := by
  unfold writeConfig
  split
  · rename_i off
    split
    · exact (keeps_replaceConfig _ (by rcases off with h | h <;> simp [h])).trans (keeps_respond _ _ _)
    · exact keeps_respond _ _ s
  · exact keeps_respond _ _ s

theorem keeps_join {s : State} (h : s.lifecycle = .configured) : Keeps s (join s) := by
  have listening : Keeps s { s with lifecycle := .listening, listenTimer := ms (20 * s.config.presencePeriod.toNat) } :=
    .of_same (standing := fun k => k.of_same (hl := by simp [h]))
  exact listening.trans (.ite .of_same (keeps_hunt 0 _))

theorem quiet_setReference (gone : Nat) (s : State) : Quiet s (setReference gone s) := Quiet.trans .of_same (quiet_pick _)

theorem quiet_hunt (gone : Nat) (s : State) : Quiet s (hunt gone s) := Quiet.trans .of_same (quiet_setReference _ _)

theorem quiet_join (s : State) : Quiet s (join s) := Quiet.trans .of_same (.ite .of_same (quiet_hunt 0 _))

theorem holds_leaveLine (s : State) : Holds s (leaveLine s) := by
  unfold leaveLine
  refine (holds_lineOff s).trans (Holds.trans ?_ ((keeps_orderStop .immediate _).trans (keeps_settle _)).toHolds)
  exact .of_same

theorem holds_leaveTables (s : State) : Holds s (clearRoster (clearHaltTable (zeroTallies s))) := by
  refine .of_same (caps := fun ⟨fits, queue, posts, _⟩ => ⟨⟨fits.notices, fits.outbound, ?_, ?_⟩, queue, posts, ?_, ?_⟩)
  · show (zeroTallies s).reactions.length = 24 ∧ _
    rw [zeroTallies_reactions, List.length_map]
    exact fits.tables
  · intro r hr
    obtain ⟨x, _, rfl⟩ := List.mem_map.1 hr
    exact Nat.zero_le 15
  · exact length_rosterOf _
  · simp [clearRoster, clearHaltTable]

theorem standingFits_clearStanding (s : State) : StandingFits (clearStanding s) := by
  unfold clearStanding setStanding
  split
  · rename_i he; exact standingFits_engaged he.symm (by simp) (by simp)
  · exact StandingFits.of_kept (standingFits_engaged rfl (by simp) (by simp)) (tame_notify _ _).kept

theorem holds_clearStanding (s : State) : Holds s (clearStanding s) :=
  Holds.trans (t := { s with score := 0, recovery := 0 }) .of_same (holds_setStanding _ _ _)

theorem keeps_leave (s : State) : Keeps s (leave s) := by
  have emptied : Holds s (losePosts (fun _ => true) .left (emptyOutbound .left (leaveLine s))) :=
    (holds_leaveLine s).trans ((keeps_emptyWithin _ _ _).trans (keeps_losePosts _ _ _)).toHolds
  have cleared : Holds s (clearStanding (clearRoster (clearHaltTable (zeroTallies
      (losePosts (fun _ => true) .left (emptyOutbound .left (leaveLine s))))))) := by
    exact (emptied.trans (holds_leaveTables _)).trans (holds_clearStanding _)
  exact Keeps.trans ⟨cleared, fun _ => standingFits_clearStanding _⟩ (keeps_takePosted _)

theorem quiet_returnEngaged (c : StandingCause) (s : State) : Quiet s (returnEngaged c s) := by
  have engage : Quiet s (setStanding .engaged c { s with score := 0, recovery := 0 }) :=
    Quiet.trans .of_same (quiet_setStanding _ _ _)
  exact .ite (engage.trans (quiet_openLine _)) engage

theorem quiet_observe (s : State) : Quiet s (observe s) :=
  .ite (.ite (Quiet.trans .of_same (quiet_returnEngaged _ _)) .of_same) (.refl s)

/-! ### The queue, stop and halt commands (R4, R20, R91 to R102) -/

theorem keeps_appendLocal (bytes : List Byte) (s : State) : Keeps s (appendLocal bytes s) := by
  unfold appendLocal
  refine .ite (keeps_respond _ _ s) (.ite (keeps_respond _ _ s) ?_)
  split
  · exact keeps_respond _ _ s
  · split
    · exact (keeps_enqueue _ _ (by omega)).trans (keeps_respond _ _ _)
    · exact keeps_respond _ _ s

/-- R20: what a FLUSH leaves is in order: a Running head with at most its Committed successor, or nothing. -/
theorem queueInOrder_flushed {s t : State} (h : QueueInOrder s)
    (hq : t.queue = s.queue.filter fun e => e.state != .waiting)
    (ha : t.axis.state = if t.queue.isEmpty && s.axis.state == .gated then .idle else s.axis.state) :
    QueueInOrder t := by
  obtain ⟨⟨committed, running, waiting, behind⟩, empty, axis⟩ := h
  cases hs : s.queue with
  | nil =>
    rw [hs, List.filter_nil] at hq
    simp_all [QueueInOrder, OnlyHeadRuns, AxisFollowsQueue]
  | cons e rest =>
    simp only [hs, List.head?_cons, Option.mem_some_iff, forall_eq', List.tail_cons] at committed running waiting behind axis
    cases he : e.state with
    | committed => exact absurd he committed
    | waiting =>
      have gone : t.queue = [] := by
        rw [hq, hs]
        simpa [he] using behind he
      simp_all [QueueInOrder, OnlyHeadRuns, AxisFollowsQueue]
    | running =>
      have kept : t.queue = e :: rest.filter fun n => n.state != .waiting := by rw [hq, hs]; simp [he]
      have second : ∀ n ∈ (rest.filter fun n => n.state != .waiting).tail, n.state = .waiting := by
        cases rest with
        | nil => simp
        | cons y rest =>
          have none_left : (rest.filter fun n => n.state != .waiting) = [] := by simpa using waiting
          rw [List.filter_cons, none_left]
          split <;> simp
      refine (queueInOrder_iff t).2 (inOrder_running kept he ?_ second ?_)
      · exact fun n hn => running n (List.mem_of_mem_filter hn)
      · rw [ha, kept]
        exact (axis.2 he).imp_right .inl

theorem keeps_flushWaiting (s : State) : Keeps s (flushWaiting s) := by
  unfold flushWaiting
  refine Keeps.trans (t := { s with
      queue := s.queue.filter fun e => e.state != .waiting
      axis := if (s.queue.filter fun e => e.state != .waiting).isEmpty && s.axis.state == .gated then
        { s.axis with state := .idle } else s.axis }) ?_ (keeps_flushEntries _ _)
  refine .of_same (caps := fun h => h.of_same (hq := List.length_filter_le _ _))
    (order := fun h => queueInOrder_flushed h rfl ?_)
  show Axis.state (if _ then _ else _) = _
  split <;> rfl

theorem keeps_liftOwnHalt (s : State) : Keeps s (liftOwnHalt s) := by
  have lifted : Keeps s (announceHalt { s with ownHalt := .clear }) := Keeps.trans .of_same (keeps_announceHalt _)
  exact .ite lifted (lifted.trans (keeps_handEvaluate _))

theorem keeps_acknowledge (s : State) : Keeps s (acknowledge s) := by
  have removed : Keeps s (removeCauses s) := by
    have cleared : Keeps s { s with faults := s.standingFaults } := .of_same
    exact .ite (cleared.trans (keeps_checkGap _)) cleared
  have lifted (t : State) : Keeps t (liftByAcknowledge t) := .ite (keeps_liftOwnHalt t) (.refl t)
  have changed (t : State) : Keeps t (faultsChanged t) := .ite (.refl t) (keeps_handEvaluate t)
  exact .ite (((removed.trans (lifted _)).trans (changed _)).trans (keeps_respond _ _ _)) (keeps_respond _ _ s)

theorem keeps_raiseByCommand (reason : Byte) (k : StopKind) (s : State) : Keeps s (raiseByCommand reason k s) :=
  Keeps.trans .of_same ((keeps_orderStop k _).trans (keeps_announceHalt _))

theorem keeps_liftByCommand (s : State) : Keeps s (liftByCommand s) := by
  unfold liftByCommand
  split
  · exact Keeps.trans .of_same ((keeps_announceHalt _).trans (keeps_respond _ _ _))
  · exact (keeps_liftOwnHalt s).trans (keeps_respond _ _ _)

theorem keeps_dismiss (s : State) : Keeps s (dismiss s) := by
  have removed : Keeps s (s.toDismiss.foldl (fun s n => removeHalt n .dismissed s) s) :=
    .foldl _ (fun s n => keeps_removeHalt n _ s) _ s
  exact .ite removed (removed.trans (keeps_haltsChanged _))

/-! ### The table commands and POST_SEGMENT (R55 to R79, R170) -/

theorem keeps_setReactionAt (e : Fin 24) (r : Reaction) (s : State) (h : TalliesFit s → r.tally ≤ 15) :
    Keeps s (setReactionAt e r s) :=
  .of_same (caps := fun ⟨fits, rest⟩ => ⟨(tame_setReactionAt e r s (h fits.tallies)).fits fits, rest⟩)

theorem keeps_setWatchRecord (w : Fin 4) (r : Watch) (s : State) :
    Keeps s { s with watches := s.watches.set w.val r } := .of_same (caps := fun h => h.of_same (hw := by simp))

theorem keeps_setWatch (w : Fin 4) (r : Watch) (arm : Bool) (s : State) : Keeps s (setWatch w r arm s) := by
  have written : Keeps s (writeWatch w r arm s) :=
    .ite (.ite (keeps_hitEffects _ _ s) (keeps_setWatchRecord _ _ s)) (keeps_setWatchRecord _ _ s)
  unfold setWatch
  exact written.trans (Keeps.trans (.ite (.refl _) (keeps_handGateChange _ _)) (keeps_respond _ _ _))

theorem keeps_setCaptureRecord (n : Fin 4) (c : Capture) (s : State) :
    Keeps s { s with captures := s.captures.set n.val c } := .of_same (caps := fun h => h.of_same (hc := by simp))

theorem admitPost_eq_some {n : Station} {bytes : List Byte} {s t : State} (h : admitPost n bytes s = some t) :
    ∃ u, admission (.station n) (.post bytes) s = some u ∧ t = { u with posts := u.posts ++ [newPost n (byteAt bytes 1) s] } := by
  unfold admitPost at h
  split at h
  · cases h
  · obtain ⟨u, hu, rfl⟩ := Option.map_eq_some_iff.1 h
    exact ⟨u, hu, rfl⟩

theorem row_postChecked (may : Bool) (n : Station) (bytes : List Byte) (s : State) : Row s (postChecked may n bytes s) := by
  unfold postChecked
  refine .ite (row_respond _ _ s) (.ite (row_respond _ _ s) ?_)
  split
  · exact row_respond _ _ s
  · rename_i room
    refine .ite (row_respond _ _ s) ?_
    split
    · rename_i t ht
      obtain ⟨u, hu, rfl⟩ := admitPost_eq_some ht
      have admitted := keeps_admission hu
      have room' : u.posts.length < 4 := by
        rw [show u.posts = s.posts from congrArg Kept.posts (tame_admit hu).kept]; omega
      have posted : Keeps u { u with posts := u.posts ++ [newPost n (byteAt bytes 1) s] } :=
        .of_same (caps := fun ⟨fits, queue, _, tables⟩ =>
          ⟨⟨fits.notices, fits.outbound, fits.tables, fits.tallies⟩, queue, by simp [PostsFit]; omega, tables⟩)
      exact .of_handed ((admitted.trans posted).trans (keeps_respond _ _ _)) (quiet_admit hu).handed
    · exact row_respond _ _ s

theorem row_postTo (n : Station) (bytes : List Byte) (s : State) : Row s (postTo n bytes s) := by
  have used : Row s { s with free := s.free + 1 } := .of_handed .of_same rfl
  have checked := row_postChecked (Config.checkedBeforeClosing s.free) n bytes { s with free := s.free + 1 }
  exact .ite ⟨used.keeps.trans checked.keeps, checked.atRest⟩ (row_postChecked _ n bytes s)

/-! ### The line (R109 to R116) -/

theorem row_dropPick (s : State) : Row s (dropPick s) := .of_quiet (keeps_dropPick s) (quiet_dropPick s)

theorem row_frameStart (s : State) : Row s (frameStart s) :=
  .of_handed ((keeps_dropPick s).trans .of_same) (quiet_dropPick s).handed

theorem row_activityBegins (s : State) : Row s (activityBegins s) := by
  have dominant : Keeps s { s with lif := { s.lif with dominant := true } } := .of_same
  refine .ite (.of_handed (dominant.trans (Keeps.trans .of_same (keeps_dropPick _))) ?_) (.of_handed dominant rfl)
  exact (quiet_dropPick _).handed

theorem row_activityEnds (s : State) : Row s (activityEnds s) := by
  have recessive : Keeps s { s with lif := { s.lif with dominant := false } } := .of_same
  refine .ite (.of_handed (recessive.trans (keeps_setReference 0 _)) ?_) (.of_handed recessive rfl)
  exact (quiet_setReference 0 _).handed

theorem keeps_beginAttempt (p : Pick) (s : State) : Keeps s (beginAttempt p s) :=
  .of_same (caps := fun h => h.of_same (ho := by simp [beginAttempt]))
    (line := fun _ => by simp [beginAttempt, LineAgrees, State.sends])

theorem keeps_followEcho (s : State) : Keeps s (followEcho s) := .of_same

/-! ### The timers (R156, R164, R165, R171) -/

theorem keeps_comeOnline (s : State) : Keeps s (comeOnline s) := by
  unfold comeOnline
  simp only
  split
  · rename_i hw
    refine Keeps.trans (.of_same (standing := fun h => ?_)) (keeps_startPresenceTimer _)
    exact ⟨h.score, h.recovery, h.withdrawn, h.standing, by simp [hw]⟩
  · have engaged : Keeps s { s with lifecycle := .online, listenTimer := 0, score := 0, standing := .engaged } :=
      .of_same (standing := fun h => standingFits_engaged rfl (by simp) h.recovery)
    exact (engaged.trans (keeps_openLine _)).trans (keeps_startPresenceTimer _)

theorem quiet_losePosts (p : PostEntry → Bool) (r : LostReason) (s : State) : Quiet s (losePosts p r s) := by
  unfold losePosts
  refine Quiet.trans (t := { s with posts := s.posts.filter fun e => !p e }) .of_same ?_
  generalize { s with posts := s.posts.filter fun e => !p e } = t
  induction s.posts.filter p generalizing t with
  | nil => exact .refl t
  | cons e l ih => exact (quiet_notify _ t).trans (ih _)

theorem quiet_lapsePeer (n : Station) (s : State) : Quiet s (lapsePeer n s) :=
  Quiet.trans (t := setPeer n _ s) .of_same ((quiet_notify _ _).trans (quiet_losePosts _ _ _))

/-! ### Every command -/

/-- Every command but FRAME_TAKEN, which may leave a POST handed on. -/
theorem exec_row {c : Instr} (hc : ∀ f, c ≠ .frameTaken f) (s : State) : Answers (Row s) (exec c s) := by
  have refl : Row s s := .refl s
  have same (code : ResultCode) (data : List Byte) : Answers (Row s) (.next (respond code data s)) :=
    .next (row_respond code data s)
  cases c with
  | frameTaken f => exact absurd rfl (hc f)
  | hardReset straps => exact .next (afresh_hardReset straps s).row
  | transactionBegin => exact .next (.of_handed .of_same rfl)
  | malformedTransaction => exact .ite (.next refl) (.ite (.next (.of_handed .of_same rfl)) (.next (.of_handed .of_same rfl)))
  | transactionEnd => exact .ite (.next refl) (.ite (.next (.of_handed .of_same rfl)) (.next (.of_handed .of_same rfl)))
  | writeConfig block =>
    unfold exec execWriteConfig
    exact .onPort (.next (.settled (keeps_writeConfig block s))) refl
  | join =>
    unfold exec execJoin
    refine .onPort ?_ refl
    split
    · rename_i h
      exact .next (.of_handed ((keeps_join h).trans (keeps_respond _ _ _)) (quiet_join s).handed)
    · exact same _ _
  | leave =>
    unfold exec execLeave
    exact .onPort (.ite (.next (.settled ((keeps_leave s).trans (keeps_respond _ _ _)))) (same _ _)) refl
  | rejoin =>
    unfold exec execRejoin
    refine .onPort (.ite (.next (.of_handed ((keeps_returnEngaged _ s).trans (keeps_respond _ _ _)) ?_)) (same _ _)) refl
    exact (quiet_returnEngaged _ s).handed
  | restart straps =>
    unfold exec execRestart
    exact .onPort (.next (.settled ((keeps_respond _ _ s).trans (keeps_restart straps _)))) refl
  | appendSegment bytes =>
    unfold exec execAppendSegment
    exact .onPort (.next (.settled (keeps_appendLocal bytes s))) refl
  | flush =>
    unfold exec execFlush
    exact .onPort (.next (.settled ((keeps_flushWaiting s).trans (keeps_respond _ _ _)))) refl
  | stop =>
    unfold exec execStop
    exact .onPort (.next (.settled ((keeps_orderStop _ s).trans (keeps_respond _ _ _)))) refl
  | abort =>
    unfold exec execAbort
    exact .onPort (.next (.settled ((keeps_orderStop _ s).trans (keeps_respond _ _ _)))) refl
  | acknowledge =>
    unfold exec execAcknowledge
    exact .onPort (.next (.settled (keeps_acknowledge s))) refl
  | raiseHalt reason kind =>
    unfold exec execRaiseHalt
    refine .onPort ?_ refl
    split
    · exact .next (.settled ((keeps_raiseByCommand _ _ s).trans (keeps_respond _ _ _)))
    · exact same _ _
  | liftHalt =>
    unfold exec execLiftHalt
    exact .onPort (.ite (.next (.settled (keeps_liftByCommand s))) (same _ _)) refl
  | dismiss =>
    unfold exec execDismiss
    exact .onPort (.next (.settled ((keeps_dismiss s).trans (keeps_respond _ _ _)))) refl
  | emitMark mark choice value =>
    unfold exec execEmitMark
    refine .onPort ?_ refl
    split
    · exact .next (.settled ((keeps_requestMark _ _ _ _ s).trans (keeps_respond _ _ _)))
    · exact same _ _
  | setReaction index source mark action parameter mode =>
    unfold exec execSetReaction
    refine .onPort ?_ refl
    split
    · rename_i e r _ hr
      have zero : r.tally = 0 := by
        simp only [reactionOfBytes, Option.bind_eq_bind, Option.bind_eq_some_iff, Option.some.injEq] at hr
        obtain ⟨_, _, _, _, _, _, _, _, rfl⟩ := hr
        rfl
      exact .next (.settled ((keeps_setReactionAt e r s fun _ => by omega).trans
        ((keeps_handGateChange _ _).trans (keeps_respond _ _ _))))
    · exact same _ _
  | clearReaction index =>
    unfold exec execClearReaction
    refine .onPort ?_ refl
    split
    · exact .next (.settled ((keeps_setReactionAt _ _ s fun _ => Nat.zero_le _).trans
        ((keeps_handGateChange _ _).trans (keeps_respond _ _ _))))
    · exact same _ _
  | rearm index =>
    unfold exec execRearm
    refine .onPort ?_ refl
    split
    · rename_i e _
      have armed : Keeps s (setReactionAt e { s.reaction e with spent := false } s) :=
        keeps_setReactionAt e _ s fun h => tally_getD s e.val h
      exact .ite (.next (.of_handed (armed.trans (keeps_respond _ _ _)) rfl)) (same _ _)
    · exact same _ _
  | setWatch watch enable source condition value mark cut =>
    unfold exec execSetWatch
    refine .onPort ?_ refl
    split
    · exact .next (.settled (keeps_setWatch _ _ _ s))
    · exact same _ _
  | setCapture slot setup =>
    unfold exec execSetCapture
    refine .onPort ?_ refl
    split
    · exact .next (.of_handed ((keeps_setCaptureRecord _ _ s).trans (keeps_respond _ _ _)) rfl)
    · exact same _ _
  | readCapture slot =>
    unfold exec execReadCapture
    refine .onPort ?_ refl
    split
    · exact .next (.of_handed ((keeps_setCaptureRecord _ _ s).trans (keeps_respond _ _ _)) rfl)
    · exact same _ _
  | postSegment destination bytes =>
    unfold exec execPostSegment
    refine .onPort ?_ refl
    split
    · exact .next (row_postTo _ bytes s)
    · exact same _ _
  | readStatus =>
    unfold exec execReadStatus
    exact .onPort (same _ _) refl
  | readRoster station =>
    unfold exec execReadRoster
    refine .onPort ?_ refl
    split
    · refine .next (.ite (.of_handed ?_ ?_) (row_respond _ _ s))
      · exact Keeps.trans (.ite .of_same (.refl s)) (keeps_respond _ _ _)
      · show State.handed (if _ then _ else _) = _
        split <;> rfl
    · exact same _ _
  | readHaltList =>
    unfold exec execReadHaltList
    exact .onPort (same _ _) refl
  | readNotice =>
    unfold exec execReadNotice
    refine .onPort (.next (.of_handed ?_ rfl)) refl
    refine Keeps.trans (t := { s with notices := s.notices.tail, lost := 0 }) ?_ (keeps_respond _ _ _)
    refine .of_same (caps := fun ⟨fits, rest⟩ => ⟨⟨⟨?_, Nat.zero_le _⟩,
      fits.outbound, fits.tables, fits.tallies⟩, rest⟩)
    simpa using fits.notices.1.trans (Nat.le_succ 16)
  | unknown code =>
    unfold exec execUnknown
    exact .onPort (same _ _) refl
  | inputChange i high => exact .next (.settled (keeps_inputBecomes i high s))
  | encoderEdge a b => exact .next (.settled (keeps_encoderEdge a b s))
  | stepPulse => exact .next (.settled (keeps_pulse s))
  | dwellExpiry => exact .next (.settled (keeps_dwellDone s))
  | frameStartRecognised => exact .next (.ite (row_frameStart s) refl)
  | lineActivity => exact .next (.ite (row_activityEnds s) (row_activityBegins s))
  | quietPeriod =>
    refine .next (.ite (.of_handed ?_ (quiet_observe _).handed) refl)
    exact Keeps.trans .of_same (keeps_observe _)
  | idleRound =>
    refine .next (.ite (.of_handed ?_ (quiet_pick _).handed) refl)
    exact Keeps.trans .of_same (keeps_pick _)
  | deferralGapReached =>
    show Answers (Row s) (execDeferralGapReached s)
    unfold execDeferralGapReached
    split
    · exact .next (.ite (.of_handed (keeps_beginAttempt _ s) rfl) refl)
    · exact .next refl
  | echoFault =>
    exact .ite (.next (.settled ((keeps_followEcho s).trans (keeps_attemptResult _ _)))) (.next refl)
  | attemptEnd rejected =>
    exact .ite (.next (.settled ((keeps_attemptResult _ s).trans (keeps_setReference 0 _)))) (.next refl)
  | receivedFrameEnd f => exact .next (.settled (keeps_windowEnds f s))
  | frameTruncated => exact .next (.settled (keeps_truncate s))
  | listeningTimerExpiry =>
    have online := ((keeps_comeOnline s).trans (keeps_handEvaluate _)).trans (keeps_settle _)
    refine .ite (.next ⟨online.trans (keeps_pickIfSilent _), fun _ => ?_⟩) (.next refl)
    exact (quiet_pickIfSilent _).handed.trans (atRest_settle _)
  | presenceTimerExpiry =>
    refine .ite (.next (.of_handed ?_ (quiet_requestPresence _).handed)) (.next refl)
    exact (keeps_startPresenceTimer s).trans (keeps_requestPresence _)
  | lapseTimerExpiry n => exact .ite (.next (.of_quiet (keeps_lapsePeer n s) (quiet_lapsePeer n s))) (.next refl)
  | answerTimerExpiry n q => exact .next (.of_quiet (keeps_losePosts _ _ s) (quiet_losePosts _ _ s))

/-! ### One period of the clock -/

theorem keeps_reachGap (s : State) : Keeps s (reachGap s) := by
  unfold reachGap
  split
  · exact .ite (keeps_beginAttempt _ s) (.refl s)
  · exact .refl s

theorem keeps_countFlight (n : Nat) (s : State) (hx : s.lif.transmitter = .sending) :
    Keeps s { s with lif := countFlight n s.lif } := by
  refine .of_same (line := fun h => ?_)
  unfold countFlight
  split
  · split <;> simp_all [LineAgrees, State.sends]
  · exact h

theorem keeps_bitTime (s : State) : Keeps s (bitTime s) := by
  unfold bitTime idleBit
  refine .ite (.ite (Keeps.trans .of_same (keeps_reachGap _)) .of_same) ?_
  split
  · rename_i hx; exact keeps_countFlight _ s hx
  · exact .refl s

theorem keeps_tick (s : State) : Keeps s (tick s) := by
  refine Keeps.trans (t := { countTimers s with pending := s.pending ++ expiries s, closing := false }) ?_ ?_
  · refine .of_same (caps := fun h => h.of_same (hp := by simp [countTimers]) (hro := ?_))
    simp only [countTimers]
    split <;> simp
  · exact .ite (Keeps.trans .of_same (keeps_bitTime _)) .of_same

theorem tick_handed (s : State) : (tick s).handed = s.handed := by
  have gap (t : State) : (reachGap t).handed = t.handed := by
    unfold reachGap
    split
    · split <;> rfl
    · rfl
  unfold tick countBit
  split
  · unfold bitTime idleBit
    split
    · split
      · exact gap _
      · rfl
    · split <;> rfl
  · rfl

/-! ### One step -/

theorem step_cons {s : State} {c : Instr} {rest : List Instr} (h : s.pending = c :: rest) :
    step s = exec c { s with pending := rest } := by simp only [step, h]

theorem step_nil {s : State} (h : s.pending = []) : step s = .next (tick s) := by simp only [step, h]

/-- FRAME_TAKEN keeps the invariants, and leaves a POST handed on only where the next command overtakes it. -/
theorem exec_frameTaken_leaves (f : RxFrame) (s : State) :
    Answers (fun t => (∃ u, Leaves s u ∧ t = settle u) ∧ AtRest t) (exec (.frameTaken f) s) :=
  .next ⟨⟨_, leaves_frameEnds f s, rfl⟩, atRest_settle _⟩

/-- The invariants but for the POSTs handed on, which they do not read. -/
structure Sound (s t : State) : Prop where
  caps : CapsFit s → CapsFit t
  positions : PositionsAgree s → PositionsAgree t
  standing : StandingFits s → StandingFits t
  order : QueueInOrder s → QueueInOrder t
  line : LineAgrees s → LineAgrees t
  atRest : AtRest s → AtRest t

theorem Row.sound {s t : State} (h : Row s t) : Sound s t :=
  ⟨h.keeps.caps, h.keeps.positions, h.keeps.standing, h.keeps.order, h.keeps.line, h.atRest⟩

theorem Leaves.sound_settle {s u : State} (h : Leaves s u) : Sound s (settle u) := by
  obtain ⟨v, hv, rfl | ⟨_, l, rfl⟩⟩ := h
  · exact (Row.settled hv).sound
  · have k := keeps_settle { v with posted := l }
    exact ⟨fun h => k.caps (hv.caps h).of_same, k.positions ∘ hv.positions, fun h => k.standing (hv.standing h).of_same,
      k.order ∘ hv.order, k.line ∘ hv.line, fun _ => atRest_settle _⟩

theorem exec_sound (c : Instr) (s : State) : Answers (Sound s) (exec c s) := by
  by_cases hc : ∃ f, c = .frameTaken f
  · obtain ⟨f, rfl⟩ := hc
    obtain ⟨t, ht, ⟨u, hu, rfl⟩, -⟩ := exec_frameTaken_leaves f s
    exact ⟨_, ht, hu.sound_settle⟩
  · obtain ⟨t, ht, row⟩ := exec_row (fun f h => hc ⟨f, h⟩) s
    exact ⟨t, ht, row.sound⟩

theorem step_sound {s t : State} (h : step s = .next t) : Sound s t := by
  cases hp : s.pending with
  | nil =>
    rw [step_nil hp] at h
    cases h
    exact (Row.of_handed (keeps_tick s) (tick_handed s)).sound
  | cons c rest =>
    obtain ⟨u, hu, sound⟩ := exec_sound c { s with pending := rest }
    rw [step_cons hp, hu] at h
    cases h
    exact ⟨fun k => sound.caps k.of_same, sound.positions, fun k => sound.standing k.of_same, sound.order, sound.line,
      sound.atRest⟩

end Sys2Proof.Machine

/-! PROOFS. The invariants of every step and of the reset, and that a step takes the front command (O1, O56 to O60). -/

namespace Sys2Proof.Machine

/-! ### POSTs handed on (log 50) -/

theorem takePosted_leaves_none (s : State) : (takePosted s).posted = [] := by
  have all : Keeps { s with posted := [] } (takePosted s) :=
    .foldl _ (fun s (p : HandedPost) => keeps_takePost p.source p.sequence p.segment s) _ _
  exact all.posted rfl

theorem step_posted_of_nil {s t : State} {c : Instr} {rest : List Instr} (hp : s.pending = c :: rest)
    (untaken : s.posted = []) (h : step s = .next t) : PostedIsOvertaken t := by
  rw [step_cons hp] at h
  by_cases hc : ∃ f, c = .frameTaken f
  · obtain ⟨f, rfl⟩ := hc
    obtain ⟨_, hu, ⟨u, ⟨v, hv, left⟩, rfl⟩, -⟩ := exec_frameTaken_leaves f { s with pending := rest }
    rw [hu] at h
    cases h
    obtain rfl | ⟨soon, l, rfl⟩ := left
    · exact fun some => absurd ((keeps_settle _).posted (hv.posted untaken)) some
    · exact fun _ => overtaken_of_inner (inner_settle _) (tame_settle _) soon
  · obtain ⟨u, hu, row⟩ := exec_row (fun f k => hc ⟨f, k⟩) { s with pending := rest }
    rw [hu] at h
    cases h
    exact fun some => absurd (row.keeps.posted untaken) some

/-- What overtakes a POST handed on: a LEAVE, or a clean frame with the own number. -/
theorem overtaken_cases {s : State} (h : s.overtaken = true) :
    s.lifecycle = .online ∧ ∃ rest, s.pending = .leave :: rest ∧ s.awaitsCommand = true ∨
      ∃ f x, s.pending = .frameTaken f :: rest ∧ s.receives = true ∧ rxClean f = true ∧ rxHeader f = some x ∧
        x.source = s.station := by
  simp only [State.overtaken, Bool.and_eq_true, beq_iff_eq] at h
  obtain ⟨online, h⟩ := h
  refine ⟨online, ?_⟩
  split at h
  · rename_i rest hp
    exact ⟨rest, .inl ⟨hp, h⟩⟩
  · rename_i f rest hp
    simp only [Bool.and_eq_true, Option.any_eq_true, beq_iff_eq] at h
    obtain ⟨⟨receives, clean⟩, x, hx, own⟩ := h
    exact ⟨rest, .inr ⟨f, x, hp, receives, clean, hx, own⟩⟩
  · cases h

theorem clearYieldAfterEcho_station (s : State) : (clearYieldAfterEcho s).station = s.station := by
  unfold clearYieldAfterEcho
  split
  · split <;> rfl
  · rfl

theorem frameEnds_of_own_number {f : RxFrame} {x : RxHeader} {s : State} (receives : s.receives = true)
    (clean : rxClean f = true) (hx : rxHeader f = some x) (own : x.source = s.station) :
    frameEnds f s = enterConflict x (clearYieldAfterEcho (noteFrame f s)) := by
  simp only [frameEnds, receives, clean, hx, if_true, clearYieldAfterEcho_station, noteFrame_station, own]

theorem exec_leave_of_onLine {s : State} (awaits : s.awaitsCommand = true) (on : s.onLine = true) :
    exec .leave s = .next (settle (respond .ok [] (leave s))) := by
  unfold exec execLeave
  rw [onPort_of_awaits awaits, if_pos on]

/-- The command that overtakes a POST handed on leaves none. -/
theorem step_posted_of_overtaken {s t : State} (soon : s.overtaken = true) (h : step s = .next t) : t.posted = [] := by
  obtain ⟨online, rest, ⟨hp, awaits⟩ | ⟨f, x, hp, receives, clean, hx, own⟩⟩ := overtaken_cases soon
  · rw [step_cons hp] at h
    set u : State := { s with pending := rest }
    have onLine : u.onLine = true := by simp [State.onLine, show u.lifecycle = .online from online]
    rw [exec_leave_of_onLine (s := u) awaits onLine] at h
    rw [← Host.Outcome.next.inj h]
    exact ((keeps_respond _ _ _).trans (keeps_settle _)).posted (takePosted_leaves_none _)
  · rw [step_cons hp] at h
    set u : State := { s with pending := rest }
    have ends := frameEnds_of_own_number (s := u) receives clean hx own
    have taken : exec (.frameTaken f) u = .next (settle (frameEnds f u)) := rfl
    rw [taken, ends] at h
    rw [← Host.Outcome.next.inj h]
    exact (keeps_settle _).posted (takePosted_leaves_none _)

theorem step_posted {s t : State} (before : PostedIsOvertaken s) (h : step s = .next t) : PostedIsOvertaken t := by
  by_cases untaken : s.posted = []
  · cases hp : s.pending with
    | nil =>
      rw [step_nil hp] at h
      cases h
      exact fun some => absurd ((keeps_tick s).posted untaken) some
    | cons c rest => exact step_posted_of_nil hp untaken h
  · exact fun some => absurd (step_posted_of_overtaken (before untaken) h) some

/-! ### The invariants -/

/-- Settles O56, by what every operation keeps (Keeps): a step is one of them, or a period of the clock. -/
theorem everyStepKeepsTheCapacitiesAndPositions : Obligations.EveryStepKeepsTheCapacitiesAndPositions :=
  fun _ _ h => ⟨fun fits queue posts tables => (step_sound h).caps ⟨fits, queue, posts, tables⟩,
    (step_sound h).positions⟩

/-- Settles O57: only the operations of Line Standing and of the lifecycle change what its table reads. -/
theorem everyStepKeepsTheStandingTable : Obligations.EveryStepKeepsTheStandingTable :=
  fun _ _ fits h => (step_sound h).standing fits

/-- Settles O58: a start, between its Running head and its axis, is in order as a whole (InOrder, Starts). -/
theorem everyStepKeepsTheQueueInOrder : Obligations.EveryStepKeepsTheQueueInOrder :=
  fun _ _ order h => (step_sound h).order order

/-- Settles O59: settle takes everything handed on, and the transmitter changes with its pick or its flight. -/
theorem everyStepEndsAtRestWithTheLineInAgreement : Obligations.EveryStepEndsAtRestWithTheLineInAgreement :=
  fun _ _ atRest line h =>
    ⟨(step_sound h).atRest atRest, (step_sound h).line line, fun before => step_posted before h⟩

/-! ### The machine and the reset -/

/-- Settles O1: each row of the table has a meaning of its own, which answers a next state. -/
theorem stepTakesTheFrontCommand : Obligations.StepTakesTheFrontCommand := by
  intro s c rest
  obtain ⟨t, ht, _⟩ := exec_sound c s
  exact ⟨step_cons, t, ht⟩

theorem Afresh.fits {t : State} (h : Afresh t) :
    Fits t ∧ QueueFits t ∧ PostsFit t ∧ StationTablesFit t ∧ PositionsAgree t ∧ StandingFits t ∧ QueueInOrder t ∧
      AtRest t ∧ LineAgrees t ∧ PostedIsOvertaken t := by
  obtain ⟨⟨fits, queue, posts, tables⟩, positions, standing, order, line, posted, atRest⟩ := h
  exact ⟨fits, queue, posts, tables, positions, standing, order, atRest, line, fun some => absurd posted some⟩

/-- Settles O60. -/
theorem resetMeetsEveryInvariant : Obligations.ResetMeetsEveryInvariant := by
  intro s straps _
  obtain ⟨f₁, f₂, f₃, f₄, f₅, f₆, f₇, f₈, f₉, f₁₀⟩ := (afresh_hardReset straps s).fits
  exact ⟨_, rfl, f₁, f₂, f₃, f₄, f₅, f₆, f₇, f₈, f₉, f₁₀, afresh_reset.fits⟩

end Sys2Proof.Machine

/-! PROOFS. One period of the clock (logs 2, 20, 21, 44, 47). -/

namespace Sys2Proof.Machine

/-! ### One bit time (R109, R114) -/

/-- Whether this period ends a bit time. -/
def State.bitEnds (s : State) : Bool := decide (s.bitRate.periods ≤ s.bitPhase + 1)

/-- Whether this period ends a bit time of idle, recessive line. -/
def State.idleBitEnds (s : State) : Bool :=
  s.bitEnds && s.lif.receiver == .hunting && !s.lif.dominant &&
    (s.lif.transmitter == .silent || s.lif.transmitter == .waiting)

/-- The pick whose gap the idle count, just risen, reaches: its attempt starts. -/
def State.reached (s : State) : Option Pick :=
  if s.lif.idle < 519 ∧ s.lif.transmitter = .waiting ∧ s.canSend then
    s.lif.picked.filter fun p => p.gap == s.lif.idle + 1
  else none

/-- The Line Interface after a bit time of idle line. -/
def State.idledLif (s : State) : Lif :=
  match s.reached with
  | some p =>
    { s.lif with
      idle := s.lif.idle + 1, quiet := 0, transmitter := .sending, picked := none, rejectDriven := false
      flight := some { frame := p.frame, bits := 0 } }
  | none => countIdle s.lif

/-- The Outbound Queue after a bit time of idle line. -/
def State.idledOutbound (s : State) : List OutFrame :=
  match s.reached with
  | some p => s.outbound.map fun g => if g.id = p.frame then { g with inFlight := true } else g
  | none => s.outbound

theorem idles_iff (s : State) :
    s.idles = true ↔ s.lif.receiver = .hunting ∧ s.lif.dominant = false ∧
      (s.lif.transmitter = .silent ∨ s.lif.transmitter = .waiting) := by
  simp only [State.idles, State.hunts, Bool.and_eq_true, Bool.or_eq_true, beq_iff_eq, Bool.not_eq_true']
  tauto

/-- R109, R114: a bit time of idle line, by whether the count reaches the gap of the picked frame. -/
theorem idleBit_eq {s : State} (idles : s.idles = true) (phase : s.bitPhase = 0) :
    idleBit s = { s with
      lif := s.idledLif, outbound := s.idledOutbound, pending := s.pending ++ idleEvents s.lif } := by
  obtain ⟨hunting, recessive, -⟩ := (idles_iff s).1 idles
  have count (h : s.lif.idle < 519) : (countIdle s.lif).idle = s.lif.idle + 1 := Nat.min_eq_right h
  set t : State := { s with lif := countIdle s.lif, pending := s.pending ++ idleEvents s.lif } with ht
  have mayBegin : t.mayBegin = (s.canSend && s.lif.transmitter == .waiting) := by
    show (s.canSend && s.lif.transmitter == .waiting && s.lif.receiver == .hunting && !s.lif.dominant) = _
    simp [hunting, recessive]
  have quiet : s.reached = none → idleBit s = t →
      idleBit s = { s with
        lif := s.idledLif, outbound := s.idledOutbound, pending := s.pending ++ idleEvents s.lif } := by
    intro h e
    rw [e]
    simp only [State.idledLif, State.idledOutbound, h, t]
  by_cases low : s.lif.idle < 519
  · have split : idleBit s = reachGap t := if_pos low
    cases hp : s.lif.picked with
    | none =>
      refine quiet (by simp [State.reached, hp]) (split.trans ?_)
      simp only [reachGap, show t.lif.picked = s.lif.picked from rfl, hp]
    | some p =>
      have gap : reachGap t = if t.mayBegin && p.gap == s.lif.idle + 1 then beginAttempt p t else t := by
        simp only [reachGap, show t.lif.picked = s.lif.picked from rfl, hp, show t.lif.idle = s.lif.idle + 1 from count low]
      by_cases start : s.lif.transmitter = .waiting ∧ s.canSend = true ∧ p.gap = s.lif.idle + 1
      · obtain ⟨waiting, send, eq⟩ := start
        have reached : s.reached = some p := by simp [State.reached, low, waiting, send, hp, eq]
        rw [split, gap, mayBegin, if_pos (by simp [waiting, send, eq])]
        simp only [beginAttempt, State.idledLif, State.idledOutbound, reached, t, countIdle, eq, phase]
      · have none_reached : s.reached = none := by
          simp only [State.reached, hp]
          split
          · rename_i h; simp [Option.filter]; tauto
          · rfl
        refine quiet none_reached (split.trans ?_)
        rw [gap, mayBegin, if_neg]
        simp only [Bool.and_eq_true, beq_iff_eq]
        tauto
  · exact quiet (by simp [State.reached, low]) (if_neg low)

/-! ### One period -/

/-- The Line Interface after a period of the clock. -/
def State.tickedLif (s : State) : Lif :=
  if s.idleBitEnds then s.idledLif
  else if s.bitEnds = true ∧ s.lif.transmitter = .sending then
    countFlight ((s.charsInFlight.getD []).length) s.lif
  else s.lif

/-- The Outbound Queue after a period of the clock. -/
def State.tickedOutbound (s : State) : List OutFrame := if s.idleBitEnds then s.idledOutbound else s.outbound

theorem tick_eq (s : State) :
    tick s = { countTimers s with
      pending := s.pending ++ expiries s ++ (if s.idleBitEnds then idleEvents s.lif else [])
      closing := false, bitPhase := if s.bitEnds then 0 else s.bitPhase + 1, lif := s.tickedLif
      outbound := s.tickedOutbound } := by
  have idleEnds : s.idleBitEnds = (s.bitEnds && s.idles) := by
    rw [Bool.eq_iff_iff, Bool.and_eq_true, idles_iff]
    simp only [State.idleBitEnds, Bool.and_eq_true, Bool.or_eq_true, beq_iff_eq, Bool.not_eq_true']
    tauto
  unfold tick countBit
  by_cases bit : s.bitRate.periods ≤ s.bitPhase + 1
  · set u : State := { countTimers s with
      pending := s.pending ++ expiries s, closing := false, bitPhase := 0 } with hu
    have ends : s.bitEnds = true := decide_eq_true bit
    rw [if_pos (show (countTimers s).bitRate.periods ≤ (countTimers s).bitPhase + 1 from bit)]
    show bitTime u = _
    unfold bitTime
    by_cases idles : s.idles = true
    · rw [if_pos (show u.idles = true from idles), idleBit_eq (show u.idles = true from idles) rfl]
      have all : s.idleBitEnds = true := by rw [idleEnds, ends, idles]; rfl
      simp only [State.tickedLif, State.tickedOutbound, all, ends, if_true]
      rfl
    · have not_all : s.idleBitEnds = false := by rw [idleEnds]; simp [idles]
      rw [if_neg (show ¬ u.idles = true from idles)]
      simp only [State.tickedLif, State.tickedOutbound, not_all, ends, if_true, true_and, Bool.false_eq_true, if_false,
        List.append_nil]
      by_cases sending : s.lif.transmitter = .sending
      · rw [if_pos (show u.lif.transmitter = .sending from sending), if_pos sending]
        rfl
      · rw [if_neg (show ¬ u.lif.transmitter = .sending from sending), if_neg sending]
        rfl
  · have ends : s.bitEnds = false := decide_eq_false bit
    have not_all : s.idleBitEnds = false := by rw [idleEnds, ends]; rfl
    rw [if_neg (show ¬ (countTimers s).bitRate.periods ≤ (countTimers s).bitPhase + 1 from bit)]
    simp only [State.tickedLif, State.tickedOutbound, not_all, ends, Bool.false_eq_true, false_and, if_false,
      List.append_nil]
    rfl

theorem countFlight_of_sending (n : Nat) {l : Lif} (h : l.transmitter = .sending) :
    countFlight n l = match l.flight with
      | some fl =>
        { l with
          flight := some { fl with bits := fl.bits + 1 }
          transmitter := if 10 * n ≤ fl.bits + 1 then .listeningBack else .sending }
      | none => l := by
  unfold countFlight
  rw [h] <;> rfl

/-- Settles O2: the period is one equation (tick_eq), its Line Interface and its Outbound Queue by the bit time that ends. -/
theorem idleStepCountsOneClockPeriod : Obligations.IdleStepCountsOneClockPeriod := by
  intro s idle bit idleEnds due starts
  have hbit : bit = s.bitEnds := rfl
  have hidle : idleEnds = s.idleBitEnds := rfl
  have reached (h : s.idleBitEnds = true) : starts = s.reached := by
    simp only [starts, hidle, h, State.reached, true_and]
  have unreached (h : ¬ s.idleBitEnds = true) : starts = none := by
    simp only [starts, hidle, h, Bool.false_eq_true, false_and, if_false]
  refine ⟨_, step_nil idle, ?_⟩
  rw [tick_eq, idle]
  refine ⟨rfl, rfl, rfl, rfl, rfl, ?_, rfl, ?_, ?_, rfl, ?_⟩
  · simp only [List.nil_append, expiries, lapsing, expiring, idleEvents, hidle, List.append_assoc, due]
    by_cases h : s.idleBitEnds = true <;> simp [h]
  · show s.tickedLif = _
    rw [hidle, hbit]
    by_cases h : s.idleBitEnds = true
    · rw [if_pos h, reached h]
      simp only [State.tickedLif, h, if_true]
      rfl
    · rw [if_neg h]
      simp only [State.tickedLif, h, Bool.false_eq_true, if_false]
      by_cases sending : s.bitEnds = true ∧ s.lif.transmitter = .sending
      · rw [if_pos sending, if_pos sending, countFlight_of_sending _ sending.2] <;> rfl
      · rw [if_neg sending, if_neg sending]
  · show s.tickedOutbound = _
    by_cases h : s.idleBitEnds = true
    · rw [reached h]
      simp only [State.tickedOutbound, h, if_true]
      rfl
    · rw [unreached h]
      simp only [State.tickedOutbound, h, Bool.false_eq_true, if_false]
  · rw [← idle]
    rfl

end Sys2Proof.Machine

/-! PROOFS. What a stop makes of the axis and the queue and what it leaves alone (R19, R41, R42, R88 to R90), the entry of a
cause into the fault set (R84, R94), and the taking of an evaluation that starts nothing (R11). -/

namespace Sys2Proof.Machine

-- One thread for the many small proofs of this part: each default proof waits for the declarations before it.
set_option Elab.async false

/-! ### What is left of the frames of an operation -/

theorem Frames.ownHalt {s t : State} (h : Frames s t) : t.ownHalt = s.ownHalt := (congrArg State.ownHalt h.same :)
theorem Frames.handed {s t : State} (h : Frames s t) : t.handed = s.handed := (congrArg State.handed h.same :)
theorem Offers.handed {s t : State} (h : Offers s t) : t.handed = s.handed := (congrArg State.handed h.same :)

/-- The state but for what a stop changes: the queue and the axis, the frames and the notices, and that an evaluation of
the head is due. -/
def State.besidesStop (s : State) : State :=
  { s.besidesFrames with queue := [], axis := .cleared, handed := { s.handed with evaluate := false } }

/-- A stop changes nothing else. -/
structure Stops (s t : State) : Prop where
  same : t.besidesStop = s.besidesStop
  notices : s.notices <+: t.notices

theorem Frames.stops {s t : State} (h : Frames s t) : Stops s t := ⟨(congrArg State.besidesStop h.same :), h.notices⟩

theorem Stops.refl (s : State) : Stops s s := ⟨rfl, List.prefix_rfl⟩

theorem Stops.trans {s t u : State} (h : Stops s t) (k : Stops t u) : Stops s u :=
  ⟨k.same.trans h.same, h.notices.trans k.notices⟩

theorem Stops.config {s t : State} (h : Stops s t) : t.config = s.config := (congrArg State.config h.same :)
theorem Stops.ownHalt {s t : State} (h : Stops s t) : t.ownHalt = s.ownHalt := (congrArg State.ownHalt h.same :)
theorem Stops.faults {s t : State} (h : Stops s t) : t.faults = s.faults := (congrArg State.faults h.same :)

theorem Stops.ite {s t u : State} {c : Prop} [Decidable c] (h : Stops s t) (k : Stops s u) :
    Stops s (if c then t else u) := by split <;> assumption

theorem Stops.of_same {s t : State} (h : t.besidesStop = s.besidesStop := by rfl)
    (hn : t.notices = s.notices := by rfl) : Stops s t := ⟨h, hn ▸ List.prefix_rfl⟩

theorem stops_retireHead (s : State) : Stops s (retireHead .stopped s) := by
  cases hq : s.queue with
  | nil => rw [retireHead_nil _ hq]; exact .refl s
  | cons e rest =>
    rw [retireHead_cons _ hq]
    exact Stops.trans .of_same ((frames_retireEffects e (.inl rfl) (s.headless rest)).stops.trans .of_same)

theorem stops_flushBehind (s : State) : Stops s (flushBehind s) := by
  unfold flushBehind
  split
  · exact .ite (Stops.trans .of_same (frames_flushEntries _ _).stops)
      (Stops.trans .of_same (frames_flushEntries _ _).stops)
  · exact .refl s

theorem stops_brake (r : Nat) (e : Entry) (s : State) : Stops s (brake .stop r e s) := .ite (stops_retireHead s) .of_same

theorem stops_decelerateHead (e : Entry) (s : State) : Stops s (decelerateHead e s) := by
  unfold decelerateHead
  split
  · exact .of_same
  · exact stops_brake _ e s
  · exact stops_brake _ e s
  · exact stops_brake _ e s
  · exact stops_retireHead s

theorem stops_orderStop (k : StopKind) (s : State) : Stops s (orderStop k s) := by
  unfold orderStop
  split
  · exact stops_flushBehind s
  · exact (stops_retireHead s).trans (stops_flushBehind _)
  · exact (stops_flushBehind s).trans (stops_decelerateHead _ _)

/-! ### What a stop makes (R19, R41, R42) -/

theorem flushBehind_of_not_running {s : State} (h : s.runningHead = none) :
    (flushBehind s).queue = [] ∧
      (flushBehind s).axis = if s.queue = [] then s.axis else { s.axis with state := .idle } := by
  unfold flushBehind
  cases hq : s.queue with
  | nil => simp [hq]
  | cons e rest =>
    have he : e.state ≠ .running := runningHead_eq_none.1 h e (by simp [hq])
    simp only [he, if_false]
    have m := (frames_flushEntries (e :: rest) { s with queue := [], axis := { s.axis with state := .idle } }).marks
    exact ⟨m.queue, m.axis⟩

theorem retireHead_queue_axis (o : Retirement) {s : State} {e : Entry} {rest : List Entry} (hq : s.queue = e :: rest) :
    (retireHead o s).queue = rest.map Entry.uncommit ∧
      (retireHead o s).axis = { s.axis.ended with state := restState (rest.map Entry.uncommit) } := by
  rw [retireHead_cons o hq]
  have m := marks_retireEffects e o (s.headless rest)
  exact ⟨m.queue, m.axis⟩

/-- R42: an immediate stop, the queue in order: nothing is left of the queue, and the axis has no speed. -/
theorem orderStop_immediate {s : State} (order : QueueInOrder s) :
    (orderStop .immediate s).queue = [] ∧ (orderStop .immediate s).axis.state = .idle ∧
      (s.runningHead.isSome = true → (orderStop .immediate s).axis.speed = 0) := by
  obtain ⟨heads, empty, _⟩ := order
  unfold orderStop
  cases hr : s.runningHead with
  | none =>
    obtain ⟨hq, ha⟩ := flushBehind_of_not_running hr
    refine ⟨hq, ?_, by simp⟩
    rw [ha]
    split
    · rename_i h; exact empty h
    · rfl
  | some e =>
    obtain ⟨rest, hq, _⟩ := runningHead_eq_some.1 hr
    obtain ⟨hq', ha'⟩ := retireHead_queue_axis .stopped hq
    have waits := heads.tail_uncommit hq
    have none_runs : (retireHead .stopped s).runningHead = none := by
      rw [runningHead_eq_none, hq']
      intro x hx
      rw [waits x (List.mem_of_mem_head? hx)]
      simp
    obtain ⟨hq'', ha''⟩ := flushBehind_of_not_running none_runs
    refine ⟨hq'', ?_, fun _ => ?_⟩
    · rw [ha'', ha', hq']
      split
      · rename_i h; rw [h]; rfl
      · rfl
    · rw [ha'', ha']
      split <;> rfl

theorem brake_above {c : BrakeCause} {r : Nat} {e : Entry} {s : State} (fast : s.baseUnits < s.axis.speed) :
    (brake c r e s).queue = s.queue ∧ (brake c r e s).axis = { s.axis with
      state := .braking, braking := c, brakeRate := r, blend := none, committed := true, found := false } := by
  rw [brake, if_neg (by omega)]
  exact ⟨rfl, rfl⟩

theorem brake_below {c : BrakeCause} {r : Nat} {e : Entry} {s : State} (slow : s.axis.speed ≤ s.baseUnits) :
    brake c r e s = retireHead (brakeOutcome c e) s := if_pos slow

/-- R19, R41, R42: what a stop makes of a queue in order. -/
theorem stopMade_orderStop (k : StopKind) {s : State} (order : QueueInOrder s) : StopMade k s (orderStop k s) := by
  obtain ⟨imm₁, imm₂, imm₃⟩ := orderStop_immediate order
  refine ⟨?_, ?_, ?_⟩
  · rintro e he rfl
    obtain ⟨hq, ha⟩ := flushBehind_of_running he
    have hc : (flushBehind s).config = s.config := (stops_flushBehind s).config
    have base : (flushBehind s).baseUnits = s.config.baseSpeed.toNat * 65536 := by rw [State.baseUnits, hc]
    have ends : ∀ t, (t = retireHead .stopped (flushBehind s)) → t.queue = [] ∧ t.axis.state = .idle ∧ t.axis.speed = 0 := by
      rintro _ rfl
      obtain ⟨hq', ha'⟩ := retireHead_queue_axis .stopped hq
      rw [hq', ha']
      exact ⟨rfl, rfl, rfl⟩
    have stop : orderStop .decelerating s = decelerateHead e (flushBehind s) := by
      simp only [orderStop, Option.mem_def.1 he]
    rw [stop, decelerateHead, ha]
    refine ⟨fun hb => ?_, fun hm fast => ?_, fun hb slow => ?_⟩
    · rw [hb]; exact ⟨hq, by simp⟩
    · have rate : (flushBehind s).stopRateOf e = max e.decelRate (1000 * s.config.stopRate.toNat) := by
        rw [State.stopRateOf, hc]
      have above := brake_above (c := .stop) (r := (flushBehind s).stopRateOf e) (e := e) (s := flushBehind s)
        (by rw [ha, base]; exact fast)
      rw [hq, ha, rate] at above
      rcases hm with h | h | h <;> rw [h, rate] <;> exact above
    · cases hst : s.axis.state with
      | braking => exact absurd hst hb
      | rampUp | cruise | rampDown =>
        refine ends _ (brake_below ?_)
        rw [ha, base]
        exact slow.resolve_right (by rw [hst]; simp)
      | idle | gated | dwell => exact ends _ rfl
  · rintro (rfl | none_runs)
    · exact ⟨imm₁, imm₂⟩
    · have stop : orderStop k s = flushBehind s := by
        unfold orderStop; rw [none_runs]
      obtain ⟨hq, ha⟩ := flushBehind_of_not_running none_runs
      rw [stop, ha]
      refine ⟨hq, ?_⟩
      split
      · rename_i h; exact order.2.1 h
      · rfl
  · rintro rfl; exact imm₃

/-- What a stop makes reads the queue, the axis and the configuration before it, the queue and the axis after it. -/
theorem StopMade.congr {k : StopKind} {s s' t t' : State} (h : StopMade k s' t') (hq : s'.queue = s.queue)
    (ha : s'.axis = s.axis) (hc : s'.config = s.config) (tq : t.queue = t'.queue) (ta : t.axis = t'.axis) :
    StopMade k s t := by
  simpa only [StopMade, State.runningHead, hq, ha, hc, tq, ta] using h

/-! ### The entry of a cause (R84, R94) -/

/-- The state but for what the entry of a cause changes. -/
def State.besidesCause (s : State) : State := { s.besidesStop with faults := .empty, ownHalt := .clear }

theorem Offers.faults {s t : State} (h : Offers s t) : t.faults = s.faults := (congrArg State.faults h.same :)

theorem Stops.besidesCause {s t : State} (h : Stops s t) : t.besidesCause = s.besidesCause :=
  (congrArg State.besidesCause h.same :)

theorem Offers.besidesCause {s t : State} (h : Offers s t) : t.besidesCause = s.besidesCause :=
  (congrArg State.besidesCause h.same :)

/-- R84: what the entry of a cause into the fault set comes to. -/
structure Enters (c : Cause) (s t : State) : Prop where
  faults : t.faults = s.faults.put c true
  told : s.notices.length < 16 → s.notices ++ [.fault c s.command] <+: t.notices
  notices : s.notices <+: t.notices
  unraised : propagates s.config c = false ∨ s.ownHalt.raised = true → t.ownHalt = s.ownHalt
  raised : propagates s.config c = true → s.ownHalt.raised = false →
    t.ownHalt.raised = true ∧ t.ownHalt.reason = c.code ∧ t.ownHalt.kind = .immediate ∧ t.ownHalt.how = .cause
  same : t.besidesCause = s.besidesCause
  stop : ∃ u, t.queue = (orderStop (stopKindOf s.config c) u).queue ∧
    t.axis = (orderStop (stopKindOf s.config c) u).axis ∧ u.queue = s.queue ∧ u.axis = s.axis ∧ u.config = s.config

theorem offers_announceHalt_ownHalt (s : State) :
    { (announceHalt s).ownHalt with owed := .none } = { s.ownHalt with owed := Owed.none } :=
  (congrArg State.ownHalt (offers_announceHalt s).same :)

theorem raiseCause_enters {c : Cause} {s : State} (new : s.faults.has c = false) : Enters c s (raiseCause c s) := by
  set u : State := notify (.fault c s.command) { s with faults := s.faults.put c true } with hu
  set v := orderStop (stopKindOf s.config c) u with hv
  have frames : Frames { s with faults := s.faults.put c true } u := frames_notify _ _
  have stops : Stops u v := stops_orderStop _ _
  have entered : raiseCause c s = raiseByCause c v := by rw [raiseCause, if_neg (by simp [new])]
  have both := frames.stops.trans stops
  have hconf : v.config = s.config := both.config
  have hhalt : v.ownHalt = s.ownHalt := both.ownHalt
  have hfaults : v.faults = s.faults.put c true := both.faults
  have hsame : v.besidesCause = s.besidesCause := both.besidesCause
  have told (room : s.notices.length < 16) : s.notices ++ [.fault c s.command] <+: v.notices := by
    rw [← notify_notices_of_room (s := { s with faults := s.faults.put c true }) room]
    exact stops.notices
  have keeps : s.notices <+: v.notices := frames.notices.trans stops.notices
  have stop : ∃ u', v.queue = (orderStop (stopKindOf s.config c) u').queue ∧
      v.axis = (orderStop (stopKindOf s.config c) u').axis ∧ u'.queue = s.queue ∧ u'.axis = s.axis ∧
        u'.config = s.config := ⟨u, rfl, rfl, frames.marks.queue, frames.marks.axis, frames.marks.config⟩
  rw [entered]
  clear_value v
  by_cases raise : propagates s.config c = true ∧ s.ownHalt.raised = false
  · obtain ⟨prop, clear⟩ := raise
    have announced : raiseByCause c v = announceHalt { v with
        ownHalt := { v.ownHalt with raised := true, reason := c.code, kind := .immediate, how := .cause } } := by
      rw [raiseByCause, hconf, hhalt, if_pos (by simp [prop, clear])]
    rw [announced]
    set w : State := { v with
      ownHalt := { v.ownHalt with raised := true, reason := c.code, kind := .immediate, how := .cause } }
    have offers := offers_announceHalt w
    have halt := offers_announceHalt_ownHalt w
    refine ⟨?_, fun room => offers.notices ▸ told room, offers.notices ▸ keeps, ?_, fun _ _ => ?_, ?_, ?_⟩
    · exact offers.faults.trans hfaults
    · rintro (h | h)
      · rw [h] at prop; cases prop
      · rw [h] at clear; cases clear
    · exact ⟨(congrArg OwnHalt.raised halt :), (congrArg OwnHalt.reason halt :), (congrArg OwnHalt.kind halt :),
        (congrArg OwnHalt.how halt :)⟩
    · exact offers.besidesCause.trans hsame
    · obtain ⟨u', hq, ha, rest⟩ := stop
      exact ⟨u', offers.marks.queue.trans hq, offers.marks.axis.trans ha, rest⟩
  · have same : raiseByCause c v = v := by
      rw [raiseByCause, hconf, hhalt, if_neg]
      simpa using raise
    rw [same]
    exact ⟨hfaults, told, keeps, fun _ => hhalt, fun h k => absurd ⟨h, k⟩ raise, hsame, stop⟩

theorem Enters.stopMade {c : Cause} {s t : State} (h : Enters c s t) (order : QueueInOrder s) :
    StopMade (stopKindOf s.config c) s t := by
  obtain ⟨u, hq, ha, uq, ua, uc⟩ := h.stop
  have ordered : QueueInOrder u :=
    (queueInOrder_iff u).2 (((queueInOrder_iff s).1 order).of_same uq (by rw [ua]))
  exact (stopMade_orderStop _ ordered).congr uq ua uc hq ha

/-- R84: FAULT is the first notice. -/
theorem Enters.toldFirst {c : Cause} {s t : State} (h : Enters c s t) (room : s.notices.length < 16) :
    (t.notices.drop s.notices.length).head? = some (.fault c s.command) := by
  obtain ⟨more, all⟩ := h.told room
  rw [← all, List.append_assoc, List.drop_left]
  rfl

/-- R94: a propagating cause leaves the own halt raised, by it where it was clear. -/
theorem Enters.raises {c : Cause} {s t : State} (h : Enters c s t) (mask : propagates s.config c = true) :
    t.ownHalt.raised = true ∧ (s.ownHalt.raised = false →
      t.ownHalt.reason = c.code ∧ t.ownHalt.kind = .immediate ∧ t.ownHalt.how = .cause) := by
  cases clear : s.ownHalt.raised with
  | true => exact ⟨(congrArg OwnHalt.raised (h.unraised (.inr clear))).trans clear, fun h => nomatch h⟩
  | false => exact ⟨(h.raised mask clear).1, fun _ => (h.raised mask clear).2⟩

theorem raiseCause_of_present {c : Cause} {s : State} (present : s.faults.has c = true) : raiseCause c s = s :=
  if_pos present

theorem put_of_has {f : FaultSet} {c : Cause} (h : f.has c = true) : f.put c true = f := by
  obtain ⟨_, _, _, _, _, _, _⟩ := f
  cases c <;> simp_all [FaultSet.has, FaultSet.put]

/-! ### An evaluation that starts nothing (R11) -/

/-- Of the events handed on at most an evaluation of the head waits. -/
def OnlyEvaluates (s : State) : Prop := { s.handed with evaluate := false } = Handed.empty

theorem onlyEvaluates_of_atRest {s : State} (h : AtRest s) : OnlyEvaluates s := by
  rw [OnlyEvaluates, h]; rfl

/-- What waits is taken, and nothing starts. -/
theorem settle_of_onlyEvaluates {s : State} (only : OnlyEvaluates s) (stays : HeadStays s) :
    settle s = { s with handed := .empty } := by
  have calm : AtRest { s with handed := .empty } := rfl
  cases he : s.handed.evaluate with
  | false =>
    have rest : AtRest s := by
      show s.handed = .empty
      rw [← only, ← he]
    rw [settle_of_atRest rest, ← rest]
  | true =>
    have due : s = handEvaluate { s with handed := .empty } := by
      show s = { s with handed := { Handed.empty with evaluate := true } }
      rw [← only, ← he]
    rw [due]
    exact settle_handEvaluate_of_headStays calm stays

theorem headStays_of_nil {s : State} (h : s.queue = []) : HeadStays s := by simp [HeadStays, h]

theorem headStays_of_offline {s : State} (h : s.lifecycle ≠ .online) : HeadStays s := fun _ _ _ => .inl h

theorem Enters.onlyEvaluates {c : Cause} {s t : State} (h : Enters c s t) (atRest : AtRest s) : OnlyEvaluates t := by
  have same : { t.handed with evaluate := false } = { s.handed with evaluate := false } :=
    (congrArg State.handed h.same :)
  exact same.trans (onlyEvaluates_of_atRest atRest)

end Sys2Proof.Machine

/-! PROOFS. The resets (R104, R158) and JOIN (R155). -/

namespace Sys2Proof.Machine

/-! ### HARD_RESET -/

theorem getD_rosterOf (k n : Station) :
    (rosterOf k).getD n.val (.blank .absent) = .blank (if n = k then .self else .absent) := by
  rw [rosterOf, List.getD_eq_getElem?_getD, List.getElem?_map, List.getElem?_range n.isLt]
  simp only [Option.map_some, Option.getD_some, Fin.ext_iff]

/-- Settles O3. -/
theorem hardResetClearsThePart : Obligations.HardResetClearsThePart := by
  intro s straps
  refine ⟨_, rfl, rfl, rfl, rfl, rfl, rfl, rfl, rfl, rfl, rfl, rfl, rfl, rfl, rfl, rfl, rfl, ?watches, ?captures,
    ?reactions, rfl, ?inputs, rfl, rfl, rfl, rfl, ?halts, rfl, rfl, rfl, rfl, rfl, rfl, rfl, rfl, rfl, rfl, rfl, rfl,
    ?roster, rfl, rfl, rfl, rfl, rfl, rfl, rfl, rfl⟩
  case watches => exact fun w hw => List.eq_of_mem_replicate hw
  case captures =>
    intro c hc
    rw [List.eq_of_mem_replicate hc]
    exact ⟨rfl, rfl, rfl, rfl, rfl, rfl, rfl⟩
  case reactions =>
    intro r hr
    rw [List.eq_of_mem_replicate hr]
    exact ⟨rfl, rfl, rfl, rfl⟩
  case inputs => intro i _; cases i <;> rfl
  case halts => exact fun h hh => List.eq_of_mem_replicate hh
  case roster => exact getD_rosterOf straps.number

/-! ### RESTART -/

/-- R94: the own halt as a cause leaves it, a clear one raised where the cause propagates, with nothing left owed. -/
def OwnHalt.raisedBy (h : OwnHalt) (may : Bool) (c : Cause) : OwnHalt :=
  if may && !h.raised then { raised := true, reason := c.code, kind := .immediate, how := .cause, owed := .none } else h

/-- R97: off the line with no frame held, an announcement leaves nothing owed. -/
theorem announceHalt_of_bare {s : State} (closed : s.canSend = false) (bare : s.outbound = []) :
    announceHalt s = { s with ownHalt := { s.ownHalt with owed := .none } } := by
  have update : updatePresence s.ownHalt.into s = s := by simp [updatePresence, bare]
  unfold announceHalt
  rw [update]
  unfold askOwed
  have shut (h : OwnHalt) : ¬ { s with ownHalt := h }.canSend = true := Bool.eq_false_iff.mp closed
  by_cases raised : s.ownHalt.raised = true
  · simp only [raised, if_true, owedPayload, if_neg (shut _)]
  · simp only [raised, if_false, owedPayload, if_neg (shut _), Bool.false_eq_true]

/-- R84: a cause enters off the line with nothing queued and no frame held. -/
theorem raiseCause_of_bare {c : Cause} {s : State} (new : s.faults.has c = false) (empty : s.queue = [])
    (closed : s.canSend = false) (bare : s.outbound = []) (room : s.notices.length < 16) :
    raiseCause c s = { s with
      faults := s.faults.put c true, notices := s.notices ++ [.fault c s.command]
      ownHalt := s.ownHalt.raisedBy (propagates s.config c) c } := by
  rw [raiseCause, if_neg (by simp [new]), notify_of_room (s := { s with faults := s.faults.put c true }) room]
  set t : State := { s with faults := s.faults.put c true, notices := s.notices ++ [.fault c s.command] } with ht
  have stop (k : StopKind) : orderStop k t = t := by
    have none_runs : t.runningHead = none := by simp [State.runningHead, t, empty]
    simp only [orderStop, none_runs, flushBehind, show t.queue = [] from empty]
  show raiseByCause c (orderStop _ t) = _
  rw [stop]
  unfold raiseByCause OwnHalt.raisedBy
  by_cases raise : (propagates s.config c && !s.ownHalt.raised) = true
  · rw [if_pos raise, if_pos (show (propagates t.config c && !t.ownHalt.raised) = true from raise)]
    exact announceHalt_of_bare (s := { t with ownHalt := { t.ownHalt with raised := true, reason := c.code, kind := .immediate, how := .cause } }) closed bare
  · rw [if_neg raise, if_neg (show ¬ (propagates t.config c && !t.ownHalt.raised) = true from raise)]

theorem exec_restart (straps : Straps) {s : State} (awaits : s.awaitsCommand = true) :
    exec (.restart straps) s = .next (settle (restart straps (respond .ok [] s))) := by
  show execRestart straps s = _
  unfold execRestart
  rw [onPort_of_awaits awaits]

/-- R104: the fault set, the notices and the own halt that the two inputs held Active at a RESTART give. -/
theorem restart_eq (straps : Straps) (s : State) :
    restart straps s = { restartCleared straps s with
      faults := { FaultSet.empty with estop := s.inputActive .estop, drvflt := s.inputActive .drvflt }
      notices := (if s.inputActive .estop then [Notice.fault .estop 0] else []) ++
        (if s.inputActive .drvflt then [Notice.fault .drvflt 0] else [])
      ownHalt := (OwnHalt.clear.raisedBy (s.inputActive .estop && s.config.propagate.getLsbD 0) .estop).raisedBy
        (s.inputActive .drvflt && s.config.propagate.getLsbD 1) .drvflt } := by
  set r := restartCleared straps s with hr
  have closed : r.canSend = false := rfl
  have first : refill .estop .estop r = { r with
      faults := { FaultSet.empty with estop := s.inputActive .estop }
      notices := if s.inputActive .estop then [Notice.fault .estop 0] else []
      ownHalt := OwnHalt.clear.raisedBy (s.inputActive .estop && s.config.propagate.getLsbD 0) .estop } := by
    unfold refill
    rw [show r.inputActive .estop = s.inputActive .estop from rfl]
    cases active : s.inputActive .estop with
    | true =>
      rw [if_pos rfl, raiseCause_of_bare (s := r) rfl rfl closed rfl (show 0 < 16 by decide)]
      rfl
    | false => rfl
  unfold restart
  rw [first]
  set t : State := { r with
    faults := { FaultSet.empty with estop := s.inputActive .estop }
    notices := if s.inputActive .estop then [Notice.fault .estop 0] else []
    ownHalt := OwnHalt.clear.raisedBy (s.inputActive .estop && s.config.propagate.getLsbD 0) .estop } with ht
  have room : t.notices.length < 16 := by
    show (if _ then _ else _ : List Notice).length < 16
    split <;> decide
  unfold refill
  rw [show t.inputActive .drvflt = s.inputActive .drvflt from rfl]
  cases active : s.inputActive .drvflt with
  | true =>
    rw [if_pos rfl, raiseCause_of_bare (s := t) rfl rfl closed rfl room]
    rfl
  | false => simp [t, OwnHalt.raisedBy, FaultSet.empty]

/-- Settles O4: nothing is queued and no frame is held when the two causes enter. -/
theorem restartRefillsTheFaultSet : Obligations.RestartRefillsTheFaultSet := by
  intro s straps awaits
  refine ⟨_, exec_restart straps awaits, ?_⟩
  rw [restart_eq, settle_of_atRest rfl]
  refine ⟨rfl, rfl, rfl, rfl, rfl, rfl, rfl, rfl, rfl, rfl, rfl, rfl, ?watches, ?captures, ?reactions, rfl, rfl, rfl, rfl,
    ?halts, rfl, rfl, rfl, rfl, rfl, rfl, ?roster, rfl, rfl, rfl, ?raised, rfl⟩
  case watches => intro w hw; rw [List.eq_of_mem_replicate hw]; rfl
  case captures => intro c hc; rw [List.eq_of_mem_replicate hc]; exact ⟨rfl, rfl⟩
  case reactions => intro r hr; rw [List.eq_of_mem_replicate hr]; exact ⟨rfl, rfl⟩
  case halts => exact fun h hh => List.eq_of_mem_replicate hh
  case roster => exact getD_rosterOf straps.number
  case raised =>
    show OwnHalt.raised (OwnHalt.raisedBy (OwnHalt.raisedBy _ (s.inputActive .estop && _) _) (s.inputActive .drvflt && _) _) = _
    simp only [OwnHalt.raisedBy, OwnHalt.clear]
    show _ = ((s.inputActive .estop && s.config.propagate.getLsbD 0) ||
      (s.inputActive .drvflt && s.config.propagate.getLsbD 1))
    have config : (respond .ok [] s).config = s.config := rfl
    rw [config]
    cases s.inputActive .estop && s.config.propagate.getLsbD 0 <;>
      cases s.inputActive .drvflt && s.config.propagate.getLsbD 1 <;> rfl

/-! ### JOIN, and what is refused (R154, R155, R188) -/

/-- R113: a pick changes the transmitter and its pick alone. -/
theorem setReference_eq (gone : Nat) (s : State) : ∃ x p, setReference gone s = { s with
    lif := { s.lif with
      dominant := false, idle := gone, quiet := gone, roundDone := false, transmitter := x, picked := p }
    bitPhase := 0 } := by
  obtain ⟨x, p, h⟩ := pick_eq { s with
    lif := { s.lif with dominant := false, idle := gone, quiet := gone, roundDone := false }, bitPhase := 0 }
  exact ⟨x, p, h⟩

/-- R109: the receiver leaves Off and hunts, its counts at 0. -/
theorem leaveOff_eq (s : State) : ∃ l b, leaveOff s = { s with lif := l, bitPhase := b } ∧ l.receiver = .hunting ∧
    l.idle = 0 ∧ l.quiet = 0 ∧ l.dominant = s.lif.dominant := by
  unfold leaveOff
  split
  · exact ⟨_, s.bitPhase, rfl, rfl, rfl, rfl, rfl⟩
  · rename_i recessive
    obtain ⟨x, p, h⟩ := setReference_eq 0 { s with lif := { s.lif with receiver := .hunting, reception := none } }
    exact ⟨_, 0, h, rfl, rfl, rfl, by simpa using recessive⟩

theorem exec_join_of_configured {s : State} (awaits : s.awaitsCommand = true) (h : s.lifecycle = .configured) :
    exec .join s = .next (respond .ok [] (join s)) := by
  unfold exec execJoin
  rw [onPort_of_awaits awaits, if_pos h]

theorem exec_writeConfig {s : State} (awaits : s.awaitsCommand = true) (block : List Byte) :
    exec (.writeConfig block) s = .next (settle (writeConfig block s)) := by
  show execWriteConfig block s = _
  unfold execWriteConfig
  rw [onPort_of_awaits awaits]

/-- Settles O5. -/
theorem joinStartsListeningAndOthersAreRefused : Obligations.JoinStartsListeningAndOthersAreRefused := by
  intro s awaits
  refine ⟨fun configured => ⟨_, exec_join_of_configured awaits configured, ?_⟩, fun h => ?_, fun h₁ h₂ => ?_,
    fun atRest h₁ h₂ block => ?_⟩
  · obtain ⟨l, b, h, hunting, idle, quiet, dominant⟩ := leaveOff_eq
      { s with lifecycle := .listening, listenTimer := ms (20 * s.config.presencePeriod.toNat) }
    rw [join, h]
    exact ⟨rfl, rfl, hunting, idle, quiet, dominant, rfl, rfl⟩
  · unfold exec execJoin
    rw [onPort_of_awaits awaits, if_neg h]
  · unfold exec execLeave
    rw [onPort_of_awaits awaits, if_neg (by simp [State.onLine, h₁, h₂])]
  · rw [exec_writeConfig awaits, writeConfig, if_neg (by simp [h₁, h₂])]
    exact congrArg Host.Outcome.next (settle_of_atRest atRest)

end Sys2Proof.Machine

/-! PROOFS. Off the line with an empty queue: what taking events and dropping frames can still change; and LEAVE (R157). -/

namespace Sys2Proof.Machine

-- One thread for the many small proofs of this part: each default proof waits for the declarations before it.
set_option Elab.async false

/-! ### What is left to change (R51, R58, R139) -/

/-- The state without the tables that events and dropped frames still reach when no segment is held and no frame may be
sent. -/
def State.besidesTables (s : State) : State :=
  { s with
    watches := [], captures := [], reactions := [], emissions := [], ownHalt := .clear, outbound := [], posts := []
    notices := [], lost := 0, handed := .empty }

/-- Off the line with an empty queue, t is s but for those tables. -/
def Unloads (s t : State) : Prop := s.queue = [] → s.canSend = false → t.besidesTables = s.besidesTables

theorem Unloads.refl (s : State) : Unloads s s := fun _ _ => rfl

theorem Unloads.trans {s t u : State} (h : Unloads s t) (k : Unloads t u) : Unloads s u := fun empty closed =>
  have same := h empty closed
  (k ((congrArg State.queue same :).trans empty) ((congrArg State.canSend same :).trans closed)).trans same

theorem Unloads.of_same {s t : State} (h : t.besidesTables = s.besidesTables := by rfl) : Unloads s t := fun _ _ => h

theorem Unloads.ite {s t u : State} {c : Prop} [Decidable c] (h : Unloads s t) (k : Unloads s u) :
    Unloads s (if c then t else u) := by split <;> assumption

theorem Unloads.foldl {α : Type} (f : State → α → State) (h : ∀ s a, Unloads s (f s a)) (l : List α) (s : State) :
    Unloads s (l.foldl f s) := by
  induction l generalizing s with
  | nil => exact .refl s
  | cons a l ih => rw [List.foldl_cons]; exact (h s a).trans (ih _)

theorem unloads_notify (n : Notice) (s : State) : Unloads s (notify n s) := by
  unfold notify
  exact .ite .of_same .of_same

theorem unloads_handGateChange (p : Gate → Bool) (s : State) : Unloads s (handGateChange p s) := .ite .of_same (.refl s)

theorem unloads_requestMark (m : Mark) (p : Option Position) (o : EmitOrigin) (i : Byte) (s : State) :
    Unloads s (requestMark m p o i s) := by
  intro empty closed
  unfold requestMark
  rw [if_neg (Bool.eq_false_iff.mp closed)]
  exact ((unloads_notify _ s).trans .of_same) empty closed

theorem unloads_requestMark? (m : Option Mark) (o : EmitOrigin) (i : Byte) (s : State) :
    Unloads s (requestMark? m o i s) := by
  cases m with
  | none => exact .refl s
  | some m => exact unloads_requestMark m _ o i s

theorem takeCut_of_empty {s : State} (empty : s.queue = []) : takeCut s = s := by
  simp [takeCut, State.runningHead, empty]

theorem evaluateHead_of_empty (watch : WatchTake) {s : State} (empty : s.queue = []) : evaluateHead watch s = s := by
  simp [evaluateHead, empty]

theorem orderStop_of_empty (k : StopKind) {s : State} (empty : s.queue = []) : orderStop k s = s := by
  have none_runs : s.runningHead = none := by simp [State.runningHead, empty]
  simp only [orderStop, none_runs, flushBehind, empty]

theorem unloads_hitWatch (w : Fin 4) (r : Watch) (s : State) : Unloads s (hitWatch w r s) := by
  have cut (u : State) : Unloads u (if r.cutOnHit then takeCut u else u) :=
    .ite (fun empty _ => by rw [takeCut_of_empty empty]) (.refl u)
  refine Unloads.trans ?_ (unloads_handGateChange _ _)
  unfold hitEffects
  exact Unloads.trans (t := { s with watches := s.watches.set w.val { r with state := .hit } }) .of_same
    ((unloads_notify _ _).trans ((unloads_requestMark? _ _ _ _).trans (cut _)))

theorem unloads_evaluateHead (watch : WatchTake) (s : State) : Unloads s (evaluateHead watch s) := fun empty _ => by
  rw [evaluateHead_of_empty watch empty]

theorem unloads_evaluateWithin (n : Nat) (s : State) : Unloads s (evaluateWithin n s) := by
  induction n generalizing s with
  | zero => exact .refl s
  | succ n ih => exact .ite (Unloads.trans .of_same ((unloads_evaluateHead _ _).trans (ih _))) (.refl s)

theorem unloads_compareWatch (x : WatchSource) (p : Position) (s : State) (w : Fin 4) :
    Unloads s (compareWatch x p s w) :=
  .ite (.ite ((unloads_hitWatch w _ s).trans (unloads_evaluateWithin _ _)) .of_same) (.refl s)

theorem unloads_takeRequest (q : Request) (s : State) : Unloads s (takeRequest q s) := by
  unfold takeRequest
  split
  · exact unloads_handGateChange _ s
  · exact fun empty _ => by rw [takeCut_of_empty empty]
  · unfold trigger
    exact .ite .of_same (Unloads.trans .of_same (unloads_notify _ _))
  · exact unloads_requestMark _ _ _ _ s
  · exact (unloads_notify _ s).trans fun empty _ => by rw [orderStop_of_empty _ empty]

theorem unloads_takeHanded (s : State) : Unloads s (takeHanded s) := by
  unfold takeHanded
  split
  · exact Unloads.trans .of_same (.foldl _ (unloads_compareWatch _ _) _ _)
  · refine .ite (Unloads.trans .of_same (unloads_evaluateHead _ _)) ?_
    split
    · exact Unloads.trans .of_same (unloads_takeRequest _ _)
    · split
      · exact .of_same
      · exact .refl s

theorem unloads_settleWithin (n : Nat) (s : State) : Unloads s (settleWithin n s) := by
  induction n generalizing s with
  | zero => exact .refl s
  | succ n ih => exact .ite ((unloads_takeHanded s).trans (ih _)) (.refl s)

theorem unloads_settle (s : State) : Unloads s (settle s) := unloads_settleWithin _ s

/-! ### Frames and posts dropped (R138, R139, R180) -/

/-- Two steps that unload and leave nothing handed on that was not. -/
structure Drops (s t : State) : Prop where
  unloads : Unloads s t
  atRest : AtRest s → AtRest t

theorem Drops.refl (s : State) : Drops s s := ⟨.refl s, id⟩

theorem Drops.trans {s t u : State} (h : Drops s t) (k : Drops t u) : Drops s u :=
  ⟨h.unloads.trans k.unloads, k.atRest ∘ h.atRest⟩

theorem Drops.of_same {s t : State} (h : t.besidesTables = s.besidesTables := by rfl)
    (k : t.handed = s.handed := by rfl) : Drops s t := ⟨.of_same h, fun r => k.trans r⟩

theorem drops_notify (n : Notice) (s : State) : Drops s (notify n s) :=
  ⟨unloads_notify n s, fun r => (frames_notify n s).handed.trans r⟩

theorem drops_losePosts (p : PostEntry → Bool) (r : LostReason) (s : State) : Drops s (losePosts p r s) := by
  have fold (l : List PostEntry) (s : State) :
      Drops s (l.foldl (fun s e => notify (.postLost e.dest e.sequence e.tag r) s) s) := by
    induction l generalizing s with
    | nil => exact .refl s
    | cons e l ih => rw [List.foldl_cons]; exact (drops_notify _ s).trans (ih _)
  unfold losePosts
  exact Drops.trans .of_same (fold _ _)

theorem drops_dropEmission (id : Nat) (s : State) : Drops s (dropEmission id s) := by
  unfold dropEmission
  split
  · refine ⟨Unloads.trans ?_ (unloads_settle _), fun _ => atRest_settle _⟩
    exact Unloads.trans (t := { s with emissions := s.emissions.filter fun e => e.frame != id }) .of_same
      ((unloads_notify _ _).trans .of_same)
  · exact .refl s

theorem drops_dropFrame (why : Emptying) (s : State) (f : OutFrame) : Drops s (dropFrame why s f) := by
  unfold dropFrame
  refine Drops.trans (t := { s with outbound := s.outbound.filter fun g => g.id != f.id }) .of_same ?_
  split
  · exact drops_dropEmission _ _
  · cases why
    · exact drops_losePosts _ _ _
    · exact .of_same
  · split
    · exact drops_notify _ _
    · exact .refl _
  · exact .of_same
  · exact .of_same
  · exact .refl _

theorem drops_emptyWithin (why : Emptying) (n : Nat) (s : State) : Drops s (emptyWithin why n s) := by
  induction n generalizing s with
  | zero => exact .refl s
  | succ n ih =>
    unfold emptyWithin
    split
    · exact (drops_dropFrame why s _).trans (ih _)
    · exact .refl s

/-! ### A stop off the line (R41, R42) -/

theorem answerPeer_of_closed {s : State} (closed : s.canSend = false) (n : Station) (q : Seq) (k : AnswerKind)
    (tag : Byte) : answerPeer n q k tag s = notify (.answerDropped tag n q k) s := by
  rw [answerPeer, admission_of_closed _ _ closed]

theorem notify_eq (n : Notice) (s : State) :
    notify n s = { s with notices := (notify n s).notices, lost := (notify n s).lost } := by
  unfold notify
  split <;> rfl

/-- R132: while no frame may be sent, the step touches neither the transmitter nor what closes the Outbound Queue. -/
def Hushed (s t : State) : Prop := s.canSend = false → t.lif = s.lif ∧ t.canSend = false

theorem Hushed.refl (s : State) : Hushed s s := fun closed => ⟨rfl, closed⟩

theorem Hushed.trans {s t u : State} (h : Hushed s t) (k : Hushed t u) : Hushed s u := fun closed =>
  have ⟨lif, shut⟩ := h closed
  ⟨(k shut).1.trans lif, (k shut).2⟩

theorem Hushed.of_same {s t : State} (h : t.lif = s.lif := by rfl) (k : t.canSend = s.canSend := by rfl) :
    Hushed s t := fun closed => ⟨h, k.trans closed⟩

theorem hushed_notify (n : Notice) (s : State) : Hushed s (notify n s) := fun closed => by
  rw [notify_eq]
  exact ⟨rfl, closed⟩

theorem hushed_retireEffects {o : Retirement} (ho : o = .stopped ∨ o = .flushed) (e : Entry) (s : State) :
    Hushed s (retireEffects e o s) := by
  have answered (u : State) : Hushed u (match e.origin with
      | .localPort => u
      | .peer n q => answerPeer n q (.finished o) e.segment.tag u) := by
    split
    · exact .refl u
    · exact fun closed => by rw [answerPeer_of_closed closed]; exact hushed_notify _ u closed
  rcases ho with rfl | rfl <;> exact (hushed_notify _ s).trans (answered _)

theorem hushed_flushEntries (es : List Entry) (s : State) : Hushed s (flushEntries es s) := by
  unfold flushEntries
  induction es generalizing s with
  | nil => exact .refl s
  | cons e es ih => rw [List.foldl_cons]; exact (hushed_retireEffects (.inr rfl) e s).trans (ih _)

theorem hushed_flushBehind (s : State) : Hushed s (flushBehind s) := by
  unfold flushBehind
  split
  · split
    · exact Hushed.trans .of_same (hushed_flushEntries _ _)
    · exact Hushed.trans .of_same (hushed_flushEntries _ _)
  · exact .refl s

theorem hushed_retireHead (s : State) : Hushed s (retireHead .stopped s) := by
  rcases hq : s.queue with _ | ⟨e, rest⟩
  · rw [retireHead_nil _ hq]
    exact .refl s
  · rw [retireHead_cons _ hq]
    exact fun closed => hushed_retireEffects (.inl rfl) e (s.headless rest) closed

theorem hushed_orderStop_immediate (s : State) : Hushed s (orderStop .immediate s) := by
  unfold orderStop
  split
  · exact hushed_flushBehind s
  · exact (hushed_retireHead s).trans (hushed_flushBehind _)
  · rename_i h; cases h

/-! ### Notices in a row (R190) -/

/-- The notices join the tail in order. -/
def notifyAll (l : List Notice) (s : State) : State := l.foldl (fun s n => notify n s) s

theorem notifyAll_cons (n : Notice) (l : List Notice) (s : State) :
    notifyAll (n :: l) s = notifyAll l (notify n s) := rfl

theorem notifyAll_eq (l : List Notice) (s : State) :
    notifyAll l s = { s with notices := (notifyAll l s).notices, lost := (notifyAll l s).lost } := by
  induction l generalizing s with
  | nil => rfl
  | cons n l ih =>
    rw [notifyAll_cons, ih (notify n s), notify_eq n s]

theorem notifyAll_notices {l : List Notice} {s : State} (room : (notifyAll l s).notices.length < 16) :
    (notifyAll l s).notices = s.notices ++ l := by
  induction l generalizing s with
  | nil => exact (List.append_nil _).symm
  | cons n l ih =>
    rw [notifyAll_cons] at room ⊢
    have all := ih room
    rw [all, List.length_append] at room
    rw [all]
    by_cases h : s.notices.length < 16
    · rw [notify_notices_of_room h, List.append_assoc, List.singleton_append]
    · rw [notify_notices_of_full (Nat.le_of_not_lt h)] at room
      omega

theorem losePosts_eq (p : PostEntry → Bool) (r : LostReason) (s : State) :
    losePosts p r s = notifyAll ((s.posts.filter p).map fun e => .postLost e.dest e.sequence e.tag r)
      { s with posts := s.posts.filter fun e => !p e } := by
  rw [losePosts, notifyAll, List.foldl_map]

/-- R7, R176: the refusals of the POSTs handed on, as notices of a part that has left Online. -/
def droppedAnswers (mask : BitVec 32) (posted : List HandedPost) : List Notice :=
  posted.map fun p => .answerDropped (byteAt p.segment 1) p.source p.sequence
    (.refused (if mask.getLsbD p.source.val then .state else .notPermitted))

theorem takePosted_of_left {s : State} (left : s.lifecycle ≠ .online) :
    takePosted s = notifyAll (droppedAnswers s.config.postMask s.posted) { s with posted := [] } := by
  have fold (l : List HandedPost) (t : State) (offline : t.lifecycle ≠ .online) :
      l.foldl (fun s p => takePost p.source p.sequence p.segment s) t =
        notifyAll (droppedAnswers t.config.postMask l) t := by
    induction l generalizing t with
    | nil => rfl
    | cons p l ih =>
      have told (n : Notice) : (notify n t).config = t.config ∧ (notify n t).lifecycle = t.lifecycle := by
        rw [notify_eq]
        exact ⟨rfl, rfl⟩
      rw [List.foldl_cons, takePost_of_left _ _ _ offline, ih _ (by rw [(told _).2]; exact offline), (told _).1]
      rfl
  exact fold s.posted { s with posted := [] } left

/-! ### LEAVE (R157) -/

/-- R157 step 1: the part is off the line, before its axis stops. -/
def State.offLine (s : State) : State :=
  { lineOff s with lifecycle := .configured, listenTimer := 0, presenceTimer := 0, closing := false }

theorem queueInOrder_offLine {s : State} (order : QueueInOrder s) : QueueInOrder s.offLine := order

/-- R157: once the axis has stopped off the line, the tables are emptied and nothing waits. -/
theorem leaveEmpties (s : State) (order : QueueInOrder s) :
    ∃ u, leave s = takePosted (clearStanding (clearRoster (clearHaltTable (zeroTallies u)))) ∧ AtRest u ∧
      u.outbound = [] ∧ u.posts = [] ∧ u.lif = s.offLine.lif ∧
      u.besidesTables = (orderStop .immediate s.offLine).besidesTables ∧ u.queue = [] ∧ u.axis.state = .idle := by
  set v := orderStop .immediate s.offLine with hv
  have stopped := orderStop_immediate (queueInOrder_offLine order)
  rw [← hv] at stopped
  have hush : v.lif = s.offLine.lif ∧ v.canSend = false := hushed_orderStop_immediate s.offLine rfl
  have settled : Unloads v (settle v) := unloads_settle v
  have drops : Drops (settle v) (losePosts (fun _ => true) .left (emptyOutbound .left (settle v))) :=
    (drops_emptyWithin _ _ _).trans (drops_losePosts _ _ _)
  set u := losePosts (fun _ => true) .left (emptyOutbound .left (settle v)) with hu
  have same := (settled.trans drops.unloads) stopped.1 hush.2
  have closed : (settle v).canSend = false :=
    (congrArg State.canSend (settled stopped.1 hush.2) :).trans hush.2
  refine ⟨u, rfl, drops.atRest (atRest_settle v), ?outbound, ?posts, (congrArg State.lif same :).trans hush.1, same,
    (congrArg State.queue same :).trans stopped.1, ?idle⟩
  case outbound =>
    rw [hu, losePosts_eq, notifyAll_eq]
    exact outbound_emptyOutbound .left (settle v) closed
  case posts =>
    rw [hu, losePosts_eq, notifyAll_eq]
    exact List.filter_false _
  case idle =>
    have axis : u.axis = v.axis := (congrArg State.axis same :)
    rw [axis]
    exact stopped.2.1

theorem clearStanding_eq (s : State) : ∃ n l, clearStanding s =
    { s with score := 0, recovery := 0, standing := .engaged, notices := n, lost := l } := by
  unfold clearStanding setStanding
  split
  · rename_i same
    exact ⟨s.notices, s.lost, by rw [same]⟩
  · exact ⟨_, _, notify_eq _ _⟩

/-- Settles O6: off the line nothing but the tables can change, and the rest of LEAVE clears them. -/
theorem leaveTakesTheStationOffTheLine : Obligations.LeaveTakesTheStationOffTheLine := by
  intro s awaits on order
  obtain ⟨u, left, atRest, outbound, posts, lif, tables, queue, idle⟩ := leaveEmpties s order
  have stops : Stops s.offLine (orderStop .immediate s.offLine) := stops_orderStop _ _
  have same : u.besidesTables.besidesStop = s.offLine.besidesTables.besidesStop :=
    (congrArg State.besidesStop tables).trans (congrArg State.besidesTables stops.same :)
  have lifecycle : u.lifecycle = .configured := (congrArg State.lifecycle same :)
  have offline : u.lifecycle ≠ .online := by simp [lifecycle]
  have config : u.config = s.config := (congrArg State.config same :)
  have posted : u.posted = s.posted := (congrArg State.posted same :)
  obtain ⟨n, l, cleared⟩ := clearStanding_eq (clearRoster (clearHaltTable (zeroTallies u)))
  rw [cleared, takePosted_of_left (by exact offline), notifyAll_eq] at left
  set told := notifyAll _ _ with htold
  refine ⟨respond .ok [] (leave s), ?_, ?_⟩
  · rw [exec_leave_of_onLine awaits on, settle_of_atRest]
    rw [left]
    exact atRest
  rw [left]
  refine ⟨lifecycle, (congrArg State.listenTimer same :), (congrArg State.presenceTimer same :), queue, idle, outbound,
    posts, ?tallies, rfl, rfl, rfl, rfl, fun h hh => List.eq_of_mem_replicate hh, ?roster, rfl, rfl, rfl,
    ?receiver, ?transmitter, ?flight, rfl, ?sequence, config, (congrArg State.station same :),
    (congrArg State.faults same :), (congrArg State.command same :), (congrArg State.measured same :),
    (congrArg State.inputs same :), rfl, rfl, ?notices⟩
  case tallies =>
    intro r hr
    obtain ⟨q, _, rfl⟩ := List.mem_map.mp hr
    exact ⟨rfl, rfl⟩
  case roster =>
    have station : u.station = s.station := (congrArg State.station same :)
    rw [← station]
    exact getD_rosterOf u.station
  case receiver => exact (congrArg Lif.receiver lif :)
  case transmitter => exact (congrArg Lif.transmitter lif :)
  case flight => exact (congrArg Lif.flight lif :)
  case sequence => exact (congrArg Lif.sequence lif :)
  case notices =>
    intro room
    have all : told.notices = n ++ droppedAnswers u.config.postMask u.posted := notifyAll_notices room
    show told.notices.drop (told.notices.length - _) = droppedAnswers s.config.postMask s.posted
    rw [all, config, posted, List.length_append, droppedAnswers, List.length_map, Nat.add_sub_cancel, List.drop_left]

end Sys2Proof.Machine

/-! PROOFS. WRITE_CONFIG (R188, R189): the block replaced, the inputs judged anew, the gap checked anew. -/

namespace Sys2Proof.Machine

/-! ### The block replaced (R188) -/

/-- R188: the state with the new block, before its effects. -/
def State.configured (c : ConfigBlock) (s : State) : State := { s with config := c, lifecycle := .configured }

theorem rejudgeAll_kept (old : ConfigBlock) (l : List Input) (s : State) : (l.foldl (rejudge old) s).kept = s.kept := by
  induction l generalizing s with
  | nil => rfl
  | cons i l ih =>
    rw [List.foldl_cons, ih]
    unfold rejudge
    split
    · rfl
    · exact inputChanged_kept i s

theorem encoderModeChanged_kept (old : ConfigBlock) (s : State) : (encoderModeChanged old s).kept = s.kept := by
  unfold encoderModeChanged
  split
  · rfl
  · exact (tame_settle _).kept.trans (tame_watchNow _ _).kept

theorem gapLimitChanged_kept (old : ConfigBlock) (s : State) : (gapLimitChanged old s).kept = s.kept := by
  unfold gapLimitChanged
  split
  · rfl
  · exact (tame_checkGap s).kept

theorem replaceConfig_kept (c : ConfigBlock) (s : State) : (replaceConfig c s).kept = (s.configured c).kept :=
  (gapLimitChanged_kept _ _).trans ((encoderModeChanged_kept _ _).trans (rejudgeAll_kept _ _ _))

theorem writeConfig_of_some {c : ConfigBlock} {block : List Byte} {s : State}
    (may : s.lifecycle = .unconfigured ∨ s.lifecycle = .configured) (h : configOfBytes block = some c) :
    writeConfig block s = respond .ok c.bytes (replaceConfig c s) := by
  have config : (replaceConfig c s).config = c := congrArg Kept.config (replaceConfig_kept c s)
  rw [writeConfig, if_pos may, h]
  show respondConfig .ok (replaceConfig c s) = _
  rw [respondConfig, config]

theorem exec_writeConfig_of_some {c : ConfigBlock} {block : List Byte} {s : State} (awaits : s.awaitsCommand = true)
    (may : s.lifecycle = .unconfigured ∨ s.lifecycle = .configured) (h : configOfBytes block = some c) :
    exec (.writeConfig block) s = .next (settle (respond .ok c.bytes (replaceConfig c s))) := by
  rw [exec_writeConfig awaits, writeConfig_of_some may h]

/-! ### The inputs judged anew (R189 step 1) -/

theorem rejudge_of_same {old : ConfigBlock} {s : State} {i : Input} (h : activeLevel old i = activeLevel s.config i) :
    rejudge old s i = s := if_pos h

theorem rejudgeAll_of_same {old : ConfigBlock} {s : State} {l : List Input}
    (h : ∀ i ∈ l, activeLevel old i = activeLevel s.config i) : l.foldl (rejudge old) s = s := by
  induction l with
  | nil => rfl
  | cons i l ih =>
    rw [List.foldl_cons, rejudge_of_same (h i List.mem_cons_self)]
    exact ih fun j hj => h j (List.mem_cons_of_mem i hj)

theorem inputChanged_config (i : Input) (s : State) : (inputChanged i s).config = s.config :=
  congrArg Kept.config (inputChanged_kept i s)

/-- R189: where one active level alone differs, that input alone is judged anew. -/
theorem rejudgeAll_of_one {old : ConfigBlock} {s : State} {i : Input} {l : List Input} (once : l.Nodup) (mem : i ∈ l)
    (h : ∀ j ∈ l, activeLevel old j = activeLevel s.config j ↔ j ≠ i) :
    l.foldl (rejudge old) s = inputChanged i s := by
  induction l with
  | nil => cases mem
  | cons j l ih =>
    obtain ⟨fresh, once⟩ := List.nodup_cons.mp once
    have rest (k : Input) (hk : k ∈ l) := h k (List.mem_cons_of_mem j hk)
    rw [List.foldl_cons]
    by_cases hj : j = i
    · subst hj
      have judged : rejudge old s j = inputChanged j s := if_neg fun same => (h j List.mem_cons_self).mp same rfl
      rw [judged]
      refine rejudgeAll_of_same fun k hk => ?_
      rw [inputChanged_config]
      exact (rest k hk).mpr fun hkj => fresh (hkj ▸ hk)
    · rw [rejudge_of_same ((h j List.mem_cons_self).mpr hj)]
      exact ih once ((List.mem_cons.mp mem).resolve_left (Ne.symm hj)) rest

theorem activeLevel_flip {old c : ConfigBlock} {i : Input} (flip : c.activeHigh = old.activeHigh ^^^ (1#7 <<< inputCode i))
    (j : Input) : activeLevel old j = activeLevel c j ↔ j ≠ i := by
  unfold activeLevel
  rw [flip, BitVec.getLsbD_xor]
  cases i <;> cases j <;> simp [inputCode]

/-! ### Effects that do not come (R189 steps 2 and 3) -/

theorem encoderModeChanged_of_same {old : ConfigBlock} {s : State} (h : s.config.encoder = old.encoder) :
    encoderModeChanged old s = s := if_pos h.symm

theorem gapLimitChanged_of_same {old : ConfigBlock} {s : State} (h : s.config.encoder = old.encoder)
    (k : s.config.gapLimit = old.gapLimit) : gapLimitChanged old s = s := if_pos ⟨h.symm, k.symm⟩

theorem replaceConfig_of_levels {c : ConfigBlock} {s : State} (levels : c.activeHigh = s.config.activeHigh) :
    replaceConfig c s = gapLimitChanged s.config (encoderModeChanged s.config (s.configured c)) := by
  have judged : allInputs.foldl (rejudge s.config) (s.configured c) = s.configured c :=
    rejudgeAll_of_same fun i _ => by simp only [activeLevel, State.configured, levels]
  exact congrArg (fun t => gapLimitChanged s.config (encoderModeChanged s.config t)) judged

/-- R189: a change of one active level and nothing else that has effects. -/
theorem replaceConfig_of_flip {c : ConfigBlock} {s : State} {i : Input}
    (flip : c.activeHigh = s.config.activeHigh ^^^ (1#7 <<< inputCode i)) (encoder : c.encoder = s.config.encoder)
    (gap : c.gapLimit = s.config.gapLimit) : replaceConfig c s = inputChanged i (s.configured c) := by
  have config : (inputChanged i (s.configured c)).config = c := inputChanged_config i _
  have judged : allInputs.foldl (rejudge s.config) (s.configured c) = inputChanged i (s.configured c) :=
    rejudgeAll_of_one (by decide) (by cases i <;> decide) fun j _ => activeLevel_flip flip j
  show gapLimitChanged s.config (encoderModeChanged s.config (allInputs.foldl (rejudge s.config) (s.configured c))) = _
  rw [judged, encoderModeChanged_of_same (by rw [config, encoder]),
    gapLimitChanged_of_same (by rw [config, encoder]) (by rw [config, gap])]

theorem compareWatch_of_unarmed {s : State} (idle : NoWatchArmed s) (x : WatchSource) (p : Position) (w : Fin 4) :
    compareWatch x p s w = s := by
  have off : (s.watches.getD w.val .cleared).state ≠ .armed := by
    rw [List.getD_eq_getElem?_getD]
    rcases h : s.watches[w.val]? with _ | r
    · exact fun h => nomatch h
    · exact idle r (List.mem_of_getElem? h)
  unfold compareWatch
  exact if_neg fun h => off h.1

theorem watchNow_of_unarmed {s : State} (idle : NoWatchArmed s) (l : List (WatchSource × Position)) :
    watchNow l s = s := by
  have one (x : WatchSource) (p : Position) : compareWatches x p s = s := by
    simp only [compareWatches, List.foldl_cons, List.foldl_nil, compareWatch_of_unarmed idle]
  unfold watchNow
  induction l with
  | nil => rfl
  | cons v l ih =>
    rw [List.foldl_cons, one]
    exact ih

/-! ### A cause enters (R84, R94) -/

theorem checkGap_of_not {s : State} (h : gapExceeds s = false) : checkGap s = s := by rw [checkGap, h]; rfl

theorem gapExceeds_eq_true {s : State} : gapExceeds s = true ↔ s.config.encoder ≠ .off ∧ s.config.gapLimit ≠ 0 ∧
    s.config.gapLimit.toNat < (s.command - s.measured).toInt.natAbs := by
  have pos : 0 < s.config.gapLimit.toNat ↔ s.config.gapLimit ≠ 0 := by
    rw [Nat.pos_iff_ne_zero, Ne, Ne, BitVec.toNat_eq]
    rfl
  simp only [gapExceeds, Bool.and_eq_true, decide_eq_true_eq, pos, and_assoc]

/-- The state of WRITE_CONFIG after a cause has entered off the line. -/
theorem settle_entered {x : Cause} {c : ConfigBlock} {bytes : List Byte} {s u : State} (atRest : AtRest s)
    (h : Enters x (s.configured c) u) : settle (respond .ok bytes u) = respond .ok bytes { u with handed := .empty } := by
  have offline : u.lifecycle = .configured := (congrArg State.lifecycle h.same :)
  have only : OnlyEvaluates u := h.onlyEvaluates atRest
  rw [settle_of_onlyEvaluates (s := respond .ok bytes u) only
    (headStays_of_offline (show u.lifecycle ≠ .online by simp [offline]))]
  rfl

/-- What `enters` of the obligation asks, from the entry of an immediate cause. -/
theorem entered {x : Cause} {c : ConfigBlock} {flag : Nat} {bytes : List Byte} {s u : State} (atRest : AtRest s)
    (order : QueueInOrder s) (kind : stopKindOf c x = .immediate) (mask : propagates c x = c.propagate.getLsbD flag)
    (h : Enters x (s.configured c) u) :
    let t := respond .ok bytes { u with handed := .empty }
    t.faults = s.faults.put x true ∧ StopMade .immediate s t ∧
      (s.notices.length < 16 → (t.notices.drop s.notices.length).head? = some (.fault x s.command)) ∧
      (c.propagate.getLsbD flag = true → t.ownHalt.raised = true ∧ (s.ownHalt.raised = false →
        t.ownHalt.reason = x.code ∧ t.ownHalt.kind = .immediate ∧ t.ownHalt.how = .cause)) ∧
      (c.propagate.getLsbD flag = false → t.ownHalt = s.ownHalt) ∧
      { t with
        config := s.config, lifecycle := s.lifecycle, faults := s.faults, queue := s.queue, axis := s.axis
        ownHalt := s.ownHalt, notices := s.notices, lost := s.lost, outbound := s.outbound
        nextFrame := s.nextFrame, lif := s.lif, port := s.port } = s := by
  intro t
  have stop : StopMade (stopKindOf c x) (s.configured c) u := h.stopMade order
  rw [kind] at stop
  refine ⟨h.faults, ?stop, h.toldFirst, fun p => h.raises (mask.trans p), fun p => h.unraised (.inl (mask.trans p)), ?same⟩
  case stop =>
    exact ⟨fun _ _ k => (nomatch k), stop.2.1, stop.2.2⟩
  case same =>
    have back := congrArg (fun v : State => { v with
      config := s.config, lifecycle := s.lifecycle, faults := s.faults, queue := s.queue, axis := s.axis
      ownHalt := s.ownHalt, notices := s.notices, lost := s.lost, outbound := s.outbound
      nextFrame := s.nextFrame, lif := s.lif, port := s.port, handed := .empty }) h.same
    refine (show _ = _ from back).trans ?_
    show { s with handed := _ } = s
    rw [← show s.handed = .empty from atRest]

/-! ### ESTOP and DRVFLT judged anew (R85) -/

theorem seekInputChange_of_inactive {watch : WatchTake} {i : Input} {s : State} (h : s.inputActive i = false) :
    seekInputChange watch i s = s := by
  unfold seekInputChange
  split
  · split
    · rw [h, if_neg (by simp)]
    · rfl
  · rfl

theorem seekInputChange_of_empty {watch : WatchTake} {i : Input} {s : State} (h : s.queue = []) :
    seekInputChange watch i s = s := by
  simp [seekInputChange, State.runningHead, h]

theorem handInput_of_empty {i : Input} {s : State} (h : s.queue = []) : handInput i s = s := by
  simp [handInput, handGateChange, headWaitsOn, h]

theorem moveOnInput_of_empty {i : Input} {s : State} (h : s.queue = []) : moveOnInput i s = settle s := by
  rw [moveOnInput, seekInputChange_of_empty h, handInput_of_empty h]

/-- R82: off the line an input that becomes Inactive only has the gates judged, and no head starts. -/
theorem moveOnInput_of_inactive {i : Input} {s : State} (only : OnlyEvaluates s) (offline : s.lifecycle ≠ .online)
    (h : s.inputActive i = false) : moveOnInput i s = { s with handed := .empty } := by
  rw [moveOnInput, seekInputChange_of_inactive h]
  unfold handInput handGateChange
  split
  · exact settle_of_onlyEvaluates (s := handEvaluate s) only (headStays_of_offline offline)
  · exact settle_of_onlyEvaluates only (headStays_of_offline offline)

/-- R82: an input without a capture edge reaches the Stop Supervisor, then the SEEK and the gates. -/
theorem inputChanged_of_no_edge {i : Input} (h : ∀ active, edgeOf i active = .none) (s : State) :
    inputChanged i s = moveOnInput i (stopOnInput i s) := by
  unfold inputChanged
  simp only [h, edgeTriggers, bne_self_eq_false, Bool.false_and, List.any_cons, List.any_nil, Bool.or_self,
    Bool.false_eq_true, if_false]

/-- R85: the cause of the input of an emergency stop or a drive fault, with an immediate stop. -/
theorem inputChanged_of_entered {i : Input} {x : Cause} {s : State} (edge : ∀ active, edgeOf i active = .none)
    (stops : stopOnInput i s = raiseCause x s) (atRest : AtRest s) (order : QueueInOrder s)
    (kind : stopKindOf s.config x = .immediate) (new : s.faults.has x = false) :
    ∃ u, Enters x s u ∧ inputChanged i s = { u with handed := .empty } := by
  have enters : Enters x s (raiseCause x s) := raiseCause_enters new
  have stop : StopMade (stopKindOf s.config x) s (raiseCause x s) := enters.stopMade order
  have empty : (raiseCause x s).queue = [] := (stop.2.1 (.inl kind)).1
  refine ⟨_, enters, ?_⟩
  rw [inputChanged_of_no_edge edge, stops, moveOnInput_of_empty empty]
  exact settle_of_onlyEvaluates (enters.onlyEvaluates atRest) (headStays_of_nil empty)

/-! ### IN0 and IN1 judged anew (R77, R80) -/

theorem trigger_of_valid {n : Fin 4} {x : Trigger} {s : State} (valid : (s.captures.getD n.val .cleared).valid = true) :
    trigger n x s = { s with
      captures := s.captures.set n.val { s.captures.getD n.val .cleared with missed := true } } := if_pos valid

theorem trigger_of_empty {n : Fin 4} {x : Trigger} {s : State}
    (invalid : (s.captures.getD n.val .cleared).valid = false) :
    trigger n x s = notify (.captureTaken n x) { s with
      captures := s.captures.set n.val
        { s.captures.getD n.val .cleared with
          valid := true, missed := false, command := s.command, measured := s.measured
          headTag := s.headTag, trigger := x } } := if_neg (by rw [invalid]; decide)

theorem filter_slots_eq (n : Fin 4) : ([0, 1, 2, 3] : List (Fin 4)).filter (fun m => decide (m = n)) = [n] := by
  revert n
  decide

theorem mem_slots (n : Fin 4) : n ∈ ([0, 1, 2, 3] : List (Fin 4)) := by
  revert n
  decide

/-- R77: an edge that one slot is set on triggers that slot. -/
theorem captureEdge_of_one {e : CaptureSetup} {n : Fin 4} {s : State} (edge : e ≠ .none)
    (one : ∀ m : Fin 4, (s.captures.getD m.val .cleared).setup = e ↔ m = n) :
    captureEdge e s = trigger n (.edge e) s := by
  have triggers (m : Fin 4) : edgeTriggers e s m = decide (m = n) := by
    rw [edgeTriggers, bne_iff_ne.mpr edge, Bool.true_and, Bool.eq_iff_iff, beq_iff_eq, one m, decide_eq_true_eq]
  have slots : [0, 1, 2, 3].filter (edgeTriggers e s) = [n] := by
    rw [List.filter_congr fun m _ => triggers m, filter_slots_eq]
  rw [captureEdge, slots]
  rfl

/-- One free value has been drawn. -/
def State.drawn (s : State) : State := { s with free := s.free + 1 }

/-- R80, R82: with an empty queue the edge of IN0 or IN1 fills its slot, in whichever order. -/
theorem inputChanged_of_one_edge {i : Input} {n : Fin 4} {s : State} (atRest : AtRest s) (empty : s.queue = [])
    (stays : stopOnInput i s = s) (edge : edgeOf i (s.inputActive i) ≠ .none)
    (one : ∀ m : Fin 4, (s.captures.getD m.val .cleared).setup = edgeOf i (s.inputActive i) ↔ m = n) :
    inputChanged i s = trigger n (.edge (edgeOf i (s.inputActive i))) s.drawn := by
  set e := edgeOf i (s.inputActive i) with he
  set t : State := s.drawn with ht
  have some_slot : [0, 1, 2, 3].any (edgeTriggers e s) = true := by
    rw [List.any_eq_true]
    exact ⟨n, mem_slots n, by rw [edgeTriggers, bne_iff_ne.mpr edge, (one n).mpr rfl]; simp⟩
  have fills : captureEdge e t = trigger n (.edge e) t := captureEdge_of_one edge one
  have quiet : Quiet t (trigger n (.edge e) t) := quiet_trigger n _ t
  have moved (u : State) (h : u.queue = []) (r : AtRest u) : moveOnInput i u = u := by
    rw [moveOnInput_of_empty h, settle_of_atRest r]
  unfold inputChanged
  rw [stays]
  show (if [0, 1, 2, 3].any (edgeTriggers e s) = true then
      if Config.captureFirst s.free then moveOnInput i (captureEdge e t) else captureEdge e (moveOnInput i t)
    else moveOnInput i s) = _
  rw [if_pos some_slot]
  split
  · rw [fills]
    exact moved _ (quiet.queue.trans empty) (quiet.handed.trans atRest)
  · rw [moved t empty atRest, fills]

/-! ### The obligation -/

theorem stopOnInput_of_capture {i : Input} (h : i = .in0 ∨ i = .in1) (s : State) : stopOnInput i s = s := by
  rcases h with rfl | rfl <;> rfl

theorem edgeOf_capture {i : Input} (h : i = .in0 ∨ i = .in1) (active : Bool) : edgeOf i active =
    if i = .in0 then (if active then .in0Rising else .in0Falling)
    else (if active then .in1Rising else .in1Falling) := by
  rcases h with rfl | rfl <;> cases active <;> rfl

theorem edgeOf_capture_ne_none {i : Input} (h : i = .in0 ∨ i = .in1) (active : Bool) : edgeOf i active ≠ .none := by
  rcases h with rfl | rfl <;> cases active <;> decide

/-- Settles O7: a changed level is the change of one input (inputChanged), and a cause enters off the line, where no head
starts. -/
theorem writeConfigReplacesTheBlock : Obligations.WriteConfigReplacesTheBlock := by
  intro s block i n atRest awaits may w d
  have taken (c : ConfigBlock) (h : c ∈ configOfBytes block) :
      w = .next (settle (respond .ok c.bytes (replaceConfig c s))) := exec_writeConfig_of_some awaits may h
  have plainly (c : ConfigBlock) (h : c ∈ configOfBytes block) (k : replaceConfig c s = s.configured c) :
      w = .next (respond .ok c.bytes (s.configured c)) := by
    rw [taken c h, k]
    exact congrArg Host.Outcome.next (settle_of_atRest atRest)
  refine ⟨?invalid, ?replaced, ?effects⟩
  case invalid =>
    intro h
    show exec (.writeConfig block) s = _
    rw [exec_writeConfig awaits, writeConfig, if_pos may, h]
    exact congrArg Host.Outcome.next (settle_of_atRest atRest)
  case replaced =>
    intro c hc
    have kept := replaceConfig_kept c s
    have settled : (settle (respond .ok c.bytes (replaceConfig c s))).kept =
        (respond .ok c.bytes (replaceConfig c s)).kept := (tame_settle _).kept
    refine ⟨_, taken c hc, (congrArg Kept.config settled).trans (congrArg Kept.config kept),
      (congrArg Kept.lifecycle settled).trans (congrArg Kept.lifecycle kept), ?_⟩
    exact congrArg (fun k : Kept => k.port.result) settled
  case effects =>
    intro c hc plain enters
    refine ⟨?levels, ?flipped⟩
    case levels =>
      intro levels
      have replaced := replaceConfig_of_levels levels
      refine ⟨?same, ?mode, ?limit⟩
      case same =>
        intro encoder gap
        refine plainly c hc ?_
        rw [replaced, encoderModeChanged_of_same encoder, gapLimitChanged_of_same encoder gap]
      case mode =>
        intro changed unarmed
        have mode : encoderModeChanged s.config (s.configured c) = { s.configured c with measured := s.command } := by
          rw [encoderModeChanged, if_neg (show ¬ s.config.encoder = (s.configured c).config.encoder from Ne.symm changed),
            watchNow_of_unarmed (show NoWatchArmed { s.configured c with measured := (s.configured c).command } from unarmed)]
          exact settle_of_atRest atRest
        have agree : ¬ c.gapLimit.toNat < (s.command - s.command).toInt.natAbs := by simp
        have within : gapExceeds { s.configured c with measured := s.command } = false := by
          rw [gapExceeds, Bool.and_eq_false_iff]
          exact .inr (decide_eq_false agree)
        rw [taken c hc, replaced, mode, gapLimitChanged,
          if_neg (fun h => changed h.1.symm), checkGap_of_not within]
        exact congrArg Host.Outcome.next (settle_of_atRest atRest)
      case limit =>
        intro encoder gap exceeds
        have judged : replaceConfig c s = checkGap (s.configured c) := by
          rw [replaced, encoderModeChanged_of_same encoder, gapLimitChanged, if_neg (fun h => gap h.2.symm)]
        refine ⟨?holds, ?enters⟩
        case holds =>
          refine fun h => plainly c hc (judged.trans ?_)
          unfold checkGap
          split
          · rename_i past
            exact raiseCause_of_present (h.resolve_left (not_not_intro (gapExceeds_eq_true.mp past)))
          · rfl
        case enters =>
          intro past new order
          have h : Enters .followingGap (s.configured c) (checkGap (s.configured c)) := by
            rw [checkGap, if_pos (gapExceeds_eq_true.mpr past)]
            exact raiseCause_enters new
          refine ⟨_, ?_, entered (bytes := c.bytes) atRest order rfl rfl h⟩
          rw [taken c hc, judged, settle_entered atRest h]
    case flipped =>
      intro flip encoder gap active
      have replaced := replaceConfig_of_flip flip encoder gap
      have level : (s.configured c).inputActive i = active := rfl
      refine ⟨fun on order => ⟨?estop, ?drvflt⟩, fun which off => plainly c hc ?off, ?edge⟩
      case estop =>
        rintro rfl new
        obtain ⟨u, h, eq⟩ := inputChanged_of_entered (i := .estop) (x := .estop) (s := s.configured c) (fun _ => rfl) (if_pos (level.trans on))
          atRest order rfl new
        refine ⟨_, ?_, entered (bytes := c.bytes) atRest order rfl rfl h⟩
        rw [taken c hc, replaced, eq]
        exact congrArg Host.Outcome.next (settle_of_atRest rfl)
      case drvflt =>
        rintro rfl new
        obtain ⟨u, h, eq⟩ := inputChanged_of_entered (i := .drvflt) (x := .drvflt) (s := s.configured c) (fun _ => rfl) (if_pos (level.trans on))
          atRest order rfl new
        refine ⟨_, ?_, entered (bytes := c.bytes) atRest order rfl rfl h⟩
        rw [taken c hc, replaced, eq]
        exact congrArg Host.Outcome.next (settle_of_atRest rfl)
      case off =>
        have stays : stopOnInput i (s.configured c) = s.configured c ∧ ∀ active, edgeOf i active = .none := by
          rcases which with rfl | rfl <;>
            exact ⟨if_neg (by rw [level, off]; decide), fun _ => rfl⟩
        rw [replaced, inputChanged_of_no_edge stays.2, stays.1,
          moveOnInput_of_inactive (onlyEvaluates_of_atRest (s := s.configured c) atRest)
            (show Lifecycle.configured ≠ .online by decide) (level.trans off)]
        show { s.configured c with handed := .empty } = _
        rw [← show s.handed = .empty from atRest]
        rfl
      case edge =>
        intro tables empty which edge one
        have named : edgeOf i ((s.configured c).inputActive i) = edge := edgeOf_capture which active
        have real : edge ≠ .none := by
          rw [← named]
          exact edgeOf_capture_ne_none which _
        have fills : replaceConfig c s = trigger n (.edge edge) (s.configured c).drawn := by
          rw [replaced, inputChanged_of_one_edge (n := n) (s := s.configured c) atRest empty (stopOnInput_of_capture which _)
            (by rw [named]; exact real) (by rw [named]; exact one), named]
        have atRest' : AtRest (trigger n (.edge edge) (s.configured c).drawn) :=
          (quiet_trigger _ _ _).handed.trans atRest
        refine ⟨respond .ok c.bytes (trigger n (.edge edge) (s.configured c).drawn), ?_, ?_⟩
        · rw [taken c hc, fills]
          exact congrArg Host.Outcome.next (settle_of_atRest atRest')
        by_cases valid : d.valid = true
        · rw [trigger_of_valid (s := (s.configured c).drawn) valid]
          simp only [if_pos valid]
          exact ⟨rfl, fun _ => (List.append_nil _).symm, rfl⟩
        · have head : (s.configured c).drawn.headTag = none := by
            show s.queue.head?.map _ = none
            rw [empty]
            rfl
          have setup : d.setup = edge := (one n).mpr rfl
          rw [trigger_of_empty (s := (s.configured c).drawn) (Bool.eq_false_iff.mpr valid), notify_eq, head]
          simp only [if_neg valid]
          refine ⟨?_, fun room => notify_notices_of_room room, rfl⟩
          rw [← setup]
          rfl

end Sys2Proof.Machine

/-! PROOFS. The events handed on, one after the other; the opening of the Outbound Queue (R140): REJOIN (R150) and
LISTENING_TIMER_EXPIRY (R156). -/

namespace Sys2Proof.Machine

/-! ### Events taken one after the other (R58) -/

theorem settleWithin_of_work_le {n : Nat} {s : State} (enough : s.work ≤ n) : settleWithin n s = settle s := by
  have agree (n : Nat) : ∀ (m : Nat) (s : State), s.work ≤ n → s.work ≤ m → settleWithin n s = settleWithin m s := by
    induction n with
    | zero =>
      intro m s hn _
      have rest : AtRest s := by
        refine (waits_eq_false_iff _).1 (Bool.eq_false_iff.2 fun waits => ?_)
        have := work_takeHanded s waits
        omega
      rw [settleWithin_of_atRest _ rest, settleWithin_of_atRest _ rest]
    | succ n ih =>
      intro m s hn hm
      cases waits : s.handed.waits with
      | false =>
        have rest : AtRest s := (waits_eq_false_iff _).1 waits
        rw [settleWithin_of_atRest _ rest, settleWithin_of_atRest _ rest]
      | true =>
        have less := work_takeHanded s waits
        obtain ⟨m, rfl⟩ : ∃ k, m = k + 1 := ⟨m - 1, by omega⟩
        rw [settleWithin, settleWithin, if_pos waits, if_pos waits]
        exact ih m _ (by omega) (by omega)
  exact agree n s.work s enough le_rfl

/-- While something waits, the next event is taken first. -/
theorem settle_of_waits {s : State} (waits : s.handed.waits = true) : settle s = settle (takeHanded s) := by
  have less := work_takeHanded s waits
  obtain ⟨n, hn⟩ : ∃ n, s.work = n + 1 := ⟨s.work - 1, by omega⟩
  rw [settle, hn, settleWithin, if_pos waits, settleWithin_of_work_le (by omega)]

theorem settle_of_evaluate {s : State} (values : s.handed.values = []) (due : s.handed.evaluate = true) :
    settle s = settle (evaluateHead watchNow { s with handed := { s.handed with evaluate := false } }) := by
  rw [settle_of_waits (by simp [Handed.waits, due]), takeHanded_of_evaluate values due]

/-- An evaluation that alone is due is taken on the state as it stands. -/
theorem settle_handEvaluate {s : State} (atRest : AtRest s) :
    settle (handEvaluate s) = settle (evaluateHead watchNow s) := by
  have cleared : { handEvaluate s with handed := { (handEvaluate s).handed with evaluate := false } } = s := by
    obtain ⟨⟩ := s
    cases atRest
    rfl
  rw [settle_of_evaluate (s := handEvaluate s) (congrArg Handed.values atRest) rfl, cleared]

/-! ### A DWELL that starts (R12, R35) -/

/-- The state in which a waiting DWELL has started. -/
def State.dwelling (e : Entry) (n : Nat) (s : State) : State :=
  { s with
    queue := [{ e with state := .running, consumed := false }]
    axis := { s.axis.ended with state := .dwell, dwellTimer := 16000 * n } }

theorem mayStart_iff (s : State) : s.mayStart = true ↔
    s.faults.nonempty = false ∧ s.ownHalt.raised = false ∧ s.haltListed = false ∧ s.lifecycle = .online := by
  simp [State.mayStart, State.halted, State.anyHalt, and_assoc]

theorem consumeGate_absent (s : State) : consumeGate .absent s = some s := rfl

theorem evaluateHead_of_dwellWaits {watch : WatchTake} {e : Entry} {n : Nat} {s : State} (dwell : DwellWaits e n s)
    (may : s.mayStart = true) : evaluateHead watch s = s.dwelling e n := by
  obtain ⟨queue, waiting, gate, body, mark⟩ := dwell
  have opened : (e.consumed || s.gateOpen e.segment.gate) = true := by
    rcases gate with h | h <;> simp [h, State.gateOpen]
  have consumes : (if e.consumed then some s else consumeGate e.segment.gate s) = some s := by
    rcases gate with h | h <;> simp [h, consumeGate_absent]
  have starts : (e.state == .waiting && s.mayStart && (e.consumed || s.gateOpen e.segment.gate)) = true := by
    simp [waiting, may, opened]
  unfold evaluateHead
  rw [queue]
  show (if (e.state == .waiting && s.mayStart && (e.consumed || s.gateOpen e.segment.gate)) = true then
    startHead watch e [] s else s) = _
  rw [if_pos starts, startHead, consumes]
  show runHead watch e.segment _ = _
  unfold runHead
  rw [body, mark]
  rfl

/-- An evaluation that is due starts the DWELL. -/
theorem settle_of_dwellWaits {e : Entry} {n : Nat} {s : State} (only : OnlyEvaluates s) (due : s.handed.evaluate = true)
    (dwell : DwellWaits e n s) (may : s.mayStart = true) : settle s = { s.dwelling e n with handed := .empty } := by
  rw [settle_of_evaluate (congrArg Handed.values only) due]
  have cleared : { s with handed := { s.handed with evaluate := false } } = { s with handed := .empty } :=
    congrArg (fun h => { s with handed := h }) only
  rw [cleared, evaluateHead_of_dwellWaits (s := { s with handed := .empty }) dwell may]
  exact settle_of_atRest rfl

theorem settle_handEvaluate_of_dwellWaits {e : Entry} {n : Nat} {s : State} (atRest : AtRest s) (dwell : DwellWaits e n s)
    (may : s.mayStart = true) : settle (handEvaluate s) = s.dwelling e n := by
  have only : OnlyEvaluates (handEvaluate s) := (onlyEvaluates_of_atRest atRest :)
  rw [settle_of_dwellWaits (s := handEvaluate s) only rfl dwell may, ← atRest]
  rfl

/-! ### Frames admitted to an open queue (R130, R165) -/

/-- R130: an open queue of fewer than ten frames admits every frame. -/
theorem admission_of_open {s : State} (sends : s.canSend = true) (room : s.outbound.length < 10) (d : Dest)
    (p : Payload) : admission d p s = some (pickIfSilent
      { s with
        outbound := s.outbound ++ [s.newFrame d p]
        nextFrame := s.nextFrame + 1
        lif := { s.lif with sequence := s.lif.sequence + 1 } }) := by
  have fits : s.hasRoom p.kind.cls = true := by
    unfold State.hasRoom
    split <;> exact decide_eq_true (by omega)
  rw [admission, sends, fits]
  rfl

theorem requestPresence_of_none {s : State} (sends : s.canSend = true)
    (bare : s.outbound.any OutFrame.isPresence = false) (room : s.outbound.length < 10) :
    admission .broadcast (.presence s.summary) s = some (requestPresence s) := by
  unfold requestPresence
  rw [if_pos sends, if_neg (by simp [bare]), admission_of_open sends room]

theorem askOwed_of_open {s : State} {p : Payload} (owes : owedPayload s.ownHalt = some p) (sends : s.canSend = true)
    (room : s.outbound.length < 10) :
    ∃ t, admission .broadcast p s = some t ∧ askOwed s = { t with ownHalt := { t.ownHalt with owed := .none } } := by
  refine ⟨_, admission_of_open sends room _ p, ?_⟩
  unfold askOwed
  rw [owes]
  show (if s.canSend = true then _ else _) = _
  rw [if_pos sends, admission_of_open sends room]

/-- R97: a raised own halt is offered to an open queue behind the frames held. -/
theorem outbound_announceHalt_of_raised {s : State} (raised : s.ownHalt.raised = true) (sends : s.canSend = true)
    (room : (updatePresence s.ownHalt.into s).outbound.length < 10) :
    ∃ f, f.payload = .halt s.ownHalt.reason s.ownHalt.kind ∧
      (announceHalt s).outbound = (updatePresence s.ownHalt.into s).outbound ++ [f] := by
  have update : Offers s (updatePresence s.ownHalt.into s) := offers_updatePresence _ s
  set u := updatePresence s.ownHalt.into s with hu
  have same : { u.ownHalt with owed := .none } = { s.ownHalt with owed := Owed.none } := (congrArg State.ownHalt update.same :)
  have reason : u.ownHalt.reason = s.ownHalt.reason := (congrArg OwnHalt.reason same :)
  have kind : u.ownHalt.kind = s.ownHalt.kind := (congrArg OwnHalt.kind same :)
  have still : u.ownHalt.raised = true := (congrArg OwnHalt.raised same :).trans raised
  have open' : u.canSend = true := (congrArg State.canSend update.same :).trans sends
  have announced : announceHalt s = askOwed { u with ownHalt := { u.ownHalt with owed := .halt } } := by
    show askOwed { u with ownHalt := { u.ownHalt with owed := if u.ownHalt.raised then .halt else .lift } } = _
    rw [still]
    rfl
  obtain ⟨t, admitted, asked⟩ := askOwed_of_open (s := { u with ownHalt := { u.ownHalt with owed := .halt } })
    (p := .halt s.ownHalt.reason s.ownHalt.kind) (by rw [← reason, ← kind]; rfl) open' room
  refine ⟨State.newFrame { u with ownHalt := { u.ownHalt with owed := .halt } } .broadcast _, rfl, ?_⟩
  rw [announced, asked]
  exact (outbound_of_admission admitted :)

/-! ### The queue opens (R140) -/

/-- What the two requests leave in a queue that opens empty: a PRESENCE, the HALT first where the own halt is raised, the
presence timer at its full period, and no notice. -/
structure Opened (s t : State) : Prop where
  timer : t.presenceTimer = ms (10 * s.config.presencePeriod.toNat)
  presence : ∃ f ∈ t.outbound, f.payload.kind = .presence
  halt : s.ownHalt.raised = true → ∃ f, firstFrame t.outbound = some f ∧
    f.payload = .halt s.ownHalt.reason s.ownHalt.kind

theorem firstFrame_of_halt_and_presence {h p : OutFrame} (halt : h.payload.kind = .halt)
    (presence : p.payload.kind = .presence) : firstFrame [h, p] = some h ∧ firstFrame [p, h] = some h := by
  simp [firstFrame, OutFrame.cls, halt, presence, FrameKind.cls]

theorem kind_halt (r : Byte) (k : StopKind) : (Payload.halt r k).kind = .halt := rfl

/-- R97: an owed frame joins the queue behind the frames held; it is no PRESENCE. -/
theorem outbound_askOwed (s : State) : ∃ l, (askOwed s).outbound = s.outbound ++ l ∧ l.length ≤ 1 ∧
    ∀ f ∈ l, f.isPresence = false := by
  have nothing {t : State} (h : t.outbound = s.outbound) : ∃ l, t.outbound = s.outbound ++ l ∧ l.length ≤ 1 ∧
      ∀ f ∈ l, f.isPresence = false := ⟨[], by rw [h, List.append_nil], by simp, by simp⟩
  unfold askOwed
  split
  · exact nothing rfl
  · rename_i p owes
    have kind : (p.kind == .presence) = false := by
      unfold owedPayload at owes
      split at owes
      · cases owes
      · cases owes
        rfl
      · cases owes
        rfl
    split
    · split
      · rename_i t admitted
        refine ⟨[s.newFrame .broadcast p], (outbound_of_admission admitted :), le_rfl, ?_⟩
        simp only [List.mem_singleton, forall_eq]
        exact kind
      · exact nothing rfl
    · exact nothing rfl

/-- R165: the PRESENCE request on a queue that holds none. -/
theorem openPresenceRequest_of_none {s : State} (sends : s.canSend = true)
    (none_held : s.outbound.any OutFrame.isPresence = false) (room : s.outbound.length < 10) :
    (openPresenceRequest s).outbound = s.outbound ++ [s.newFrame .broadcast (.presence s.summary)] ∧
      (openPresenceRequest s).presenceTimer = ms (10 * s.config.presencePeriod.toNat) ∧
      Offers s (requestPresence s) := by
  have admitted := requestPresence_of_none sends none_held room
  have config : (requestPresence s).config = s.config := (offers_requestPresence s).marks.config
  refine ⟨(outbound_of_admission admitted :), ?_, offers_requestPresence s⟩
  show ms (10 * (requestPresence s).config.presencePeriod.toNat) = _
  rw [config]

theorem Offers.canSend {s t : State} (h : Offers s t) : t.canSend = s.canSend := (congrArg State.canSend h.same :)

theorem Offers.presenceTimer {s t : State} (h : Offers s t) : t.presenceTimer = s.presenceTimer :=
  (congrArg State.presenceTimer h.same :)

theorem Offers.besidesOwed {s t : State} (h : Offers s t) : { t.ownHalt with owed := .none } = { s.ownHalt with owed := Owed.none } :=
  (congrArg State.ownHalt h.same :)

theorem Offers.raised {s t : State} (h : Offers s t) : t.ownHalt.raised = s.ownHalt.raised :=
  (congrArg OwnHalt.raised h.besidesOwed :)

theorem Offers.reason {s t : State} (h : Offers s t) : t.ownHalt.reason = s.ownHalt.reason :=
  (congrArg OwnHalt.reason h.besidesOwed :)

theorem Offers.kind {s t : State} (h : Offers s t) : t.ownHalt.kind = s.ownHalt.kind :=
  (congrArg OwnHalt.kind h.besidesOwed :)

theorem offers_openHaltRequest (s : State) : Offers s (openHaltRequest s) := .ite (offers_announceHalt s) (offers_askOwed s)

/-- R140: the Halt Table's request first. -/
theorem opened_of_halt_first {s : State} (sends : s.canSend = true) (bare : s.outbound = []) :
    Opened s (openPresenceRequest (openHaltRequest s)) := by
  have offers := offers_openHaltRequest s
  have update : updatePresence s.ownHalt.into s = s := by simp [updatePresence, bare]
  have held : (s.ownHalt.raised = true → ∃ f, (openHaltRequest s).outbound = [f] ∧
      f.payload = .halt s.ownHalt.reason s.ownHalt.kind) ∧ (openHaltRequest s).outbound.length ≤ 1 ∧
      (openHaltRequest s).outbound.any OutFrame.isPresence = false := by
    by_cases raised : s.ownHalt.raised = true
    · obtain ⟨f, payload, outbound⟩ := outbound_announceHalt_of_raised raised sends (by rw [update, bare]; decide)
      rw [update, bare] at outbound
      have single : (openHaltRequest s).outbound = [f] := by rw [openHaltRequest, if_pos raised]; exact outbound
      refine ⟨fun _ => ⟨f, single, payload⟩, by rw [single]; exact le_rfl, ?_⟩
      simp [single, OutFrame.isPresence, payload, Payload.kind]
    · obtain ⟨l, outbound, short, other⟩ := outbound_askOwed s
      rw [bare] at outbound
      have all : (openHaltRequest s).outbound = l := by rw [openHaltRequest, if_neg raised]; exact outbound
      exact ⟨fun h => absurd h raised, by rw [all]; exact short, by rw [all, List.any_eq_false]; simpa using other⟩
  obtain ⟨halt, short, none_held⟩ := held
  obtain ⟨outbound, timer, -⟩ := openPresenceRequest_of_none (offers.canSend.trans sends) none_held (by omega)
  refine ⟨timer.trans (by rw [offers.marks.config]), ?_, fun raised => ?_⟩
  · rw [outbound]
    exact ⟨_, List.mem_append_right _ List.mem_cons_self, rfl⟩
  · obtain ⟨f, single, payload⟩ := halt raised
    rw [outbound, single]
    exact ⟨f, (firstFrame_of_halt_and_presence (by rw [payload]; rfl) rfl).1, payload⟩

/-- R140: the Peer Roster's request first; the HALT joins behind the PRESENCE, in a lower class. -/
theorem opened_of_presence_first {s : State} (sends : s.canSend = true) (bare : s.outbound = []) :
    Opened s (openHaltRequest (openPresenceRequest s)) := by
  obtain ⟨outbound, timer, asked⟩ := openPresenceRequest_of_none sends (by rw [bare]; rfl) (by rw [bare]; decide)
  rw [bare, List.nil_append] at outbound
  set p := s.newFrame .broadcast (.presence s.summary) with hp
  set u := openPresenceRequest s with hu
  have offers := offers_openHaltRequest u
  have raises : u.ownHalt.raised = s.ownHalt.raised := asked.raised
  have update : updatePresence u.ownHalt.into u =
      { u with outbound := [{ p with payload := .presence (u.ownHalt.into s.summary) }] } := by
    rw [updatePresence_in_place (f := p) (p := s.summary) (by rw [outbound]; rfl) rfl rfl rfl, outbound]
    simp [replaceFrame]
  refine ⟨offers.presenceTimer.trans timer, ?_, fun raised => ?_⟩
  · by_cases raised : u.ownHalt.raised = true
    · obtain ⟨f, payload, all⟩ := outbound_announceHalt_of_raised raised (asked.canSend.trans sends)
        (by rw [update]; exact Nat.lt_of_sub_eq_succ rfl)
      rw [openHaltRequest, if_pos raised, all, update]
      exact ⟨_, List.mem_cons_self, rfl⟩
    · obtain ⟨l, all, -⟩ := outbound_askOwed u
      rw [openHaltRequest, if_neg raised, all, outbound]
      exact ⟨p, List.mem_cons_self, rfl⟩
  · obtain ⟨f, payload, all⟩ := outbound_announceHalt_of_raised (raises.trans raised) (asked.canSend.trans sends)
      (by rw [update]; exact Nat.lt_of_sub_eq_succ rfl)
    rw [openHaltRequest, if_pos (raises.trans raised), all, update]
    have fields : f.payload = .halt s.ownHalt.reason s.ownHalt.kind :=
      payload.trans (by rw [show u.ownHalt.reason = _ from asked.reason, show u.ownHalt.kind = _ from asked.kind])
    exact ⟨f, (firstFrame_of_halt_and_presence (by rw [fields]; rfl) rfl).2, fields⟩

/-- R140: the requests in either order, on a queue that opens empty. -/
theorem openOutbound_opened {s : State} (sends : s.canSend = true) (bare : s.outbound = []) : Opened s (openOutbound s) := by
  have drawn {t : State} (h : Opened s.drawn t) : Opened s t := ⟨h.timer, h.presence, h.halt⟩
  unfold openOutbound
  split
  · show Opened s (if Config.haltRequestFirst s.free = true then openPresenceRequest (openHaltRequest s.drawn)
      else openHaltRequest (openPresenceRequest s.drawn))
    split
    · exact drawn (opened_of_halt_first sends bare)
    · exact drawn (opened_of_presence_first sends bare)
  · rename_i calm
    obtain ⟨outbound, timer, -⟩ := openPresenceRequest_of_none sends (by rw [bare]; rfl) (by rw [bare]; decide)
    refine ⟨timer, ?_, fun raised => absurd (by simp [raised]) calm⟩
    rw [outbound]
    exact ⟨_, List.mem_append_right _ List.mem_cons_self, rfl⟩

theorem dropPick_outbound (s : State) : (dropPick s).outbound = s.outbound := by
  unfold dropPick
  split <;> rfl

/-! ### REJOIN (R149, R150) -/

theorem openOutbound_notices (s : State) : (openOutbound s).notices = s.notices := by
  have request (u : State) : (openPresenceRequest u).notices = u.notices := (offers_requestPresence u).notices
  unfold openOutbound
  split
  · show (if Config.haltRequestFirst s.free = true then openPresenceRequest (openHaltRequest s.drawn)
      else openHaltRequest (openPresenceRequest s.drawn)).notices = _
    split
    · rw [request, (offers_openHaltRequest _).notices]
      rfl
    · rw [(offers_openHaltRequest _).notices, request]
      rfl
  · exact request s

/-- R149: the Withdrawn station is Engaged, before its queue opens. -/
def State.engaged (s : State) : State :=
  notify (.standingChanged .withdrawn .engaged 0 .rejoin) { s with score := 0, recovery := 0, standing := .engaged }

theorem returnEngaged_of_withdrawn {s : State} (withdrawn : s.standing = .withdrawn) :
    returnEngaged .rejoin s = if s.lifecycle = .online then openLine s.engaged else s.engaged := by
  have standing : setStanding .engaged .rejoin { s with score := 0, recovery := 0 } = s.engaged := by
    unfold setStanding
    rw [if_neg (by simp [withdrawn])]
    simp only [withdrawn]
    rfl
  have lifecycle : s.engaged.lifecycle = s.lifecycle := by rw [State.engaged, notify_eq]
  unfold returnEngaged
  simp only [standing, lifecycle]

theorem exec_rejoin {s : State} (awaits : s.awaitsCommand = true) : exec .rejoin s =
    if s.mayRejoin then .next (respondStanding .ok (returnEngaged .rejoin s)) else .next (respondStanding .state s) := by
  show execRejoin s = _
  unfold execRejoin
  rw [onPort_of_awaits awaits]

theorem mayRejoin_iff (s : State) : s.mayRejoin = true ↔ s.standing = .withdrawn ∧ s.onLine = true ∧ 48 ≤ s.recovery := by
  simp [State.mayRejoin, and_assoc]

/-- Settles O8: the opening leaves the standing alone and the queue opens with its two requests. -/
theorem rejoinReturnsToEngaged : Obligations.RejoinReturnsToEngaged := by
  intro s awaits
  refine ⟨fun withdrawn on recovered => ?_, fun h => ?_⟩
  · have may : s.mayRejoin = true := (mayRejoin_iff s).mpr ⟨withdrawn, on, recovered⟩
    refine ⟨respondStanding .ok (returnEngaged .rejoin s), by rw [exec_rejoin awaits, if_pos may], ?_⟩
    rw [returnEngaged_of_withdrawn withdrawn]
    have engaged : s.engaged = { s with
        score := 0, recovery := 0, standing := .engaged, notices := s.engaged.notices, lost := s.engaged.lost } :=
      notify_eq _ _
    have told (room : s.notices.length < 16) :
        s.engaged.notices = s.notices ++ [.standingChanged .withdrawn .engaged 0 .rejoin] := notify_notices_of_room room
    by_cases online : s.lifecycle = .online
    · rw [if_pos online]
      have kept := (tame_openLine s.engaged).kept
      have score : (openLine s.engaged).score = 0 := (congrArg Kept.score kept :).trans (by rw [engaged]; rfl)
      have recovery : (openLine s.engaged).recovery = 0 := (congrArg Kept.recovery kept :).trans (by rw [engaged]; rfl)
      have notices : (openLine s.engaged).notices = s.engaged.notices :=
        (admits_dropPick _).notices.trans (openOutbound_notices _)
      refine ⟨(congrArg Kept.standing kept :).trans (by rw [engaged]; rfl), score, recovery, ?_, fun room => notices.trans (told room),
        fun listening => absurd (online.symm.trans listening) (by decide), fun _ bare => ?_⟩
      · show [_, byteOfNat (openLine s.engaged).score, byteOfNat (openLine s.engaged).recovery] = _
        rw [score, recovery]
        rfl
      · have opened : Opened s.engaged (openOutbound s.engaged) := openOutbound_opened
          (by rw [engaged]; simp [State.canSend, online]) (by rw [engaged]; exact bare)
        have timer : (openLine s.engaged).presenceTimer = (openOutbound s.engaged).presenceTimer :=
          (congrArg State.presenceTimer (admits_dropPick (openOutbound s.engaged)).same :)
        have outbound : (openLine s.engaged).outbound = (openOutbound s.engaged).outbound := dropPick_outbound _
        have own : s.engaged.ownHalt = s.ownHalt := by rw [engaged]
        refine ⟨timer.trans (opened.timer.trans (by rw [engaged]; rfl)), ?_, fun raised => ?_⟩
        · obtain ⟨f, mem, kind⟩ := opened.presence
          exact ⟨f, outbound.symm ▸ mem, kind⟩
        · obtain ⟨f, first, payload⟩ := opened.halt ((congrArg OwnHalt.raised own).trans raised)
          exact ⟨f, (congrArg firstFrame outbound).trans first, by rw [payload, own]⟩
    · rw [if_neg online, engaged]
      exact ⟨rfl, rfl, rfl, rfl, told, fun _ => rfl, fun h => absurd h online⟩
  · have not : ¬ s.mayRejoin = true := by
      rw [mayRejoin_iff]
      rintro ⟨withdrawn, on, recovered⟩
      rcases h with h | h | h
      · exact h withdrawn
      · exact absurd on (by simp [h])
      · omega
    rw [exec_rejoin awaits, if_neg not]
    rfl

end Sys2Proof.Machine

/-! PROOFS. LISTENING_TIMER_EXPIRY (R156): the station comes Online, its queue opens, its head is evaluated. -/

namespace Sys2Proof.Machine

/-- R156 steps 1 and 2: Online and Engaged, before the queue opens. -/
def State.entering (s : State) : State :=
  { s with lifecycle := .online, listenTimer := 0, score := 0, standing := .engaged }

/-- R156: with nothing held or owed the first PRESENCE is admitted and the presence timer runs; no pick is made yet. -/
def State.arrived (s : State) : State :=
  { s.entering with
    outbound := [s.newFrame .broadcast (.presence s.entering.summary)]
    nextFrame := s.nextFrame + 1
    lif := { s.lif with sequence := s.lif.sequence + 1, transmitter := .silent, picked := none }
    presenceTimer := ms (10 * s.config.presencePeriod.toNat) }

theorem waiting_or_silent {s : State} (line : LineAgrees s) (grounded : s.lif.flight = none) :
    s.lif.transmitter = .waiting ∨ s.lif.transmitter = .silent ∧ s.lif.picked = none := by
  have not_sending : s.sends = false := by
    rw [Bool.eq_false_iff]
    exact fun sends => by simpa [grounded] using line.2.mp sends
  have picked := line.1
  rcases h : s.lif.transmitter with _ | _ | _ | _ <;> simp_all [State.sends]

theorem pick_of_first {f : OutFrame} {s : State} (idle : s.lif.transmitter = .silent ∨ s.lif.transmitter = .waiting)
    (sends : s.canSend = true) (first : firstFrame s.outbound = some f) : pick s =
      { s with lif := { s.lif with transmitter := .waiting, picked := some { frame := f.id, gap := s.gapOf f } } } := by
  unfold pick
  rcases idle with h | h <;> rw [h, sends, first]

/-- Beside the frame just admitted a transmitter not in an attempt Waits. -/
theorem pickIfSilent_eq_waiting {s : State} (sends : s.canSend = true) (held : s.outbound ≠ [])
    (h : s.lif.transmitter = .waiting ∨ s.lif.transmitter = .silent) :
    ∃ p, pickIfSilent s = { s with lif := { s.lif with transmitter := .waiting, picked := p } } := by
  rcases h with waiting | silent
  · refine ⟨s.lif.picked, ?_⟩
    rw [pickIfSilent, if_neg (by simp [waiting]), ← waiting]
  · obtain ⟨f, first⟩ := Option.ne_none_iff_exists'.mp fun none_first => held (firstFrame_eq_none none_first)
    rw [pickIfSilent, if_pos silent, pick_of_first (.inl silent) sends first]
    exact ⟨_, rfl⟩

/-- R140, R156: the queue opens with the PRESENCE request alone. -/
theorem openLine_of_calm {s : State} (calm : s.ownHalt.raised = false) (paid : s.ownHalt.owed = .none)
    (sends : s.canSend = true) (bare : s.outbound = [])
    (h : s.lif.transmitter = .waiting ∨ s.lif.transmitter = .silent) : openLine s = { s with
      outbound := [s.newFrame .broadcast (.presence s.summary)]
      nextFrame := s.nextFrame + 1
      lif := { s.lif with sequence := s.lif.sequence + 1, transmitter := .silent, picked := none }
      presenceTimer := ms (10 * s.config.presencePeriod.toNat) } := by
  have opens : openOutbound s = startPresenceTimer (requestPresence s) := by
    rw [openOutbound, if_neg (by simp [calm, paid])]
    rfl
  have admitted := requestPresence_of_none sends (by rw [bare]; rfl) (by rw [bare]; decide)
  have request := admission_eq_some admitted
  obtain ⟨p, picks⟩ := pickIfSilent_eq_waiting (s := { s with
    outbound := s.outbound ++ [s.newFrame .broadcast (.presence s.summary)]
    nextFrame := s.nextFrame + 1
    lif := { s.lif with sequence := s.lif.sequence + 1 } }) sends (by simp) h
  rw [openLine, opens, request, picks, bare]
  rfl

/-! ### The entry into Online (R156) -/

theorem comeOnline_of_calm {s : State} (engaged : s.standing ≠ .withdrawn) (line : LineAgrees s)
    (grounded : s.lif.flight = none) (calm : s.ownHalt.raised = false) (paid : s.ownHalt.owed = .none)
    (bare : s.outbound = []) : comeOnline s = s.arrived := by
  have idle : s.lif.transmitter = .waiting ∨ s.lif.transmitter = .silent := (waiting_or_silent line grounded).imp_right And.left
  unfold comeOnline
  rw [if_neg (show ¬ s.standing = .withdrawn from engaged)]
  exact congrArg startPresenceTimer (openLine_of_calm (s := s.entering) calm paid rfl bare idle)

theorem comeOnline_of_withdrawn {s : State} (withdrawn : s.standing = .withdrawn) : comeOnline s = { s with
    lifecycle := .online, listenTimer := 0, presenceTimer := ms (10 * s.config.presencePeriod.toNat) } := by
  unfold comeOnline
  rw [if_pos (show s.standing = .withdrawn from withdrawn)]
  rfl

theorem exec_listeningTimerExpiry {s : State} (listening : s.lifecycle = .listening) :
    exec .listeningTimerExpiry s = .next (pickIfSilent (settle (handEvaluate (comeOnline s)))) := by
  show execListeningTimerExpiry s = _
  rw [execListeningTimerExpiry, if_pos listening]

/-- Settles O49. -/
theorem listeningExpiryBringsTheStationOnline : Obligations.ListeningExpiryBringsTheStationOnline := by
  intro s x k atRest line listening grounded bare calm paid
  refine ⟨fun engaged stays => ?_, fun withdrawn stays => ?_, fun dwell faultless unhalted => ?_⟩
  · have settled : settle (handEvaluate s.arrived) = s.arrived := settle_handEvaluate_of_headStays atRest stays
    have picks : pickIfSilent s.arrived = _ := (if_pos rfl).trans (pick_of_first (s := s.arrived) (.inl rfl) rfl rfl)
    refine ⟨pickIfSilent s.arrived, ?_, ?_⟩
    · rw [exec_listeningTimerExpiry listening, comeOnline_of_calm engaged line grounded calm paid bare, settled]
    · rw [picks]
      exact ⟨rfl, rfl, rfl, rfl, rfl, ⟨_, rfl, rfl, rfl, calm⟩, rfl, rfl, rfl⟩
  · have settled : settle (handEvaluate (comeOnline s)) = comeOnline s := by
      rw [comeOnline_of_withdrawn withdrawn]
      exact settle_handEvaluate_of_headStays atRest stays
    rw [exec_listeningTimerExpiry listening, settled, comeOnline_of_withdrawn withdrawn]
    rfl
  · have comes : (comeOnline s).lifecycle = .online ∧ { comeOnline s with
        lifecycle := s.lifecycle, listenTimer := s.listenTimer, presenceTimer := s.presenceTimer, score := s.score
        standing := s.standing, outbound := s.outbound, nextFrame := s.nextFrame, lif := s.lif } = s := by
      by_cases withdrawn : s.standing = .withdrawn
      · rw [comeOnline_of_withdrawn withdrawn]
        exact ⟨rfl, rfl⟩
      · rw [comeOnline_of_calm withdrawn line grounded calm paid bare]
        exact ⟨rfl, rfl⟩
    obtain ⟨online, same⟩ := comes
    set c := comeOnline s with hc
    have queue : c.queue = s.queue := (congrArg State.queue same :)
    have axis : c.axis = s.axis := (congrArg State.axis same :)
    have rest : AtRest c := (congrArg State.handed same :).trans atRest
    have may : c.mayStart = true := (mayStart_iff c).mpr
      ⟨by rw [show c.faults = s.faults from (congrArg State.faults same :), faultless]; rfl,
        (congrArg (fun u => u.ownHalt.raised) same :).trans calm, (congrArg State.haltListed same :).trans unhalted, online⟩
    have settled : settle (handEvaluate c) = c.dwelling x k :=
      settle_handEvaluate_of_dwellWaits rest ⟨queue.trans dwell.1, dwell.2⟩ may
    have admits : Admits _ _ := admits_pickIfSilent (c.dwelling x k)
    refine ⟨pickIfSilent (c.dwelling x k), ?_, ?_⟩
    · rw [exec_listeningTimerExpiry listening, settled]
    set t := pickIfSilent (c.dwelling x k) with ht
    have back : t.besidesAdmission = _ := admits.same
    refine ⟨(congrArg State.lifecycle back :).trans online, ⟨(congrArg State.queue back :), ?_⟩, ?_⟩
    · rw [← axis]
      exact (congrArg State.axis back :)
    · have others := congrArg (fun v : State => { v with
        lifecycle := s.lifecycle, listenTimer := s.listenTimer, presenceTimer := s.presenceTimer, score := s.score
        standing := s.standing, queue := s.queue, axis := s.axis, outbound := s.outbound
        nextFrame := s.nextFrame, lif := s.lif }) back
      have before := congrArg (fun v : State => { v with queue := s.queue, axis := s.axis }) same
      exact (show _ = _ from others).trans (show _ = _ from before)

end Sys2Proof.Machine

/-! PROOFS. APPEND_SEGMENT (R4), FLUSH (R20), STOP and ABORT (R91). -/

namespace Sys2Proof.Machine

/-! ### APPEND_SEGMENT (R4, R8) -/

/-- R8: the entry that a local append makes. -/
def Segment.appended (g : Segment) : Entry :=
  { segment := g, origin := .localPort, state := .waiting, consumed := false }

theorem exec_appendSegment {s : State} (awaits : s.awaitsCommand = true) (bytes : List Byte) :
    exec (.appendSegment bytes) s = .next (settle (appendLocal bytes s)) := by
  show execAppendSegment bytes s = _
  unfold execAppendSegment
  rw [onPort_of_awaits awaits]

/-- R4: the checks of an append in their order. -/
theorem appendLocal_eq (bytes : List Byte) (s : State) :
    appendLocal bytes s =
      if s.takesAppends = false then respond .state [] s
      else if s.halted = true then respond .halted [] s
      else if 32 ≤ s.queue.length then respond .full [] s
      else match validSegment s.config bytes with
        | some g => respond .ok [byteOfNat (s.queue.length + 1)] (enqueue g .localPort s)
        | none => respond .invalid [] s := by
  unfold appendLocal
  cases s.takesAppends <;> rfl

theorem appendLocal_of_valid {g : Segment} {bytes : List Byte} {s : State} (takes : s.takesAppends = true)
    (free : s.halted = false) (room : s.queue.length < 32) (valid : validSegment s.config bytes = some g) :
    appendLocal bytes s = respond .ok [byteOfNat (s.queue.length + 1)] (enqueue g .localPort s) := by
  rw [appendLocal_eq, if_neg (by simp [takes]), if_neg (by simp [free]), if_neg (by omega), valid]

theorem enqueue_of_empty (g : Segment) {s : State} (empty : s.queue = []) : enqueue g .localPort s =
    handEvaluate { s with queue := [g.appended], axis := { s.axis with state := .gated } } := by
  simp only [enqueue, empty]
  rfl

theorem enqueue_of_cons (g : Segment) {s : State} (held : s.queue ≠ []) : enqueue g .localPort s =
    { s with queue := s.queue ++ [g.appended] } := by
  rw [enqueue, if_neg (by simp [held])]
  rfl

/-- Settles O9. -/
theorem appendChecksInOrderAndJoinsTheTail : Obligations.AppendChecksInOrderAndJoinsTheTail := by
  intro s bytes atRest awaits
  have answered {code : ResultCode} (h : appendLocal bytes s = respond code [] s) :
      exec (.appendSegment bytes) s = .next (respond code [] s) := by
    rw [exec_appendSegment awaits, h]
    exact congrArg Host.Outcome.next (settle_of_atRest atRest)
  refine ⟨fun offline => answered ?_, fun takes halted => answered ?_, fun takes free full => answered ?_,
    fun takes free room invalid => answered ?_, fun g valid takes free room quiet => ?_⟩
  · rw [appendLocal_eq, if_pos offline]
  · rw [appendLocal_eq, if_neg (by simp [takes]), if_pos halted]
  · rw [appendLocal_eq, if_neg (by simp [takes]), if_neg (by simp [free]), if_pos full]
  · rw [appendLocal_eq, if_neg (by simp [takes]), if_neg (by simp [free]), if_neg (by omega), invalid]
  · rw [exec_appendSegment awaits, appendLocal_of_valid takes free room valid]
    by_cases empty : s.queue = []
    · have offline := quiet.resolve_left (not_not_intro empty)
      rw [enqueue_of_empty g empty]
      refine congrArg Host.Outcome.next ((settle_handEvaluate_of_headStays
        (s := respond .ok _ { s with queue := [g.appended], axis := _ }) atRest fun _ _ _ => .inl offline).trans ?_)
      rw [empty, if_pos rfl]
      rfl
    · rw [enqueue_of_cons g empty, if_neg empty]
      exact congrArg Host.Outcome.next (settle_of_atRest atRest)

/-! ### FLUSH (R17, R20) -/

/-- Whether a notice tells that a segment has retired. -/
def Notice.retires : Notice → Bool
  | .segmentRetired .. => true
  | _ => false

/-- R18: the Finished answer of an entry that a peer has posted. -/
def Entry.answered (e : Entry) (o : Retirement) (s : State) : State :=
  match e.origin with
  | .localPort => s
  | .peer n q => answerPeer n q (.finished o) e.segment.tag s

/-- R17: an entry that has not come to its end asks for no mark. -/
theorem retireEffects_unfinished {o : Retirement} (ho : o = .stopped ∨ o = .flushed) (e : Entry) (s : State) :
    retireEffects e o s = e.answered o (notify (.segmentRetired e.segment.tag e.origin o s.command) s) := by
  rcases ho with rfl | rfl <;> rfl

theorem frames_answered (e : Entry) (o : Retirement) (s : State) : Frames s (e.answered o s) := by
  unfold Entry.answered
  split
  · exact .refl s
  · exact frames_answerPeer _ _ _ _ s

/-- R18: an answer that cannot be sent is told. -/
theorem notices_answered (e : Entry) (o : Retirement) (s : State) :
    ∃ l, (e.answered o s).notices = s.notices ++ l ∧ l.length ≤ 1 ∧ l.filter Notice.retires = [] := by
  have nothing {t : State} (h : t.notices = s.notices) :
      ∃ l, t.notices = s.notices ++ l ∧ l.length ≤ 1 ∧ l.filter Notice.retires = [] :=
    ⟨[], by rw [h, List.append_nil], by simp, rfl⟩
  unfold Entry.answered
  split
  · exact nothing rfl
  · rename_i n q _
    unfold answerPeer
    split
    · rename_i t admitted
      exact nothing (admits_admission admitted).notices
    · by_cases room : s.notices.length < 16
      · exact ⟨_, notify_notices_of_room room, le_rfl, rfl⟩
      · exact nothing (notify_notices_of_full (Nat.le_of_not_lt room))

/-- R17, R20: the entries that retire Flushed tell so in their order, with room for each and its answer. -/
theorem notices_flushEntries (es : List Entry) {s : State} (room : s.notices.length + 2 * es.length ≤ 16) :
    (flushEntries es s).notices.filter Notice.retires = s.notices.filter Notice.retires ++
      es.map fun e => .segmentRetired e.segment.tag e.origin .flushed s.command := by
  unfold flushEntries
  induction es generalizing s with
  | nil => exact (List.append_nil _).symm
  | cons e es ih =>
    rw [List.length_cons] at room
    set told := notify (.segmentRetired e.segment.tag e.origin .flushed s.command) s with ht
    have notices : told.notices = s.notices ++ [.segmentRetired e.segment.tag e.origin .flushed s.command] :=
      notify_notices_of_room (by omega)
    obtain ⟨l, answer, short, other⟩ := notices_answered e .flushed told
    have effects : retireEffects e .flushed s = e.answered .flushed told := retireEffects_unfinished (.inr rfl) e s
    have command : (retireEffects e .flushed s).command = s.command :=
      (frames_retireEffects e (.inr rfl) s).marks.command
    have all : (retireEffects e .flushed s).notices =
        s.notices ++ [.segmentRetired e.segment.tag e.origin .flushed s.command] ++ l := by
      rw [effects, answer, notices]
    rw [List.foldl_cons, ih (by rw [all]; simp only [List.length_append, List.length_singleton]; omega), all, command,
      List.filter_append, List.filter_append, other, List.append_nil, List.append_assoc]
    rfl

theorem exec_flush {s : State} (awaits : s.awaitsCommand = true) :
    exec .flush s = .next (settle (respond .ok [byteOfNat s.flushCount] (flushWaiting s))) := by
  show execFlush s = _
  unfold execFlush
  rw [onPort_of_awaits awaits]

/-- R20: the queue and the axis as a FLUSH leaves them, before the entries retire. -/
def State.unflushed (s : State) : State :=
  { s with
    queue := s.queue.filter fun e => e.state != .waiting
    axis := if (s.queue.filter fun e => e.state != .waiting).isEmpty && s.axis.state == .gated then
        { s.axis with state := .idle } else s.axis }

/-- Settles O11. -/
theorem flushRemovesWhatHasNotRun : Obligations.FlushRemovesWhatHasNotRun := by
  intro s atRest awaits
  set gone := s.queue.filter fun e => e.state == .waiting with hg
  have frames : Frames s.unflushed (flushWaiting s) := frames_flushEntries gone s.unflushed
  have settled : settle (respond .ok [byteOfNat s.flushCount] (flushWaiting s)) =
      respond .ok [byteOfNat s.flushCount] (flushWaiting s) := settle_of_atRest (frames.handed.trans atRest)
  refine ⟨respond .ok [byteOfNat s.flushCount] (flushWaiting s), by rw [exec_flush awaits, settled], frames.marks.queue,
    ?_, rfl, fun room => ?_, ?_⟩
  · have queue : (flushWaiting s).queue = s.queue.filter fun e => e.state != .waiting := frames.marks.queue
    have axis : (flushWaiting s).axis = s.unflushed.axis := frames.marks.axis
    simp only [respond_queue, respond_axis, queue, axis, State.unflushed, Bool.and_eq_true, List.isEmpty_iff, beq_iff_eq]
  · have fewer : gone.length ≤ s.queue.length := List.length_filter_le _ _
    have told := notices_flushEntries gone (s := s.unflushed) (by show s.notices.length + _ ≤ 16; omega)
    intro retired
    have same : retired = Notice.retires := by
      funext n
      cases n <;> rfl
    rw [same]
    exact told
  · have back := congrArg (fun v : State => { v with
      queue := s.queue, axis := s.axis, notices := s.notices, lost := s.lost, outbound := s.outbound
      nextFrame := s.nextFrame, lif := s.lif, port := s.port }) frames.same
    exact (show _ = _ from back)

/-! ### STOP and ABORT (R19, R91) -/

theorem exec_stop {s : State} (awaits : s.awaitsCommand = true) :
    exec .stop s = .next (settle (respond .ok [] (orderStop .decelerating s))) := by
  show execStop s = _
  unfold execStop
  rw [onPort_of_awaits awaits]

theorem exec_abort {s : State} (awaits : s.awaitsCommand = true) :
    exec .abort s = .next (settle (respond .ok [] (orderStop .immediate s))) := by
  show execAbort s = _
  unfold execAbort
  rw [onPort_of_awaits awaits]

theorem headStays_of_running {s : State} (h : s.runningHead.isSome = true) : HeadStays s := by
  obtain ⟨e, he⟩ := Option.isSome_iff_exists.mp h
  obtain ⟨rest, queue, running⟩ := runningHead_eq_some.mp he
  intro x hx waiting
  rw [queue] at hx
  cases hx
  exact absurd (running.symm.trans waiting) (by decide)

/-- R19: a stop leaves an empty queue, or the running head alone. -/
theorem queue_orderStop (k : StopKind) {s : State} (order : QueueInOrder s) :
    (orderStop k s).queue = [] ∨ ∃ e, e.state = .running ∧ (orderStop k s).queue = [e] := by
  have made := stopMade_orderStop k order
  cases hr : s.runningHead with
  | none => exact .inl (made.2.1 (.inr hr)).1
  | some e =>
    obtain ⟨rest, queue, running⟩ := runningHead_eq_some.mp hr
    cases k with
    | immediate => exact .inl (made.2.1 (.inl rfl)).1
    | decelerating =>
      obtain ⟨braking, fast, slow⟩ := made.1 e hr rfl
      rcases (order.2.2 e (by simp [queue])).2 running with moving | dwell
      · by_cases hb : s.axis.state = .braking
        · exact .inr ⟨e, running, (braking hb).1⟩
        · by_cases above : s.config.baseSpeed.toNat * 65536 < s.axis.speed
          · refine .inr ⟨e, running, (fast ?_ above).1⟩
            cases h : s.axis.state <;> simp_all [AxisState.moving]
          · exact .inl (slow hb (.inl (Nat.le_of_not_lt above))).1
      · exact .inl (slow (by simp [dwell]) (.inr dwell)).1

/-- R19: behind a stop no Waiting head is left. -/
theorem headStays_orderStop (k : StopKind) {s : State} (order : QueueInOrder s) : HeadStays (orderStop k s) := by
  rcases queue_orderStop k order with none_left | ⟨e, running, queue⟩
  · exact headStays_of_nil none_left
  · exact headStays_of_running (by rw [runningHead_eq_some.mpr ⟨[], queue, running⟩]; rfl)

theorem Stops.onlyEvaluates {s t : State} (h : Stops s t) (atRest : AtRest s) : OnlyEvaluates t :=
  (congrArg State.handed h.same :).trans (onlyEvaluates_of_atRest atRest)

/-- What waits behind a stop is taken, and no head starts. -/
theorem settle_stopped (k : StopKind) {s : State} (atRest : AtRest s) (order : QueueInOrder s) (code : ResultCode) :
    settle (respond code [] (orderStop k s)) = respond code [] { orderStop k s with handed := .empty } :=
  settle_of_onlyEvaluates (s := respond code [] (orderStop k s)) ((stops_orderStop k s).onlyEvaluates atRest)
    (headStays_orderStop k order)

/-- The state but for what a stop and its answer change. -/
theorem Stops.back {s t : State} (h : Stops s t) (atRest : AtRest s) : { t with
    queue := s.queue, axis := s.axis, notices := s.notices, lost := s.lost, outbound := s.outbound
    nextFrame := s.nextFrame, lif := s.lif, port := s.port, handed := .empty } = s := by
  have back := congrArg (fun v : State => { v with
    queue := s.queue, axis := s.axis, notices := s.notices, lost := s.lost, outbound := s.outbound
    nextFrame := s.nextFrame, lif := s.lif, port := s.port, handed := .empty }) h.same
  refine (show _ = _ from back).trans ?_
  show { s with handed := _ } = s
  rw [← show s.handed = .empty from atRest]

/-- R42: an immediate stop of a running head: the axis has ended, and the head retires first. -/
theorem orderStop_immediate_running {s : State} {e : Entry} (order : QueueInOrder s) (h : s.runningHead = some e) :
    (orderStop .immediate s).queue = [] ∧ (orderStop .immediate s).axis = { s.axis.ended with state := .idle } ∧
      (s.notices.length < 16 → s.notices ++ [.segmentRetired e.segment.tag e.origin .stopped s.command] <+:
        (orderStop .immediate s).notices) := by
  obtain ⟨rest, queue, running⟩ := runningHead_eq_some.mp h
  have stop : orderStop .immediate s = flushBehind (retireHead .stopped s) := by
    unfold orderStop
    rw [h]
  obtain ⟨hq, ha⟩ := retireHead_queue_axis .stopped queue
  have waits := order.1.tail_uncommit queue
  have none_runs : (retireHead .stopped s).runningHead = none := by
    rw [runningHead_eq_none, hq]
    intro x hx
    rw [waits x (List.mem_of_mem_head? hx)]
    decide
  obtain ⟨hq', ha'⟩ := flushBehind_of_not_running none_runs
  rw [stop]
  refine ⟨hq', ?_, fun room => ?_⟩
  · rw [ha', ha, hq]
    split
    · rename_i nil
      rw [nil]
      rfl
    · rfl
  · have told : (notify (.segmentRetired e.segment.tag e.origin .stopped s.command) (s.headless rest)).notices =
        s.notices ++ [.segmentRetired e.segment.tag e.origin .stopped s.command] := notify_notices_of_room room
    refine List.IsPrefix.trans ?_ (stops_flushBehind _).notices
    rw [retireHead_cons _ queue, ← told]
    show _ <+: (retireEffects e .stopped (s.headless rest)).notices
    rw [retireEffects_unfinished (.inl rfl)]
    exact (frames_answered e .stopped _).notices

/-- R41: a decelerating stop of a moving head above base speed. -/
theorem orderStop_decelerating_above {s : State} {e : Entry} (h : s.runningHead = some e)
    (moving : s.axis.state = .rampUp ∨ s.axis.state = .cruise ∨ s.axis.state = .rampDown)
    (fast : s.config.baseSpeed.toNat * 65536 < s.axis.speed) :
    (orderStop .decelerating s).queue = [e] ∧ (orderStop .decelerating s).axis = { s.axis with
      state := .braking, braking := .stop, brakeRate := max e.decelRate (1000 * s.config.stopRate.toNat)
      blend := none, committed := true, found := false } := by
  obtain ⟨hq, ha⟩ := flushBehind_of_running h
  have config : (flushBehind s).config = s.config := (stops_flushBehind s).config
  have stop : orderStop .decelerating s =
      brake .stop ((flushBehind s).stopRateOf e) e (flushBehind s) := by
    have decelerates : orderStop .decelerating s = decelerateHead e (flushBehind s) := by simp only [orderStop, h]
    rw [decelerates, decelerateHead, ha]
    rcases moving with m | m | m <;> rw [m]
  have above := brake_above (c := .stop) (r := (flushBehind s).stopRateOf e) (e := e) (s := flushBehind s)
    (by rw [ha, State.baseUnits, config]; exact fast)
  rw [stop, above.1, above.2, hq, ha, State.stopRateOf, config]
  exact ⟨rfl, rfl⟩

/-- Settles O12. -/
theorem stopAndAbortEndTheMotion : Obligations.StopAndAbortEndTheMotion := by
  intro s atRest awaits
  refine ⟨fun empty => ?_, fun e he running moving fast => ?_, fun order => ?_, fun order e he running => ?_⟩
  · rw [exec_stop awaits, exec_abort awaits, orderStop_of_empty _ empty, orderStop_of_empty _ empty,
      settle_of_atRest (s := respond .ok [] s) atRest]
    exact ⟨rfl, rfl⟩
  · obtain ⟨rest, queue⟩ := List.head?_eq_some_iff.mp he
    obtain ⟨hq, ha⟩ := orderStop_decelerating_above (runningHead_eq_some.mpr ⟨rest, queue, running⟩) moving fast
    have stops := stops_orderStop .decelerating s
    have head : (orderStop .decelerating s).runningHead = some e := runningHead_eq_some.mpr ⟨[], hq, running⟩
    have settled := settle_of_onlyEvaluates (s := respond .ok [] (orderStop .decelerating s))
      (stops.onlyEvaluates atRest) (headStays_of_running (Option.isSome_iff_exists.mpr ⟨e, head⟩))
    refine ⟨_, (exec_stop awaits).trans (congrArg _ settled), hq, ?_⟩
    have axis : ({ respond .ok [] (orderStop .decelerating s) with handed := .empty } : State).axis = _ := ha
    rw [axis]
    exact ⟨rfl, rfl, rfl, rfl, rfl, rfl, rfl, stops.back atRest⟩
  · refine ⟨_, (exec_stop awaits).trans (congrArg _ (settle_stopped _ atRest order _)), ?_⟩
    exact (stopMade_orderStop .decelerating order).congr rfl rfl rfl rfl rfl
  · obtain ⟨rest, queue⟩ := List.head?_eq_some_iff.mp he
    obtain ⟨hq, ha, told⟩ := orderStop_immediate_running order (runningHead_eq_some.mpr ⟨rest, queue, running⟩)
    refine ⟨_, (exec_abort awaits).trans (congrArg _ (settle_stopped _ atRest order _)), hq, ?_⟩
    have axis : (respond .ok [] { orderStop .immediate s with handed := .empty } : State).axis = _ := ha
    rw [axis]
    refine ⟨rfl, rfl, rfl, rfl, rfl, fun room => ?_, (stops_orderStop .immediate s).back atRest⟩
    obtain ⟨more, all⟩ := told room
    show ((orderStop .immediate s).notices.drop s.notices.length).head? = _
    rw [← all, List.append_assoc, List.drop_left]
    rfl

end Sys2Proof.Machine

/-! PROOFS. A segment appended Online to an empty queue (R10 to R13, R24 to R33, R46). -/

namespace Sys2Proof.Machine

/-! ### The head that starts (R11, R12) -/

/-- The appended entry once it runs. -/
def Segment.runs (g : Segment) : Entry := { segment := g, origin := .localPort, state := .running, consumed := false }

/-- The state in which the appended head waits, answered with a depth of 1. -/
def State.appended (g : Segment) (s : State) : State :=
  respond .ok [1] { s with queue := [g.appended], axis := { s.axis with state := .gated } }

/-- The state in which the appended head is about to run. -/
def State.launched (g : Segment) (s : State) : State :=
  respond .ok [1] { s with queue := [g.runs], axis := { s.axis with state := .gated } }

theorem exec_append_of_empty {g : Segment} {bytes : List Byte} {s : State} (awaits : s.awaitsCommand = true)
    (online : s.lifecycle = .online) (free : s.halted = false) (empty : s.queue = [])
    (valid : validSegment s.config bytes = some g) :
    exec (.appendSegment bytes) s = .next (settle (handEvaluate (s.appended g))) := by
  rw [exec_appendSegment awaits, appendLocal_of_valid (by simp [State.takesAppends, online]) free
    (by rw [empty]; decide) valid, enqueue_of_empty g empty, empty]
  rfl

theorem mayStart_of_free {s : State} (online : s.lifecycle = .online) (free : s.halted = false) : s.mayStart = true := by
  simp [State.mayStart, free, online]

/-- R12: an open gate is consumed, and the head runs. -/
theorem settle_appended_of_open {g : Segment} {s t : State} (atRest : AtRest s) (online : s.lifecycle = .online)
    (free : s.halted = false) (opened : s.gateOpen g.gate = true) (consumes : consumeGate g.gate (s.appended g) = some t) :
    settle (handEvaluate (s.appended g)) = settle (runHead watchNow g { t with queue := [g.runs] }) := by
  have may : (s.appended g).mayStart = true := mayStart_of_free online free
  have starts : (g.appended.state == .waiting && (s.appended g).mayStart &&
      (g.appended.consumed || (s.appended g).gateOpen g.appended.segment.gate)) = true := by
    rw [may]
    exact opened
  have started : startHead watchNow g.appended [] (s.appended g) = runHead watchNow g { t with queue := [g.runs] } := by
    show (match consumeGate g.gate (s.appended g) with | some t => _ | none => _) = _
    rw [consumes]
    rfl
  have head : evaluateHead watchNow (s.appended g) = startHead watchNow g.appended [] (s.appended g) := if_pos starts
  rw [settle_handEvaluate (show AtRest (s.appended g) from atRest), head, started]

theorem settle_appended_of_absent {g : Segment} {s : State} (atRest : AtRest s) (online : s.lifecycle = .online)
    (free : s.halted = false) (gate : g.gate = .absent) :
    settle (handEvaluate (s.appended g)) = settle (runHead watchNow g (s.launched g)) := by
  have opened : s.gateOpen g.gate = true := by rw [gate]; rfl
  have consumes : consumeGate g.gate (s.appended g) = some (s.appended g) := by rw [gate]; rfl
  have launched : { s.appended g with queue := [g.runs] } = s.launched g := rfl
  rw [settle_appended_of_open atRest online free opened consumes, launched]

/-! ### The head that ends (R17, R24) -/

/-- The queue is empty, the axis at rest. -/
def State.over (s : State) : State := { s with queue := [], axis := { s.axis.ended with state := .idle } }

/-- R17: an only head of the Local Port without an end mark retires. -/
theorem retireHead_of_single {o : Retirement} {g : Segment} {s : State} (queue : s.queue = [g.runs])
    (mark : g.endMark = none ∨ o = .stopped) :
    retireHead o s = handEvaluate (notify (.segmentRetired g.tag .localPort o s.command) s.over) := by
  rw [retireHead_cons o queue]
  rcases mark with none_marked | rfl
  · cases o <;> simp only [retireEffects, Segment.runs, none_marked, requestMark?] <;> rfl
  · rfl

theorem settle_told_of_empty {n : Notice} {s : State} (atRest : AtRest s) (empty : s.queue = []) :
    settle (handEvaluate (notify n s)) = notify n s := by
  have frames : Frames s (notify n s) := frames_notify n _
  exact settle_handEvaluate_of_headStays (frames.handed.trans atRest)
    (headStays_of_nil (frames.marks.queue.trans empty))

theorem settle_retired {n : Notice} {s : State} (atRest : AtRest s) :
    settle (handEvaluate (notify n s.over)) = notify n s.over := settle_told_of_empty atRest rfl

theorem notify_respond (n : Notice) (code : ResultCode) (data : List Byte) (s : State) :
    notify n (respond code data s) = respond code data (notify n s) := by
  by_cases room : s.notices.length < 16
  · rw [notify_of_room room, notify_of_room (s := respond code data s) room]
    rfl
  · have full := Nat.le_of_not_lt room
    rw [notify_of_full full, notify_of_full (s := respond code data s) full]
    rfl

/-! ### A start mark that is sent (R50, R51) -/

theorem pickIfSilent_eq (s : State) :
    ∃ l, pickIfSilent s = { s with lif := l } ∧ l.sequence = s.lif.sequence := by
  unfold pickIfSilent
  split
  · obtain ⟨x, p, picks⟩ := pick_eq s
    exact ⟨_, picks, rfl⟩
  · exact ⟨s.lif, rfl, rfl⟩

/-- The pending emission of a mark asked for with the present command position. -/
def State.emission (m : Mark) (o : EmitOrigin) (i : Byte) (s : State) : Emission :=
  { mark := m, stamp := some s.command, origin := o, index := i, frame := s.nextFrame }

/-- R51: with room on an open line the MARK frame is admitted and the emission pends. -/
theorem requestMark_admitted {s : State} (sends : s.canSend = true) (room : s.outbound.length < 10) (m : Mark)
    (stamp : Option Position) (o : EmitOrigin) (i : Byte) : ∃ l, requestMark m stamp o i s =
      { s with
        outbound := s.outbound ++ [s.newFrame .broadcast (.mark m stamp)]
        emissions := s.emissions ++ [{ mark := m, stamp, origin := o, index := i, frame := s.nextFrame }]
        lif := l, nextFrame := s.nextFrame + 1 } ∧ l.sequence = s.lif.sequence + 1 := by
  obtain ⟨l, picks, sequence⟩ := pickIfSilent_eq
    { s with
      outbound := s.outbound ++ [s.newFrame .broadcast (.mark m stamp)]
      nextFrame := s.nextFrame + 1
      lif := { s.lif with sequence := s.lif.sequence + 1 } }
  refine ⟨l, ?_, sequence⟩
  rw [requestMark, if_pos sends, admission_of_open sends room, picks]

/-- The same with the present command position as the stamp. -/
theorem requestMark_sent {s : State} (sends : s.canSend = true) (room : s.outbound.length < 10) (m : Mark)
    (o : EmitOrigin) (i : Byte) : ∃ l, requestMark m (some s.command) o i s =
      { s with
        outbound := s.outbound ++ [s.newFrame .broadcast (.mark m (some s.command))]
        emissions := s.emissions ++ [s.emission m o i]
        lif := l, nextFrame := s.nextFrame + 1 } ∧ l.sequence = s.lif.sequence + 1 :=
  requestMark_admitted sends room m (some s.command) o i

/-- The same for a mark that may be absent. -/
theorem requestMark?_sent {m : Option Mark} {s : State} (h : m = none ∨ s.canSend = true ∧ s.outbound.length < 10)
    (o : EmitOrigin) (i : Byte) : ∃ l n, requestMark? m o i s =
      { s with
        outbound := s.outbound ++ m.toList.map fun m => s.newFrame .broadcast (.mark m (some s.command))
        emissions := s.emissions ++ m.toList.map fun m => s.emission m o i
        lif := l, nextFrame := n } ∧ (m = none → l = s.lif) := by
  cases m with
  | none => exact ⟨s.lif, s.nextFrame, by simp [requestMark?], fun _ => rfl⟩
  | some m =>
    obtain ⟨sends, room⟩ := h.resolve_left (by simp)
    obtain ⟨l, sent, -⟩ := requestMark_sent sends room m o i
    exact ⟨l, _, sent, fun h => nomatch h⟩

/-! ### The first pulse (R25 to R28) -/

/-- R27: the direction, the pulses and the ramp of a segment that moves k counts in a direction, or on and on for k = 0. -/
theorem body_of_moves {b : SegmentBody} {p w : Position} {d : Dir} {k : Nat} {r : Ramp}
    (h : b = .run d r ∧ k = 0 ∨ 1 ≤ k ∧ (b = .moveRel w r ∧ w.toInt = d.counts k ∨
      b = .moveAbs w r ∧ w.toInt = p.toInt + d.counts k)) :
    b.ramp = some r ∧ b.dirAt p = some d ∧ b.pulsesAt p = k ∧ b.isMove = decide (1 ≤ k) ∧
      (∀ s, findsAtStart b s = false) ∧ (∀ d, b.exemptLimit d = false) := by
  rcases h with ⟨rfl, rfl⟩ | ⟨pos, ⟨rfl, way⟩ | ⟨rfl, way⟩⟩
  · exact ⟨rfl, rfl, rfl, rfl, fun _ => rfl, fun _ => rfl⟩
  · refine ⟨rfl, ?_, ?_, (decide_eq_true pos).symm, fun _ => rfl, fun _ => rfl⟩
    · have sign : w.msb = decide (w.toInt < 0) := by rw [BitVec.msb_eq_toInt]
      simp only [SegmentBody.dirAt, sign, way]
      cases d
      · simp [Dir.counts, show ¬ (k : Int) < 0 by omega]
      · simp [Dir.counts, show 0 < k from pos]
    · simp only [SegmentBody.pulsesAt, way]
      cases d <;> simp [Dir.counts]
  · refine ⟨rfl, ?_, ?_, (decide_eq_true pos).symm, fun _ => rfl, fun _ => rfl⟩
    · simp only [SegmentBody.dirAt, dirTo, way]
      cases d
      · simp [Dir.counts, show 0 < k from pos]
      · simp [Dir.counts, show 0 < k from pos]
    · simp only [SegmentBody.pulsesAt, way]
      cases d <;> simp [Dir.counts]

theorem runHead_of_motion {watch : WatchTake} {g : Segment} {r : Ramp} {d : Dir} {s : State}
    (ramp : g.body.ramp = some r) (dir : g.body.dirAt s.command = some d) :
    runHead watch g s = startMotion watch g r d s := by
  unfold runHead
  cases body : g.body <;> rw [body] at ramp dir <;> simp_all [SegmentBody.ramp, SegmentBody.dirAt]

/-- R46: with the software limits disabled a step within the range is made. -/
theorem stepRefused_of_room {d : Dir} {s : State} (disabled : s.config.softEnabled = false)
    (plus : d = .plus → s.command.toInt < 2147483647) (minus : d = .minus → -2147483648 < s.command.toInt) :
    stepRefused d s = false := by
  unfold stepRefused softCompared
  cases d with
  | plus => simpa [disabled] using plus rfl
  | minus => simpa [disabled] using minus rfl

/-- R46: a step beyond a software limit that the command position has reached is refused. -/
theorem stepRefused_at_limit {d : Dir} {s : State} (enabled : s.config.softEnabled = true) (motion : s.axis.state ≠ .braking)
    (edge : (match d with | .plus => s.config.softMax | .minus => s.config.softMin) = s.command) :
    stepRefused d s = true := by
  have compared : softCompared d s = true := by simp [softCompared, enabled, motion]
  cases d with
  | plus =>
    simp only at edge
    simp [stepRefused, compared, edge]
  | minus =>
    simp only at edge
    simp [stepRefused, compared, edge]

/-- R26: the axis state and the speed after the first pulse from standstill. -/
def firstSpeed (r : Ramp) (base : Nat) : AxisState × Nat :=
  if r.top ≤ base then (.cruise, r.top * 65536)
  else if r.top * 65536 ≤ base * 65536 + speedStep r.accelRate (base * 65536) then (.cruise, r.top * 65536)
  else (.rampUp, base * 65536 + speedStep r.accelRate (base * 65536))

theorem startSpeed_of_standstill (top base : Nat) : startSpeed top (base * 65536) (base * 65536) =
    if top ≤ base then (.cruise, top * 65536) else (.rampUp, base * 65536) := by
  unfold startSpeed
  by_cases h : top ≤ base
  · rw [if_pos (by omega), if_pos h]
  · rw [if_neg (by omega), if_neg h, max_self]
    simp only [if_neg (show ¬ base * 65536 = top * 65536 by omega)]

theorem startSpeed_le_base (top base : Nat) : (startSpeed top (base * 65536) (base * 65536)).2 ≤ base * 65536 := by
  rw [startSpeed_of_standstill]
  split <;> simp only <;> omega

theorem speedAfter_first {e : Entry} {r : Ramp} {s : State} {base : Nat} (ramp : e.segment.body.ramp = some r)
    (axis : (s.axis.state, s.axis.speed) = startSpeed r.top (base * 65536) (base * 65536)) :
    speedAfter e s = firstSpeed r base := by
  rw [startSpeed_of_standstill] at axis
  unfold speedAfter firstSpeed
  by_cases h : r.top ≤ base
  · rw [if_pos h] at axis ⊢
    obtain ⟨state, speed⟩ := Prod.mk.inj axis
    rw [state, speed]
  · rw [if_neg h] at axis ⊢
    obtain ⟨state, speed⟩ := Prod.mk.inj axis
    rw [state, speed, ramp]

theorem emitPulse_eq (e : Entry) (s : State) : emitPulse e s = setCommand (stepTo s.axis.dir s.command)
    { s with
      axis := { s.axis with
        state := (speedAfter e s).1, speed := (speedAfter e s).2
        remaining := if e.segment.body.isMove then s.axis.remaining - 1 else s.axis.remaining
        pulseTimer := interval (speedAfter e s).2
        pulseOut := some (pulsePin s.axis.pulseMode s.axis.dir) } } := rfl

theorem setCommand_of_off {p : Position} {s : State} (off : s.config.encoder = .off) :
    setCommand p s = { s with command := p, measured := p } := by
  rw [setCommand, if_pos off]

theorem firstSpeed_state (r : Ramp) (base : Nat) : (firstSpeed r base).1 = .rampUp ∨ (firstSpeed r base).1 = .cruise := by
  unfold firstSpeed
  split
  · exact .inr rfl
  · split
    · exact .inr rfl
    · exact .inl rfl

/-- R28: while it ramps up or cruises a segment ends with its last pulse. -/
theorem endMotion_of_running {e : Entry} {s : State} (runs : s.runningHead = some e)
    (motion : s.axis.state = .rampUp ∨ s.axis.state = .cruise) :
    endMotion s = if (e.segment.body.isMove && s.axis.remaining == 0) = true then endMove s else s := by
  unfold endMotion
  rw [runs]
  rcases motion with h | h <;> simp only [h]

/-- R36: behind a head without a successor the plan is base speed, and the head is Completed. -/
theorem endMove_of_single {g : Segment} {s : State} (queue : s.queue = [g.runs]) (opened : s.axis.committed = false)
    (mark : g.endMark = none) :
    endMove s = handEvaluate (notify (.segmentRetired g.tag .localPort .completed s.command) s.over) := by
  have plan : planOf s = none := by rw [planOf, queue]
  have committed : commitPlan (replan s) = { s with axis := { s.axis with blend := none, committed := true } } := by
    rw [replan, opened, plan]
    simp [commitPlan, opened]
  show (if (commitPlan (replan s)).blendCommitted = true then junction (commitPlan (replan s))
    else retireHead .completed (commitPlan (replan s))) = _
  rw [committed, if_neg (by simp [State.blendCommitted]), retireHead_of_single (g := g) (by exact queue) (.inl mark)]
  rfl

/-- The moving head at standstill, its start mark asked for. -/
def State.departing (g : Segment) (r : Ramp) (d : Dir) (o : List OutFrame) (m : List Emission) (l : Lif) (n : Nat)
    (s : State) : State :=
  { (s.launched g).setOut g r d with outbound := o, emissions := m, lif := l, nextFrame := n }

/-- The state once the first pulse has come, before the end of the motion is judged. -/
def State.stepped (g : Segment) (r : Ramp) (d : Dir) (s : State) : State :=
  { s with
    command := stepTo d s.command, measured := stepTo d s.command
    axis := { s.axis with
      state := (firstSpeed r s.config.baseSpeed.toNat).1, speed := (firstSpeed r s.config.baseSpeed.toNat).2
      remaining := if g.body.isMove then s.axis.remaining - 1 else s.axis.remaining
      pulseTimer := interval (firstSpeed r s.config.baseSpeed.toNat).2
      pulseOut := some (pulsePin s.axis.pulseMode s.axis.dir) } }

section
variable {g : Segment} {r : Ramp} {d : Dir} {o : List OutFrame} {m : List Emission} {l : Lif} {n : Nat} {s : State}

theorem decelerationPoint_of_departing (e : Entry) :
    decelerationPoint e (s.departing g r d o m l n) = s.departing g r d o m l n := by
  have slow : ¬ (s.departing g r d o m l n).floorUnits < (s.departing g r d o m l n).axis.speed := by
    have floor : s.baseUnits ≤ (s.departing g r d o m l n).floorUnits := le_max_right _ _
    have speed : (s.departing g r d o m l n).axis.speed = (startSpeed r.top s.baseUnits s.baseUnits).2 := rfl
    have start : (startSpeed r.top s.baseUnits s.baseUnits).2 ≤ s.baseUnits :=
      startSpeed_le_base r.top s.config.baseSpeed.toNat
    omega
  rw [decelerationPoint, if_neg]
  simp [atDecelerationPoint, slow]

/-- R25: the first pulse, with nothing that watches and no gap to check. -/
theorem pulse_of_departing (ramp : g.body.ramp = some r) (unarmed : NoWatchArmed s) (off : s.config.encoder = .off)
    (made : stepRefused d (s.departing g r d o m l n) = false) :
    pulse watchNow (s.departing g r d o m l n) = endMotion ((s.departing g r d o m l n).stepped g r d) := by
  have moving : (s.departing g r d o m l n).axis.state.moving = true := startSpeed_moving _ _ _
  have plan : replan (s.departing g r d o m l n) = s.departing g r d o m l n := rfl
  have speed : speedAfter g.runs (s.departing g r d o m l n) = firstSpeed r s.config.baseSpeed.toNat :=
    speedAfter_first ramp rfl
  have emitted : emitPulse g.runs (s.departing g r d o m l n) = (s.departing g r d o m l n).stepped g r d := by
    rw [emitPulse_eq, speed, setCommand_of_off (by exact off)]
    rfl
  have watched (v : List (WatchSource × Position)) : watchNow v ((s.departing g r d o m l n).stepped g r d) =
      (s.departing g r d o m l n).stepped g r d :=
    watchNow_of_unarmed (s := (s.departing g r d o m l n).stepped g r d) unarmed v
  have gap : checkGap ((s.departing g r d o m l n).stepped g r d) = (s.departing g r d o m l n).stepped g r d :=
    checkGap_of_not (Bool.eq_false_iff.mpr fun h => (gapExceeds_eq_true.mp h).1 off)
  show (if (s.departing g r d o m l n).axis.state.moving = true then
    let u := decelerationPoint g.runs (replan (s.departing g r d o m l n))
    if stepRefused u.axis.dir u then refuseStep u
    else endMotion (checkGap (watchNow (emitPulse g.runs u).commandValues (emitPulse g.runs u))) else _) = _
  rw [if_pos moving, plan, decelerationPoint_of_departing]
  show (if stepRefused d (s.departing g r d o m l n) = true then _ else _) = _
  rw [if_neg (by simp [made]), emitted, watched, gap]

theorem endMotion_of_stepped : endMotion ((s.departing g r d o m l n).stepped g r d) =
    if (g.body.isMove && ((s.departing g r d o m l n).stepped g r d).axis.remaining == 0) = true then
      endMove ((s.departing g r d o m l n).stepped g r d)
    else (s.departing g r d o m l n).stepped g r d :=
  endMotion_of_running (e := g.runs) rfl (firstSpeed_state r s.config.baseSpeed.toNat)

end

/-- R46: whether a first step in a direction is within the range, the software limits disabled. -/
def State.roomFor (d : Dir) (s : State) : Prop :=
  s.config.softEnabled = false ∧ (d = .plus → s.command.toInt < 2147483647) ∧
    (d = .minus → -2147483648 < s.command.toInt)

theorem startMotion_of_departing {g : Segment} {r : Ramp} {d : Dir} {s : State} (room : s.roomFor d)
    (clear : (s.inputActive (limitInput d) && !g.body.exemptLimit d) = false)
    (mark : g.startMark = none ∨ s.canSend = true ∧ s.outbound.length < 10) : ∃ l n,
      (g.startMark = none → l = s.lif) ∧
      let u := s.departing g r d (s.outbound ++ g.startMark.toList.map fun m => s.newFrame .broadcast (.mark m (some s.command)))
        (s.emissions ++ g.startMark.toList.map fun m => s.emission m .start g.tag) l n
      startMotion watchNow g r d (s.launched g) =
        if findsAtStart g.body u then seekFind watchNow true u else pulse watchNow u := by
  obtain ⟨disabled, plus, minus⟩ := room
  obtain ⟨l, n, sent, lif⟩ := requestMark?_sent (s := (s.launched g).setOut g r d) (m := g.startMark) mark .start g.tag
  have made : stepRefused d ((s.launched g).setOut g r d) = false := stepRefused_of_room disabled plus minus
  have may : startRefusal g.body d ((s.launched g).setOut g r d) = none := by
    rw [startRefusal, made]
    show (if (s.inputActive (limitInput d) && !g.body.exemptLimit d) = true then _ else _) = _
    rw [clear]
    rfl
  refine ⟨l, n, lif, ?_⟩
  rw [startMotion_eq, may]
  simp only
  rw [sent]
  rfl

/-- What the first pulse of the appended head has made of the state, before the end of its motion is judged. -/
structure FirstStep (g : Segment) (r : Ramp) (d : Dir) (k : Nat) (s u : State) : Prop where
  queue : u.queue = [g.runs]
  command : u.command = stepTo d s.command
  measured : u.measured = u.command
  dir : u.axis.dir = d
  mode : u.axis.pulseMode = s.config.pulseMode
  pin : u.axis.pulseOut = some (if s.config.pulseMode = .cwCcw ∧ d = .minus then .dirCcw else .stepCw)
  remaining : u.axis.remaining = k - 1
  speed : (u.axis.state, u.axis.speed) = firstSpeed r s.config.baseSpeed.toNat
  timer : u.axis.pulseTimer = interval u.axis.speed
  outbound : u.outbound = s.outbound ++ g.startMark.toList.map fun m => s.newFrame .broadcast (.mark m (some s.command))
  emissions : u.emissions = s.emissions ++ g.startMark.toList.map fun m => s.emission m .start g.tag
  lif : g.startMark = none → u.lif = s.lif
  answered : u.port = { s.port with taken := true, result := [0, 1] }
  same : { u with
    queue := s.queue, axis := s.axis, command := s.command, measured := s.measured, outbound := s.outbound
    emissions := s.emissions, nextFrame := s.nextFrame, lif := s.lif, port := s.port } = s

theorem FirstStep.notices {g : Segment} {r : Ramp} {d : Dir} {k : Nat} {s u : State} (h : FirstStep g r d k s u) :
    u.notices = s.notices := (congrArg State.notices h.same :)

theorem firstStep_stepped {g : Segment} {r : Ramp} {d : Dir} {k : Nat} {l : Lif} {n : Nat} {s : State}
    (lif : g.startMark = none → l = s.lif) (pulses : g.body.pulsesAt s.command = k)
    (isMove : g.body.isMove = decide (1 ≤ k)) :
    FirstStep g r d k s ((s.departing g r d
      (s.outbound ++ g.startMark.toList.map fun m => s.newFrame .broadcast (.mark m (some s.command)))
      (s.emissions ++ g.startMark.toList.map fun m => s.emission m .start g.tag) l n).stepped g r d) := by
  refine ⟨rfl, rfl, rfl, rfl, rfl, ?_, ?_, rfl, rfl, rfl, rfl, lif, rfl, rfl⟩
  · show some (pulsePin s.config.pulseMode d) = _
    cases s.config.pulseMode <;> cases d <;> rfl
  · show (if g.body.isMove = true then g.body.pulsesAt s.command - 1 else g.body.pulsesAt s.command) = _
    rw [isMove, pulses]
    split
    · rfl
    · rename_i none_left
      have : ¬ 1 ≤ k := fun h => none_left (decide_eq_true h)
      omega

/-- R25 to R28: a RUN, MOVE_REL or MOVE_ABS of the appended head: its first pulse, and its end where that was the last. -/
theorem settle_moves {g : Segment} {r : Ramp} {d : Dir} {k : Nat} {w : Position} {s : State} (atRest : AtRest s)
    (moves : g.body = .run d r ∧ k = 0 ∨ 1 ≤ k ∧ (g.body = .moveRel w r ∧ w.toInt = d.counts k ∨
      g.body = .moveAbs w r ∧ w.toInt = s.command.toInt + d.counts k))
    (off : s.config.encoder = .off) (unarmed : NoWatchArmed s) (room : s.roomFor d)
    (clear : s.inputActive (limitInput d) = false)
    (mark : g.startMark = none ∨ s.canSend = true ∧ s.outbound.length < 10) (last : k = 1 → g.endMark = none) :
    ∃ u, FirstStep g r d k s u ∧ settle (runHead watchNow g (s.launched g)) =
      if k = 1 then notify (.segmentRetired g.tag .localPort .completed u.command) u.over else u := by
  obtain ⟨ramp, dir, pulses, isMove, finds, exempt⟩ := body_of_moves moves
  obtain ⟨l, n, lif, starts⟩ := startMotion_of_departing (r := r) (g := g) room (by rw [clear]; rfl) mark
  have made : ∀ o m, stepRefused d (s.departing g r d o m l n) = false := fun o m =>
    stepRefused_of_room room.1 room.2.1 room.2.2
  have step := firstStep_stepped (r := r) (d := d) (n := n) lif pulses isMove
  refine ⟨_, step, ?_⟩
  rw [runHead_of_motion (s := s.launched g) ramp dir, starts, finds, if_neg (by decide),
    pulse_of_departing ramp unarmed off (made _ _), endMotion_of_stepped, step.remaining, isMove]
  by_cases one : k = 1
  · rw [if_pos (by simp [one]), if_pos one, endMove_of_single (g := g) rfl rfl (last one)]
    exact settle_retired atRest
  · rw [if_neg one, if_neg (by simp; omega)]
    exact settle_of_atRest atRest

/-! ### A SEEK that finds at its start (R32, R33) -/

theorem seekFind_at_standstill {watch : WatchTake} {e : Entry} {d : Dir} {i : Input} {zero : Bool} {k : StopKind} {r : Ramp}
    {s : State} (runs : s.runningHead = some e) (body : e.segment.body = .seek d i zero k r) :
    seekFind watch true s =
      retireHead .completed (zeroAtFind watch zero { s with axis := { s.axis with found := true } }) := by
  unfold seekFind
  rw [runs]
  simp only [body]
  rfl

theorem settle_seek {g : Segment} {d : Dir} {i : Input} {zero : Bool} {k : StopKind} {r : Ramp} {s : State}
    (atRest : AtRest s) (body : g.body = .seek d i zero k r) (unarmed : NoWatchArmed s) (room : s.roomFor d)
    (active : s.inputActive i = true) (clear : s.inputActive (limitInput d) = false ∨ i = limitInput d)
    (start : g.startMark = none) (finish : g.endMark = none) :
    ∃ a : Axis, a.state = .idle ∧ a.speed = 0 ∧ a.dir = d ∧ settle (runHead watchNow g (s.launched g)) =
      notify (.segmentRetired g.tag .localPort .completed (if zero then 0 else s.command))
        (respond .ok [1] { s with
          queue := [], axis := a, command := if zero then 0 else s.command, measured := if zero then 0 else s.measured }) := by
  have exempt : (s.inputActive (limitInput d) && !g.body.exemptLimit d) = false := by
    rcases clear with h | h
    · rw [h]
      rfl
    · simp [body, SegmentBody.exemptLimit, h]
  set v := (s.launched g).setOut g r d with hv
  have made : stepRefused d v = false := stepRefused_of_room room.1 room.2.1 room.2.2
  have may : startRefusal g.body d v = none := by
    rw [startRefusal, made]
    show (if (s.inputActive (limitInput d) && !g.body.exemptLimit d) = true then _ else _) = _
    rw [exempt]
    rfl
  have finds : findsAtStart g.body v = true := by
    rw [body]
    exact active
  have started : runHead watchNow g (s.launched g) = seekFind watchNow true v := by
    rw [runHead_of_motion (r := r) (d := d) (s := s.launched g) (by rw [body]; rfl) (by rw [body]; rfl), startMotion_eq, may, start]
    exact if_pos finds
  have zeroed : zeroAtFind watchNow zero { v with axis := { v.axis with found := true } } = { v with
      axis := { v.axis with found := true }, command := if zero then 0 else s.command
      measured := if zero then 0 else s.measured } := by
    cases zero with
    | false => rfl
    | true =>
      rw [zeroAtFind, if_pos rfl, jumpPositions, watchNow_of_unarmed (by exact unarmed)]
      rfl
  refine ⟨{ v.axis.ended with state := .idle }, rfl, rfl, rfl, ?_⟩
  rw [started, seekFind_at_standstill (e := g.runs) rfl body, zeroed,
    retireHead_of_single (g := g) (by rfl) (.inl finish)]
  exact settle_retired atRest

/-! ### A start that is refused (R27, R46) -/

/-- R41, R42: a stop of an only head of the Local Port at or below base speed. -/
theorem orderStop_of_single {g : Segment} {s : State} (k : StopKind) (queue : s.queue = [g.runs])
    (motion : s.axis.state = .rampUp ∨ s.axis.state = .cruise) (slow : s.axis.speed ≤ s.baseUnits) :
    orderStop k s = handEvaluate (notify (.segmentRetired g.tag .localPort .stopped s.command) s.over) := by
  have runs : s.runningHead = some g.runs := runningHead_eq_some.mpr ⟨[], queue, rfl⟩
  have retired := retireHead_of_single (o := .stopped) queue (.inr rfl)
  cases k with
  | immediate =>
    have none_left : (retireHead .stopped s).queue = [] := by
      rw [retired]
      exact (frames_notify _ s.over).marks.queue
    simp only [orderStop, runs]
    rw [flushBehind, none_left]
    exact retired
  | decelerating =>
    have alone : flushBehind s = s := by
      rw [flushBehind, queue]
      show (if g.runs.state = .running then flushEntries [] { s with queue := [g.runs] } else _) = s
      rw [if_pos (show g.runs.state = .running from rfl), ← queue]
      rfl
    have stopped : decelerateHead g.runs s = retireHead .stopped s := by
      unfold decelerateHead
      rcases motion with h | h <;> rw [h] <;> exact brake_below slow
    simp only [orderStop, runs]
    rw [alone, stopped, retired]

theorem startSpeed_state (top base : Nat) : (startSpeed top (base * 65536) (base * 65536)).1 = .rampUp ∨
    (startSpeed top (base * 65536) (base * 65536)).1 = .cruise := by
  rw [startSpeed_of_standstill]
  split
  · exact .inr rfl
  · exact .inl rfl

theorem over_notify (n : Notice) (s : State) : (notify n s).over = notify n s.over := by
  rw [notify_eq]
  by_cases room : s.notices.length < 16
  · rw [notify_of_room room, notify_of_room (s := s.over) room]
    rfl
  · have full := Nat.le_of_not_lt room
    rw [notify_of_full full, notify_of_full (s := s.over) full]
    rfl

theorem has_of_not_nonempty {f : FaultSet} (h : f.nonempty = false) (c : Cause) : f.has c = false := by
  simp only [FaultSet.nonempty, Bool.or_eq_false_iff] at h
  cases c <;> simp [FaultSet.has, h]

theorem settle_refused {g : Segment} {r : Ramp} {d : Dir} {x : Cause} {s : State} (atRest : AtRest s)
    (free : s.halted = false) (ramp : g.body.ramp = some r) (dir : g.body.dirAt s.command = some d)
    (refused : startRefusal g.body d ((s.launched g).setOut g r d) = some x) (mute : propagates s.config x = false) :
    ∃ a : Axis, a.state = .idle ∧ a.speed = 0 ∧ a.dir = d ∧ settle (runHead watchNow g (s.launched g)) =
      notify (.segmentRetired g.tag .localPort .stopped s.command) (notify (.fault x s.command)
        (respond .ok [1] { s with queue := [], axis := a, faults := s.faults.put x true })) := by
  set v := (s.launched g).setOut g r d with hv
  have started : runHead watchNow g (s.launched g) = raiseCause x v := by
    rw [runHead_of_motion (s := s.launched g) ramp dir, startMotion_eq, refused]
  have new : v.faults.has x = false := by
    have none_held : s.faults.nonempty = false := by
      rw [State.halted, Bool.or_eq_false_iff] at free
      exact free.1
    exact has_of_not_nonempty none_held x
  set told := notify (.fault x v.command) { v with faults := v.faults.put x true } with htold
  have frames : Frames { v with faults := v.faults.put x true } told := frames_notify _ _
  have command : told.command = s.command := frames.marks.command
  have config : told.config = s.config := frames.marks.config
  have axis : told.axis = v.axis := frames.marks.axis
  have slow : told.axis.speed ≤ told.baseUnits := by
    have start : (startSpeed r.top s.baseUnits s.baseUnits).2 ≤ s.baseUnits := startSpeed_le_base r.top s.config.baseSpeed.toNat
    rw [axis, State.baseUnits, config]
    exact start
  have motion : told.axis.state = .rampUp ∨ told.axis.state = .cruise := by
    rw [axis]
    exact startSpeed_state r.top s.config.baseSpeed.toNat
  have stopped := orderStop_of_single (stopKindOf v.config x) (g := g) frames.marks.queue motion slow
  have raised : raiseCause x v =
      handEvaluate (notify (.segmentRetired g.tag .localPort .stopped told.command) told.over) := by
    have calm (u : State) (h : u.config = s.config) : raiseByCause x u = u := by
      rw [raiseByCause, h, mute]
      rfl
    rw [raiseCause, if_neg (by simp [new]), stopped]
    exact calm _ ((frames_notify _ told.over).marks.config.trans config)
  refine ⟨{ v.axis.ended with state := .idle }, rfl, rfl, rfl, ?_⟩
  have rest : AtRest told := frames.handed.trans atRest
  rw [started, raised, settle_retired rest, command, htold, over_notify]
  rfl

/-! ### A SETPOS (R30) -/

/-- R30: both positions jump, with nothing that watches and no gap between them. -/
theorem jumped {x : Position} {s : State} (unarmed : NoWatchArmed s) :
    checkGap (jumpPositions watchNow x x s) = { s with command := x, measured := x } := by
  have agree : ¬ s.config.gapLimit.toNat < (x - x).toInt.natAbs := by simp
  rw [jumpPositions, watchNow_of_unarmed (by exact unarmed)]
  refine checkGap_of_not ?_
  rw [gapExceeds, Bool.and_eq_false_iff]
  exact .inr (decide_eq_false agree)

theorem runHead_of_setpos {x : Position} {g : Segment} {s : State} (body : g.body = .setpos x)
    (unarmed : NoWatchArmed (requestMark? g.startMark .start g.tag s)) : runHead watchNow g s = retireHead .completed
      { requestMark? g.startMark .start g.tag s with command := x, measured := x } := by
  unfold runHead
  rw [body]
  simp only
  rw [jumped unarmed]

/-- R17, R50: an only head of the Local Port with an end mark retires. -/
theorem retireHead_of_marked {g : Segment} {m : Mark} {s : State} (queue : s.queue = [g.runs]) (mark : g.endMark = some m) :
    retireHead .completed s = handEvaluate (notify (.segmentRetired g.tag .localPort .completed
      (requestMark m (some s.command) .finish g.tag s.over).command)
        (requestMark m (some s.command) .finish g.tag s.over)) := by
  rw [retireHead_cons _ queue]
  simp only [retireEffects, Segment.runs, mark, requestMark?]
  rfl

/-- R50, R51: a SETPOS with both marks on an open line: each is stamped with the position that then stands. -/
theorem settle_setpos_marked {x : Position} {a b : Mark} {g : Segment} {s : State} (atRest : AtRest s)
    (unarmed : NoWatchArmed s) (body : g.body = .setpos x) (start : g.startMark = some a) (finish : g.endMark = some b)
    (sends : s.canSend = true) (fits : s.outbound.length < 9) : ∃ l axis,
      settle (runHead watchNow g (s.launched g)) = notify (.segmentRetired g.tag .localPort .completed x)
        (respond .ok [1] { s with
          queue := [], axis := axis, command := x, measured := x, lif := l, nextFrame := s.nextFrame + 1 + 1
          outbound := s.outbound ++ [s.newFrame .broadcast (.mark a (some s.command))] ++
            [{ s.newFrame .broadcast (.mark b (some x)) with id := s.nextFrame + 1, sequence := s.lif.sequence + 1 }]
          emissions := s.emissions ++ [s.emission a .start g.tag] ++
            [{ mark := b, stamp := some x, origin := .finish, index := g.tag, frame := s.nextFrame + 1 }] }) := by
  obtain ⟨l, sent, sequence⟩ := requestMark_sent (s := s.launched g) sends (Nat.lt_succ_of_lt fits) a .start g.tag
  have ran : runHead watchNow g (s.launched g) = _ := runHead_of_setpos (s := s.launched g) body
    (by rw [start, show requestMark? (some a) .start g.tag (s.launched g) = _ from sent]; exact unarmed)
  rw [start, show requestMark? (some a) .start g.tag (s.launched g) = _ from sent] at ran
  set v : State := { s.launched g with
    outbound := s.outbound ++ [s.newFrame .broadcast (.mark a (some s.command))]
    emissions := s.emissions ++ [s.emission a .start g.tag], lif := l, nextFrame := s.nextFrame + 1
    command := x, measured := x } with hv
  have room : v.over.outbound.length < 10 := by
    show (s.outbound ++ [_]).length < 10
    rw [List.length_append]
    exact Nat.add_lt_add_right fits 1
  obtain ⟨l', sent', -⟩ := requestMark_sent (s := v.over) sends room b .finish g.tag
  have counter : v.over.lif.sequence = s.lif.sequence + 1 := sequence
  refine ⟨l', { s.axis.ended with state := .idle }, ?_⟩
  have retired := retireHead_of_marked (s := v) rfl finish
  rw [show requestMark b (some v.command) .finish g.tag v.over = _ from sent'] at retired
  rw [show runHead watchNow g (s.launched g) = retireHead .completed v from ran, retired, settle_told_of_empty (by exact atRest) rfl]
  simp only [State.newFrame, counter]
  rfl

/-- R30: a MOVE_ABS of distance 0 completes at once. -/
theorem runHead_of_reached {watch : WatchTake} {g : Segment} {r : Ramp} {s : State} (body : g.body = .moveAbs s.command r)
    (start : g.startMark = none) : runHead watch g s = retireHead .completed s := by
  have reached : g.body.dirAt s.command = none := by rw [body]; simp [SegmentBody.dirAt, dirTo]
  unfold runHead
  rw [body] at reached ⊢
  simp only [reached, start, SegmentBody.ramp, requestMark?]

/-- R13: the Reaction Table once an open gate is consumed. -/
def State.consumed (g : Gate) (s : State) : List Reaction :=
  match g with
  | .tally k => s.reactions.set k.val { s.reaction k with tally := (s.reaction k).tally - 1 }
  | _ => s.reactions

theorem consumeGate_of_open {g : Gate} {s : State} (opened : s.gateOpen g = true) :
    consumeGate g s = some { s with reactions := s.consumed g } := by
  cases g with
  | tally k =>
    have counted : (s.reactions.getD k.val .cleared).tally ≠ 0 := by simpa [State.gateOpen] using opened
    simp only [consumeGate, if_neg counted]
    rfl
  | absent | watch _ | input _ _ => rfl

/-- R35: the appended DWELL. -/
theorem settle_dwell {g : Segment} {n : Nat} {s : State} (atRest : AtRest s) (online : s.lifecycle = .online)
    (free : s.halted = false) (opened : s.gateOpen g.gate = true) (body : g.body = .dwell n) (start : g.startMark = none) :
    settle (handEvaluate (s.appended g)) = respond .ok [1] { s with
      queue := [g.runs], axis := { s.axis.ended with state := .dwell, dwellTimer := 16000 * n }
      reactions := s.consumed g.gate } := by
  have consumes : consumeGate g.gate (s.appended g) = some { s.appended g with reactions := s.consumed g.gate } :=
    consumeGate_of_open (s := s.appended g) opened
  rw [settle_appended_of_open atRest online free opened consumes]
  unfold runHead
  rw [body, start]
  exact settle_of_atRest atRest

/-! ### The obligation -/

theorem firstSpeed_above {r : Ramp} {base : Nat} (above : base < r.top) :
    (firstSpeed r base).2 = min (r.top * 65536) (base * 65536 + 1000 * r.accel * 65536 * 65536 / (base * 65536)) ∧
      ((firstSpeed r base).1 = .cruise ↔ (firstSpeed r base).2 = r.top * 65536) ∧
      ((firstSpeed r base).1 = .rampUp ↔ (firstSpeed r base).2 ≠ r.top * 65536) := by
  unfold firstSpeed speedStep Ramp.accelRate
  rw [if_neg (by omega)]
  split
  · rename_i reached
    exact ⟨(min_eq_left reached).symm, by simp, by simp⟩
  · rename_i below
    refine ⟨(min_eq_right (by omega)).symm, ?_, ?_⟩
    · simp only [reduceCtorEq, false_iff]
      omega
    · simp only [true_iff]
      omega

theorem firstSpeed_below {r : Ramp} {base : Nat} (below : r.top ≤ base) : firstSpeed r base = (.cruise, r.top * 65536) :=
  if_pos below

/-- Settles O10. -/
theorem appendedRunStartsAtOnce : Obligations.AppendedRunStartsAtOnce := by
  intro s bytes g atRest awaits online free empty valid unarmed c e room base way moves marked asked
  have appends : c = .next (settle (handEvaluate (s.appended g))) := exec_append_of_empty awaits online free empty valid
  have launches (gate : g.gate = .absent) : c = .next (settle (runHead watchNow g (s.launched g))) :=
    appends.trans (congrArg _ (settle_appended_of_absent atRest online free gate))
  refine ⟨?shut, ?moves, ?dwell, ?setpos, ?marks, ?stays, ?seek, ?refused⟩
  case shut =>
    intro shut
    refine appends.trans (congrArg _ (settle_handEvaluate_of_headStays (s := s.appended g) atRest ?_))
    rintro x hx -
    cases hx
    exact .inr ⟨rfl, shut⟩
  case moves =>
    intro d k w r moves gate off fits clear mark last
    have body : g.body = .run d r ∧ k = 0 ∨ 1 ≤ k ∧ (g.body = .moveRel w r ∧ w.toInt = d.counts k ∨
      g.body = .moveAbs w r ∧ w.toInt = s.command.toInt + d.counts k) := by cases d <;> exact moves
    obtain ⟨u, step, ends⟩ := settle_moves atRest body off unarmed fits clear mark last
    have frames : g.startMark.toList.map (fun m => s.newFrame .broadcast (.mark m (some s.command))) =
        g.startMark.toList.map fun m => marked 0 m s.command := by
      simp [marked, State.newFrame]
    have result : u.port.result = [0, 1] := by rw [step.answered]
    refine ⟨_, (launches gate).trans (congrArg _ ends), ?_⟩
    by_cases one : k = 1
    · rw [if_pos one, notify_eq]
      refine ⟨step.command, step.measured, step.dir, step.mode, step.pin, fun h => absurd one h,
        fun _ => ⟨rfl, rfl, rfl, fun room => ?_⟩, step.outbound.trans (congrArg _ frames), step.emissions, step.lif, result, ?_⟩
      · rw [← step.notices] at room ⊢
        exact notify_notices_of_room (s := u.over) room
      · exact (show _ = _ from congrArg (fun v : State => { v with notices := s.notices, lost := s.lost }) step.same)
    · rw [if_neg one]
      have state : u.axis.state = (firstSpeed r s.config.baseSpeed.toNat).1 := congrArg Prod.fst step.speed
      have speed : u.axis.speed = (firstSpeed r s.config.baseSpeed.toNat).2 := congrArg Prod.snd step.speed
      refine ⟨step.command, step.measured, step.dir, step.mode, step.pin, fun _ => ⟨step.queue, step.notices, step.remaining,
        fun above => ?_, fun below => ?_, step.timer⟩, fun h => absurd h one, step.outbound.trans (congrArg _ frames),
        step.emissions, step.lif, result, ?_⟩
      · rw [state, speed]
        exact firstSpeed_above above
      · rw [state, speed, firstSpeed_below (show r.top ≤ s.config.baseSpeed.toNat from below)]
        exact ⟨rfl, rfl⟩
      · exact (show _ = _ from congrArg (fun v : State => { v with notices := s.notices, lost := s.lost }) step.same)
  case dwell =>
    intro n body opened mark
    refine appends.trans (congrArg _ ((settle_dwell atRest online free opened body mark).trans ?_))
    unfold State.consumed
    cases g.gate <;> rfl
  case setpos =>
    intro x body gate start finish
    have ran := runHead_of_setpos (s := s.launched g) body (by rw [start]; exact unarmed)
    rw [start] at ran
    refine (launches gate).trans (congrArg _ ?_)
    rw [ran, retireHead_of_single (g := g) (by rfl) (.inl finish), settle_retired (by exact atRest), ← notify_respond, empty]
    rfl
  case marks =>
    intro x a b body gate start finish sends fits
    obtain ⟨l, axis, ends⟩ := settle_setpos_marked atRest unarmed body start finish sends fits
    refine ⟨_, (launches gate).trans (congrArg _ ends), ?_⟩
    rw [notify_eq]
    refine ⟨rfl, rfl, rfl, ?_, ?_, fun room => notify_notices_of_room room, ?_⟩
    · simp [marked, State.newFrame]
      rfl
    · simp [asked, State.emission]
    · exact (congrArg (fun q => { s with queue := q }) empty.symm : { s with queue := [] } = { s with queue := s.queue })
  case stays =>
    intro r body gate start finish
    have ran : runHead watchNow g (s.launched g) = retireHead .completed (s.launched g) := runHead_of_reached body start
    refine (launches gate).trans (congrArg _ ?_)
    rw [ran, retireHead_of_single (g := g) (by rfl) (.inl finish), settle_retired (by exact atRest), ← notify_respond, empty]
    rfl
  case seek =>
    intro d i zero k r body gate start finish fits active clear
    obtain ⟨a, state, speed, dir, ends⟩ := settle_seek atRest body unarmed fits active clear start finish
    refine ⟨_, (launches gate).trans (congrArg _ ends), ?_⟩
    rw [notify_eq]
    refine ⟨rfl, state, speed, dir, rfl, rfl, fun room => notify_notices_of_room room, ?_⟩
    exact (congrArg (fun q => { s with queue := q }) empty.symm : { s with queue := [] } = { s with queue := s.queue })
  case refused =>
    intro d k w r x moves gate why
    have body : g.body = .run d r ∧ k = 0 ∨ 1 ≤ k ∧ (g.body = .moveRel w r ∧ w.toInt = d.counts k ∨
      g.body = .moveAbs w r ∧ w.toInt = s.command.toInt + d.counts k) := by cases d <;> exact moves
    obtain ⟨ramp, dir, -, -, -, exempt⟩ := body_of_moves body
    have motion : ((s.launched g).setOut g r d).axis.state ≠ .braking := by
      rcases startSpeed_state r.top s.config.baseSpeed.toNat with h | h <;>
        exact fun braking => absurd (h.symm.trans braking) (by decide)
    have refused : startRefusal g.body d ((s.launched g).setOut g r d) = some x ∧ propagates s.config x = false := by
      rcases why with ⟨limit, rfl⟩ | ⟨clear, rfl, enabled, edge⟩
      · exact ⟨if_pos (by rw [exempt, Bool.not_false, Bool.and_true]; exact limit),
          by cases d <;> rfl⟩
      · have refuses : stepRefused d ((s.launched g).setOut g r d) = true := stepRefused_at_limit enabled motion edge
        have open_limit : ¬ (((s.launched g).setOut g r d).inputActive (limitInput d) && !g.body.exemptLimit d) = true := by
          rw [show ((s.launched g).setOut g r d).inputActive (limitInput d) = false from clear, Bool.false_and]
          exact Bool.false_ne_true
        exact ⟨(if_neg open_limit).trans (if_pos refuses), by cases d <;> rfl⟩
    obtain ⟨a, state, speed, dir, ends⟩ := settle_refused atRest free ramp dir refused.1 refused.2
    refine ⟨_, (launches gate).trans (congrArg _ ends), ?_⟩
    set v := respond .ok [1] { s with queue := [], axis := a, faults := s.faults.put x true } with hv
    have told (room : s.notices.length < 15) :
        (notify (.segmentRetired g.tag .localPort .stopped s.command) (notify (.fault x s.command) v)).notices =
          s.notices ++ [.fault x s.command, .segmentRetired g.tag .localPort .stopped s.command] := by
      have first : (notify (.fault x s.command) v).notices = s.notices ++ [.fault x s.command] :=
        notify_notices_of_room (s := v) (Nat.lt_succ_of_lt room)
      rw [notify_notices_of_room (by rw [first, List.length_append]; exact Nat.add_lt_add_right room 1), first, List.append_assoc]
      rfl
    have both : notify (.segmentRetired g.tag .localPort .stopped s.command) (notify (.fault x s.command) v) = { v with
        notices := (notify (.segmentRetired g.tag .localPort .stopped s.command) (notify (.fault x s.command) v)).notices
        lost := (notify (.segmentRetired g.tag .localPort .stopped s.command) (notify (.fault x s.command) v)).lost } :=
      notifyAll_eq [.fault x s.command, .segmentRetired g.tag .localPort .stopped s.command] v
    rw [both]
    refine ⟨rfl, state, speed, dir, rfl, told, ?_⟩
    exact (congrArg (fun q => { s with queue := q }) empty.symm : { s with queue := [] } = { s with queue := s.queue })

end Sys2Proof.Machine

/-! PROOFS. The announcement of the own halt (R97) and the halt commands: ACKNOWLEDGE (R92), RAISE_HALT (R95), LIFT_HALT
(R96), DISMISS (R102). -/

namespace Sys2Proof.Machine

/-! ### The announcement (R97) -/

theorem length_updatePresence_of_paid {c : Presence → Presence} {s : State} (paid : s.ownHalt.owed = .none) :
    (updatePresence c s).outbound.length = s.outbound.length := by
  unfold updatePresence
  split
  · split
    · split
      · exact length_replaceFrame _ _ _
      · split
        · exact length_replaceFrame _ _ _
        · rw [supersede_of_nothing_owed _ _ paid, repick_outbound]
          exact length_replaceFrame _ _ _
    · rfl
  · rfl

/-- The state whose owed frame an announcement asks for. -/
def State.owing (s : State) : State :=
  let u := updatePresence s.ownHalt.into s
  { u with ownHalt := { u.ownHalt with owed := if u.ownHalt.raised then .halt else .lift } }

theorem announceHalt_eq (s : State) : announceHalt s = askOwed s.owing := rfl

theorem offers_owing (s : State) : Offers s s.owing := (offers_updatePresence _ s).trans .of_same

/-- The payload that announces an own halt. -/
def OwnHalt.payload (h : OwnHalt) : Payload := if h.raised then .halt h.reason h.kind else .lift

theorem owedPayload_owing (s : State) : owedPayload s.owing.ownHalt = some s.ownHalt.payload := by
  have update := offers_updatePresence s.ownHalt.into s
  have raised := update.raised
  have reason := update.reason
  have kind := update.kind
  set u := updatePresence s.ownHalt.into s with hu
  have owing : s.owing.ownHalt = { u.ownHalt with owed := if u.ownHalt.raised then .halt else .lift } := rfl
  rw [owing, owedPayload, OwnHalt.payload, raised, ← reason, ← kind]
  cases s.ownHalt.raised <;> rfl

/-- R97 step 3: where no frame may be sent, none stays owed. -/
theorem owed_announceHalt_of_closed {s : State} (closed : s.canSend = false) : (announceHalt s).ownHalt.owed = .none := by
  have shut : s.owing.canSend = false := (offers_owing s).canSend.trans closed
  rw [announceHalt_eq, askOwed, owedPayload_owing]
  simp only [shut]
  rfl

/-- R97, R130: with room and none owed, the announcement is the youngest frame, and none stays owed. -/
theorem announceHalt_of_room {s : State} (sends : s.canSend = true) (room : s.outbound.length < 12)
    (paid : s.ownHalt.owed = .none) : (announceHalt s).ownHalt.owed = .none ∧
      ∃ f, (announceHalt s).outbound.getLast? = some f ∧ f.payload = s.ownHalt.payload ∧ f.dest = .broadcast ∧
        f.attempts = 0 := by
  have opened : s.owing.canSend = true := (offers_owing s).canSend.trans sends
  have length : s.owing.outbound.length = s.outbound.length := length_updatePresence_of_paid paid
  have fits : s.owing.hasRoom s.ownHalt.payload.kind.cls = true := by
    have first : s.ownHalt.payload.kind.cls = 0 := by
      rw [OwnHalt.payload]
      split <;> rfl
    rw [State.hasRoom, first, if_pos rfl, length]
    exact decide_eq_true room
  obtain ⟨t, admitted⟩ : ∃ t, admission .broadcast s.ownHalt.payload s.owing = some t := by
    rw [admission, opened, fits]
    exact ⟨_, rfl⟩
  have asked : announceHalt s = { t with ownHalt := { t.ownHalt with owed := .none } } := by
    rw [announceHalt_eq, askOwed, owedPayload_owing]
    simp only [opened, admitted, if_true]
  rw [asked]
  refine ⟨rfl, s.owing.newFrame .broadcast s.ownHalt.payload, ?_, rfl, rfl, rfl⟩
  show t.outbound.getLast? = _
  rw [outbound_of_admission admitted, List.getLast?_append]
  rfl

/-! ### ACKNOWLEDGE (R92) -/

theorem exec_acknowledge {s : State} (awaits : s.awaitsCommand = true) :
    exec .acknowledge s = .next (settle (acknowledge s)) := by
  show execAcknowledge s = _
  unfold execAcknowledge
  rw [onPort_of_awaits awaits]

theorem nonempty_eq_false_iff (f : FaultSet) : f.nonempty = false ↔ f = .empty := by
  cases f
  simp [FaultSet.nonempty, FaultSet.empty, and_assoc]

theorem nonempty_of_ne {f : FaultSet} (h : f ≠ .empty) : f.nonempty = true :=
  Bool.eq_true_of_not_eq_false fun none => h ((nonempty_eq_false_iff f).mp none)

/-- R92: the state with the causes whose condition has gone removed. -/
def State.acknowledged (s : State) : State := { s with faults := s.standingFaults }

theorem removeCauses_of_gap_closed {s : State} (closed : s.faults.followingGap = true → gapExceeds s = false) :
    removeCauses s = s.acknowledged := by
  unfold removeCauses
  split
  · rename_i gap
    exact checkGap_of_not (s := s.acknowledged) (closed gap)
  · rfl

/-- R92 step 3: the own halt was raised by a cause and no propagating cause is left. -/
def State.liftsByAcknowledge (s : State) : Prop :=
  s.ownHalt.raised = true ∧ s.ownHalt.how = .cause ∧ (s.standingFaults.estop && s.config.propagate.getLsbD 0) = false ∧
    (s.standingFaults.drvflt && s.config.propagate.getLsbD 1) = false

theorem propagatingCause_acknowledged (s : State) : s.acknowledged.propagatingCause.isNone = true ↔
    (s.standingFaults.estop && s.config.propagate.getLsbD 0) = false ∧
      (s.standingFaults.drvflt && s.config.propagate.getLsbD 1) = false := by
  have gap : s.standingFaults.followingGap = false := rfl
  rw [Option.isNone_iff_eq_none, State.propagatingCause, List.find?_eq_none]
  simp only [List.mem_cons, List.not_mem_nil, or_false, forall_eq_or_imp, forall_eq, State.acknowledged, FaultSet.has,
    propagates, gap, Bool.false_and, Bool.not_eq_true, and_true]

/-- R96: the own halt is clear and the lift announced. -/
def State.lifted (s : State) : State := announceHalt { s with ownHalt := .clear }

theorem offers_lifted (s : State) : Offers { s with ownHalt := .clear } s.lifted := offers_announceHalt _

theorem liftOwnHalt_eq (s : State) : liftOwnHalt s = if s.lifted.halted then s.lifted else handEvaluate s.lifted := rfl

/-- Two states that differ in the evaluation of the head at most. -/
def SaveEvaluation (s t : State) : Prop :=
  { t with handed := { t.handed with evaluate := false } } = { s with handed := { s.handed with evaluate := false } }

theorem saveEvaluation_liftOwnHalt (s : State) : SaveEvaluation s.lifted (liftOwnHalt s) := by
  rw [liftOwnHalt_eq]
  split <;> rfl

theorem saveEvaluation_faultsChanged (s : State) : SaveEvaluation s (faultsChanged s) := by
  unfold faultsChanged
  split <;> rfl

theorem SaveEvaluation.trans {s t u : State} (h : SaveEvaluation s t) (k : SaveEvaluation t u) : SaveEvaluation s u :=
  Eq.trans k h

/-- An answer whose head stays ends in the answered state with nothing handed on. -/
theorem settle_respond_of_headStays {code : ResultCode} {data : List Byte} {s t : State} (atRest : AtRest s)
    (same : SaveEvaluation s t) (stays : HeadStays s) : settle (respond code data t) = respond code data s := by
  have only : OnlyEvaluates (respond code data t) :=
    (congrArg State.handed same :).trans (onlyEvaluates_of_atRest atRest)
  have back : { t with handed := .empty } = s := by
    have cleared := congrArg (fun v : State => { v with handed := .empty }) same
    refine (show _ = _ from cleared).trans ?_
    show { s with handed := _ } = s
    rw [← show s.handed = .empty from atRest]
  have queue : t.queue = s.queue := (congrArg State.queue same :)
  have stays' : HeadStays t := by
    rw [← back] at stays
    exact stays
  rw [settle_of_onlyEvaluates only stays']
  exact congrArg (respond code data) back

/-- An answer behind which a DWELL is evaluated. -/
theorem settle_respond_of_dwellWaits {code : ResultCode} {data : List Byte} {s t : State} {e : Entry} {n : Nat}
    (atRest : AtRest s) (same : SaveEvaluation s t) (due : t.handed.evaluate = true) (dwell : DwellWaits e n s)
    (may : s.mayStart = true) : settle (respond code data t) = respond code data (s.dwelling e n) := by
  have evaluates : t = handEvaluate s := by
    have only := congrArg (fun v : State => { v with handed := { v.handed with evaluate := true } }) same
    have now : { t with handed := { t.handed with evaluate := true } } = t := by rw [← due]
    exact now.symm.trans (show _ = _ from only)
  rw [evaluates]
  exact settle_handEvaluate_of_dwellWaits (s := respond code data s) atRest dwell may

/-- R92: what ACKNOWLEDGE answers with, once the causes are removed and no gap is raised anew. -/
theorem acknowledge_of_nonempty {s : State} (faulty : s.faults ≠ .empty)
    (closed : s.faults.followingGap = true → gapExceeds s = false) : acknowledge s =
      respond .ok [s.standingFaults.byte, (liftByAcknowledge s.acknowledged).ownHaltByte]
        (faultsChanged (liftByAcknowledge s.acknowledged)) := by
  rw [acknowledge, if_pos (nonempty_of_ne faulty)]
  simp only [removeCauses_of_gap_closed closed]
  rfl

theorem liftByAcknowledge_of_lifts {s : State} (lifts : s.liftsByAcknowledge) :
    liftByAcknowledge s.acknowledged = liftOwnHalt s.acknowledged := by
  obtain ⟨raised, cause, clear⟩ := lifts
  refine if_pos ?_
  rw [(propagatingCause_acknowledged s).mpr clear]
  simp [State.acknowledged, raised, cause]

theorem liftByAcknowledge_of_stays {s : State} (stays : ¬ s.liftsByAcknowledge) :
    liftByAcknowledge s.acknowledged = s.acknowledged := by
  refine if_neg fun lifts => stays ?_
  simp only [Bool.and_eq_true, beq_iff_eq] at lifts
  obtain ⟨⟨raised, cause⟩, none_left⟩ := lifts
  exact ⟨raised, cause, (propagatingCause_acknowledged s).mp none_left⟩

theorem Offers.headStays {s t : State} (h : Offers s t) (stays : HeadStays s) : HeadStays t := by
  have bare : HeadStays s.besidesOffers := stays
  rw [← h.same] at bare
  exact bare

theorem Offers.back {s t : State} {h : OwnHalt} (k : Offers { s with ownHalt := h } t) : { t with
    ownHalt := s.ownHalt, outbound := s.outbound, nextFrame := s.nextFrame, lif := s.lif } = s := by
  have others := congrArg (fun v : State => { v with
    ownHalt := s.ownHalt, outbound := s.outbound, nextFrame := s.nextFrame, lif := s.lif }) k.same
  exact (show _ = _ from others)

/-- R92 steps 1 to 3: the state with the causes removed, and lifted where the own halt lifts. -/
theorem exec_acknowledge_of_headStays {s u : State} (awaits : s.awaitsCommand = true)
    (faulty : s.faults ≠ .empty) (closed : s.faults.followingGap = true → gapExceeds s = false) (rest : AtRest u)
    (lifts : SaveEvaluation u (liftByAcknowledge s.acknowledged)) (stays : HeadStays u) :
    exec .acknowledge s = .next (respond .ok [s.standingFaults.byte, u.ownHaltByte] u) := by
  have byte : (liftByAcknowledge s.acknowledged).ownHaltByte = u.ownHaltByte := (congrArg State.ownHaltByte lifts :)
  rw [exec_acknowledge awaits, acknowledge_of_nonempty faulty closed, byte,
    settle_respond_of_headStays rest (lifts.trans (saveEvaluation_faultsChanged _)) stays]

/-- R84: with nothing queued a cause that enters is told, and nothing retires. -/
theorem raiseCause_notices_of_empty {c : Cause} {s : State} (new : s.faults.has c = false) (empty : s.queue = [])
    (room : s.notices.length < 16) : (raiseCause c s).notices = s.notices ++ [.fault c s.command] := by
  have told : (notify (.fault c s.command) { s with faults := s.faults.put c true }).notices =
      s.notices ++ [.fault c s.command] := notify_notices_of_room room
  have queue : (notify (.fault c s.command) { s with faults := s.faults.put c true }).queue = [] :=
    (frames_notify _ _).marks.queue.trans empty
  rw [raiseCause, if_neg (by simp [new]), orderStop_of_empty _ queue, ← told]
  rcases offers_raiseByCause c (notify (.fault c s.command) { s with faults := s.faults.put c true }) with h | ⟨h, offers⟩
  · rw [h]
  · exact offers.notices

theorem exec_acknowledge_of_empty {s u : State} (awaits : s.awaitsCommand = true) (faulty : s.faults.nonempty = true)
    (only : OnlyEvaluates u) (empty : u.queue = [])
    (lifts : SaveEvaluation u (liftByAcknowledge (removeCauses s))) : exec .acknowledge s =
      .next (respond .ok [(removeCauses s).faults.byte, u.ownHaltByte] { u with handed := .empty }) := by
  have byte : (liftByAcknowledge (removeCauses s)).ownHaltByte = u.ownHaltByte := (congrArg State.ownHaltByte lifts :)
  have acknowledged : acknowledge s = respond .ok [(removeCauses s).faults.byte, u.ownHaltByte]
      (faultsChanged (liftByAcknowledge (removeCauses s))) := by
    rw [acknowledge, if_pos faulty]
    simp only [byte]
  have same : SaveEvaluation { u with handed := .empty } (faultsChanged (liftByAcknowledge (removeCauses s))) := by
    refine SaveEvaluation.trans ?_ (lifts.trans (saveEvaluation_faultsChanged _))
    show { u with handed := { u.handed with evaluate := false } } = _
    rw [show { u.handed with evaluate := false } = Handed.empty from only]
    rfl
  rw [exec_acknowledge awaits, acknowledged, settle_respond_of_headStays rfl same (headStays_of_nil empty)]

/-- Settles O13. -/
theorem acknowledgeRemovesCausesThatHaveGone : Obligations.AcknowledgeRemovesCausesThatHaveGone := by
  intro s e n atRest awaits stay lifts
  refine ⟨fun faultless => ?_, fun faulty closed stays => ?_, fun faulty closed gone calm unhalted online dwell => ?_,
    fun gap exceeds empty => ?_⟩
  · have none_held : s.faults.nonempty = false := (nonempty_eq_false_iff _).mpr faultless
    rw [exec_acknowledge awaits, acknowledge, if_neg (by simp [none_held]), faultless]
    exact congrArg Host.Outcome.next (settle_of_atRest atRest)
  · by_cases h : lifts
    · have lift : SaveEvaluation s.acknowledged.lifted (liftByAcknowledge s.acknowledged) := by
        rw [liftByAcknowledge_of_lifts h]
        exact saveEvaluation_liftOwnHalt _
      have offers := offers_lifted s.acknowledged
      have rest : AtRest s.acknowledged.lifted := offers.handed.trans atRest
      have faults : s.acknowledged.lifted.faults = stay := offers.faults
      refine ⟨_, exec_acknowledge_of_headStays awaits faulty closed rest lift (offers.headStays stays), faults,
        fun _ => ⟨offers.raised, offers.reason, fun sends room => ?_, fun shut => owed_announceHalt_of_closed shut⟩,
        fun k => absurd h k, ?_, ?_⟩
      · exact announceHalt_of_room (s := { s.acknowledged with ownHalt := .clear }) sends room rfl
      · exact congrArg (fun f : FaultSet => [0, f.byte, _]) faults.symm
      · have back := offers.back
        exact (show _ = _ from congrArg (fun v : State => { v with faults := s.faults, port := s.port }) back)
    · have same : SaveEvaluation s.acknowledged (liftByAcknowledge s.acknowledged) := by
        rw [liftByAcknowledge_of_stays h]
        rfl
      refine ⟨_, exec_acknowledge_of_headStays awaits faulty closed (show AtRest s.acknowledged from atRest) same stays,
        rfl, fun k => absurd k h, fun _ => ⟨rfl, rfl, rfl⟩, rfl, rfl⟩
  · obtain ⟨u, h, save, offers, raised⟩ : ∃ u h, SaveEvaluation u (liftByAcknowledge s.acknowledged) ∧
        Offers { s.acknowledged with ownHalt := h } u ∧ u.ownHalt.raised = false := by
      by_cases h : s.liftsByAcknowledge
      · refine ⟨_, .clear, ?_, offers_lifted s.acknowledged, (offers_lifted s.acknowledged).raised⟩
        rw [liftByAcknowledge_of_lifts h]
        exact saveEvaluation_liftOwnHalt _
      · refine ⟨s.acknowledged, s.ownHalt, ?_, .refl _, ?_⟩
        · rw [liftByAcknowledge_of_stays h]
          rfl
        · cases raised : s.ownHalt.raised with
          | false => exact raised
          | true =>
            refine absurd ⟨raised, calm.resolve_left (by simp [raised]), ?_⟩ h
            rw [show s.standingFaults = .empty from gone]
            exact ⟨rfl, rfl⟩
    have faults : u.faults = .empty := offers.faults.trans gone
    have after : (liftByAcknowledge s.acknowledged).faults = .empty := (congrArg State.faults save :).trans faults
    have due : (faultsChanged (liftByAcknowledge s.acknowledged)).handed.evaluate = true := by
      rw [faultsChanged, after]
      rfl
    have queue : u.queue = s.queue := (congrArg State.queue offers.same :)
    have axis : u.axis = s.axis := (congrArg State.axis offers.same :)
    have may : u.mayStart = true := (mayStart_iff u).mpr ⟨by rw [faults]; rfl, raised,
      (congrArg State.haltListed offers.same :).trans unhalted, (congrArg State.lifecycle offers.same :).trans online⟩
    have settled := settle_respond_of_dwellWaits (code := .ok)
      (data := [s.standingFaults.byte, (liftByAcknowledge s.acknowledged).ownHaltByte]) (offers.handed.trans atRest)
      (save.trans (saveEvaluation_faultsChanged _)) due
      (show DwellWaits e n u from ⟨queue.trans dwell.1, dwell.2⟩) may
    have answered := exec_acknowledge awaits
    rw [acknowledge_of_nonempty faulty closed, settled] at answered
    refine ⟨_, answered, faults, raised, ⟨rfl, ?_⟩, ?_⟩
    · rw [← axis]
      rfl
    · exact (show _ = _ from congrArg (fun v : State => { v with
        faults := s.faults, port := s.port, queue := s.queue, axis := s.axis }) offers.back)
  · have new : s.acknowledged.faults.has .followingGap = false := rfl
    have enters : Enters .followingGap s.acknowledged (raiseCause .followingGap s.acknowledged) := raiseCause_enters new
    have removed : removeCauses s = raiseCause .followingGap s.acknowledged := by
      rw [removeCauses, if_pos gap]
      exact if_pos (show gapExceeds s.acknowledged = true from exceeds)
    set r := raiseCause .followingGap s.acknowledged with hr
    have queue : r.queue = [] := by
      obtain ⟨u, hq, -, hu, -⟩ := enters.stop
      have none_held : u.queue = [] := hu.trans empty
      rw [hq, orderStop_of_empty _ none_held, none_held]
    have told (room : s.notices.length < 16) : r.notices = s.notices ++ [.fault .followingGap s.command] :=
      raiseCause_notices_of_empty new empty room
    obtain ⟨u, h, save, offers⟩ : ∃ u h, SaveEvaluation u (liftByAcknowledge r) ∧ Offers { r with ownHalt := h } u := by
      unfold liftByAcknowledge
      split
      · exact ⟨r.lifted, .clear, saveEvaluation_liftOwnHalt r, offers_lifted r⟩
      · exact ⟨r, r.ownHalt, rfl, .refl r⟩
    have faults : u.faults = s.standingFaults.put .followingGap true := offers.faults.trans enters.faults
    have only : OnlyEvaluates u := by
      show { u.handed with evaluate := false } = _
      rw [offers.handed]
      exact enters.onlyEvaluates atRest
    refine ⟨_, exec_acknowledge_of_empty awaits ?_ only ((congrArg State.queue offers.same :).trans queue) (by rw [removed]; exact save),
      congrArg FaultSet.followingGap faults, fun room => offers.notices.trans (told room)⟩
    simp [FaultSet.nonempty, show s.faults.followingGap = true from gap]

end Sys2Proof.Machine

/-! PROOFS. RAISE_HALT (R95), LIFT_HALT (R96) and DISMISS (R102). -/

namespace Sys2Proof.Machine

-- One thread for the many small proofs of this part: each default proof waits for the declarations before it.
set_option Elab.async false

/-! ### The frames a stop adds (R18, R130) -/

/-- R130: an answer finds no room behind ten frames. -/
theorem length_outbound_answerPeer (n : Station) (q : Seq) (k : AnswerKind) (tag : Byte) (s : State) :
    (answerPeer n q k tag s).outbound.length ≤ max s.outbound.length 10 := by
  unfold answerPeer
  split
  · rename_i t admitted
    have room : s.outbound.length < 10 := by
      unfold admission at admitted
      split at admitted
      · rename_i fits
        rw [Bool.and_eq_true] at fits
        exact of_decide_eq_true fits.2
      · cases admitted
    rw [outbound_of_admission admitted, List.length_append]
    exact le_max_of_le_right room
  · rw [notify_eq]
    exact le_max_left _ _

/-- The outbound queue grows to ten frames at most. -/
def GrowsToTen (s t : State) : Prop := t.outbound.length ≤ max s.outbound.length 10

theorem GrowsToTen.refl (s : State) : GrowsToTen s s := le_max_left _ _

theorem GrowsToTen.trans {s t u : State} (h : GrowsToTen s t) (k : GrowsToTen t u) : GrowsToTen s u :=
  le_trans k (max_le h (le_max_right _ _))

theorem GrowsToTen.of_same {s t : State} (h : t.outbound = s.outbound := by rfl) : GrowsToTen s t := by
  rw [GrowsToTen, h]
  exact le_max_left _ _

theorem growsToTen_notify (n : Notice) (s : State) : GrowsToTen s (notify n s) := by
  rw [notify_eq]
  exact .of_same

theorem growsToTen_retireEffects {o : Retirement} (ho : o = .stopped ∨ o = .flushed) (e : Entry) (s : State) :
    GrowsToTen s (retireEffects e o s) := by
  rw [retireEffects_unfinished ho]
  refine GrowsToTen.trans (growsToTen_notify (.segmentRetired e.segment.tag e.origin o s.command) s) ?_
  unfold Entry.answered
  split
  · exact .refl _
  · exact length_outbound_answerPeer _ _ _ _ _

theorem growsToTen_flushEntries (es : List Entry) (s : State) : GrowsToTen s (flushEntries es s) := by
  unfold flushEntries
  induction es generalizing s with
  | nil => exact .refl s
  | cons e es ih => rw [List.foldl_cons]; exact (growsToTen_retireEffects (.inr rfl) e s).trans (ih _)

theorem growsToTen_flushBehind (s : State) : GrowsToTen s (flushBehind s) := by
  unfold flushBehind
  split
  · split
    · exact GrowsToTen.trans .of_same (growsToTen_flushEntries _ _)
    · exact GrowsToTen.trans .of_same (growsToTen_flushEntries _ _)
  · exact .refl s

theorem growsToTen_retireHead (s : State) : GrowsToTen s (retireHead .stopped s) := by
  rcases hq : s.queue with _ | ⟨e, rest⟩
  · rw [retireHead_nil _ hq]
    exact .refl s
  · rw [retireHead_cons _ hq]
    exact growsToTen_retireEffects (.inl rfl) e (s.headless rest)

theorem growsToTen_decelerateHead (e : Entry) (s : State) : GrowsToTen s (decelerateHead e s) := by
  have brakes (r : Nat) : GrowsToTen s (brake .stop r e s) := by
    unfold brake
    split
    · exact growsToTen_retireHead s
    · exact .of_same
  unfold decelerateHead
  split
  · exact .of_same
  · exact brakes _
  · exact brakes _
  · exact brakes _
  · exact growsToTen_retireHead s

theorem growsToTen_orderStop (k : StopKind) (s : State) : GrowsToTen s (orderStop k s) := by
  unfold orderStop
  split
  · exact growsToTen_flushBehind s
  · exact (growsToTen_retireHead s).trans (growsToTen_flushBehind _)
  · exact (growsToTen_flushBehind s).trans (growsToTen_decelerateHead _ _)

/-! ### RAISE_HALT (R95) -/

/-- The kind that a stop kind byte with a meaning names. -/
def stopKindNamed (b : Byte) : StopKind := if b = 1 then .immediate else .decelerating

theorem stopKind_ofByte_of_meaning {b : Byte} (h : b.toNat < 2) : StopKind.ofByte b = some (stopKindNamed b) := by
  rw [StopKind.ofByte, boolOfByte_eq_ite, if_pos h]
  simp [StopKind.ofBit, stopKindNamed]

theorem stopKind_ofByte_of_no_meaning {b : Byte} (h : 2 ≤ b.toNat) : StopKind.ofByte b = none := by
  rw [StopKind.ofByte, boolOfByte_eq_ite, if_neg (Nat.not_lt.mpr h)]
  rfl

theorem exec_raiseHalt_of_meaning {s : State} (awaits : s.awaitsCommand = true) (reason : Byte) {kind : Byte}
    (named : kind.toNat < 2) : exec (.raiseHalt reason kind) s =
      .next (settle (respond .ok [] (raiseByCommand reason (stopKindNamed kind) s))) := by
  show execRaiseHalt reason kind s = _
  unfold execRaiseHalt
  rw [onPort_of_awaits awaits, stopKind_ofByte_of_meaning named]

theorem exec_raiseHalt_of_no_meaning {s : State} (awaits : s.awaitsCommand = true) (reason : Byte) {kind : Byte}
    (none_named : 2 ≤ kind.toNat) : exec (.raiseHalt reason kind) s = .next (respond .invalid [] s) := by
  show execRaiseHalt reason kind s = _
  unfold execRaiseHalt
  rw [onPort_of_awaits awaits, stopKind_ofByte_of_no_meaning none_named]

/-- R95: the own halt raised by command, before the stop. -/
def State.raisedByCommand (reason : Byte) (k : StopKind) (s : State) : State :=
  { s with ownHalt := { s.ownHalt with raised := true, reason, kind := k, how := .command } }

theorem raiseByCommand_eq (reason : Byte) (k : StopKind) (s : State) :
    raiseByCommand reason k s = announceHalt (orderStop k (s.raisedByCommand reason k)) := rfl

/-- What is as before once a stop and an announcement are put back. -/
theorem Offers.back_of_stops {s r v w : State} (stops : Stops r v) (offers : Offers v w)
    (own : { r with ownHalt := s.ownHalt } = s) (atRest : AtRest r) : { w with
      ownHalt := s.ownHalt, queue := s.queue, axis := s.axis, notices := s.notices, lost := s.lost
      outbound := s.outbound, nextFrame := s.nextFrame, lif := s.lif, port := s.port, handed := .empty } = s := by
  have second := congrArg (fun v : State => { v with
    ownHalt := s.ownHalt, queue := s.queue, axis := s.axis, notices := s.notices, lost := s.lost
    outbound := s.outbound, nextFrame := s.nextFrame, lif := s.lif, port := s.port, handed := .empty }) offers.same
  have first := congrArg (fun v : State => { v with
    ownHalt := s.ownHalt, queue := s.queue, axis := s.axis, notices := s.notices, lost := s.lost
    outbound := s.outbound, nextFrame := s.nextFrame, lif := s.lif, port := s.port }) (stops.back atRest)
  have before := congrArg (fun v : State => { v with
    queue := s.queue, axis := s.axis, notices := s.notices, lost := s.lost
    outbound := s.outbound, nextFrame := s.nextFrame, lif := s.lif, port := s.port }) own
  exact (show _ = _ from second).trans ((show _ = _ from first).trans (show _ = _ from before))

/-- R41, R95, R97: the stop leaves the own halt alone, the announcement the queue. -/
theorem raiseByCommand_facts (reason : Byte) (k : StopKind) {s : State} (order : QueueInOrder s) :
    ∃ v w, raiseByCommand reason k s = w ∧ Stops (s.raisedByCommand reason k) v ∧ Offers v w ∧ StopMade k s v ∧
      (v.queue = [] ∨ ∃ e, e.state = .running ∧ v.queue = [e]) ∧ v.outbound.length ≤ max s.outbound.length 10 ∧
      HeadStays w ∧ w = announceHalt v := by
  have stays := headStays_orderStop k (s := s.raisedByCommand reason k) order
  have offers := offers_announceHalt (orderStop k (s.raisedByCommand reason k))
  exact ⟨_, _, rfl, stops_orderStop _ _, offers,
    (stopMade_orderStop k (s := s.raisedByCommand reason k) order).congr rfl rfl rfl rfl rfl,
    queue_orderStop k (s := s.raisedByCommand reason k) order,
    growsToTen_orderStop k (s.raisedByCommand reason k), offers.headStays stays, rfl⟩

/-- Settles O14. -/
theorem raiseHaltStopsAndAnnounces : Obligations.RaiseHaltStopsAndAnnounces := by
  intro s reason kind atRest awaits
  refine ⟨exec_raiseHalt_of_no_meaning awaits reason, fun named order => ?_⟩
  obtain ⟨v, w, raised, stops, offers, made, left, grows, stays, announced⟩ :=
    raiseByCommand_facts reason (stopKindNamed kind) order
  have rest : AtRest (s.raisedByCommand reason (stopKindNamed kind)) := atRest
  have only : OnlyEvaluates w := by
    rw [OnlyEvaluates, offers.handed]
    exact stops.onlyEvaluates rest
  have answered : exec (.raiseHalt reason kind) s = .next (respond .ok [] { w with handed := .empty }) := by
    rw [exec_raiseHalt_of_meaning awaits reason named, raised]
    exact congrArg Host.Outcome.next (settle_of_onlyEvaluates (s := respond .ok [] w) only stays)
  have own : v.ownHalt = (s.raisedByCommand reason (stopKindNamed kind)).ownHalt := stops.ownHalt
  have sends : v.canSend = s.canSend := (congrArg State.canSend stops.same :)
  have queue : w.queue = v.queue := offers.marks.queue
  have axis : w.axis = v.axis := offers.marks.axis
  refine ⟨_, answered, offers.raised.trans (by rw [own]; rfl), offers.reason.trans (by rw [own]; rfl),
    offers.kind.trans (by rw [own]; rfl), ?_, rfl, ?_, fun immediate => ?_, made.congr rfl rfl rfl queue axis,
    fun opened room paid => ?_, fun shut => ?_, (offers.back_of_stops (s := s) stops rfl rest :)⟩
  · have how : w.ownHalt.how = v.ownHalt.how := (congrArg OwnHalt.how offers.besidesOwed :)
    exact how.trans (by rw [own]; rfl)
  · intro e he
    have held : e ∈ v.queue := queue ▸ he
    rcases left with none_left | ⟨x, running, single⟩
    · rw [none_left] at held
      cases held
    · rw [single, List.mem_singleton] at held
      rw [held]
      exact running
  · rw [show State.queue _ = v.queue from queue]
    exact (made.2.1 (.inl (if_pos immediate))).1
  · have announced' := announceHalt_of_room (s := v) (sends.trans opened) (lt_of_le_of_lt grows (by omega)) (by rw [own]; exact paid)
    rw [← announced] at announced'
    obtain ⟨owed, f, last, payload, dest, attempts⟩ := announced'
    refine ⟨owed, f, last, payload.trans ?_, dest, attempts⟩
    have kind' : w.ownHalt.kind = v.ownHalt.kind := offers.kind
    show _ = Payload.halt reason w.ownHalt.kind
    rw [kind', own]
    rfl
  · have owed := owed_announceHalt_of_closed (s := v) (sends.trans shut)
    rw [← announced] at owed
    exact owed

end Sys2Proof.Machine

/-! PROOFS. LIFT_HALT (R96) and DISMISS (R102). -/

namespace Sys2Proof.Machine

/-! ### LIFT_HALT (R96) -/

theorem exec_liftHalt_of_command {s : State} (awaits : s.awaitsCommand = true) (raised : s.ownHalt.raised = true)
    (how : s.ownHalt.how = .command) : exec .liftHalt s = .next (settle (liftByCommand s)) := by
  show execLiftHalt s = _
  unfold execLiftHalt
  rw [onPort_of_awaits awaits, if_pos (by simp [raised, how])]

theorem exec_liftHalt_of_not_command {s : State} (awaits : s.awaitsCommand = true)
    (h : s.ownHalt.raised = false ∨ s.ownHalt.how = .cause) : exec .liftHalt s = .next (respond .state [] s) := by
  show execLiftHalt s = _
  unfold execLiftHalt
  rw [onPort_of_awaits awaits, if_neg]
  rcases h with h | h <;> simp [h]

theorem propagatingCause_eq (s : State) : s.propagatingCause =
    if s.faults.estop && s.config.propagate.getLsbD 0 then some .estop
    else if s.faults.drvflt && s.config.propagate.getLsbD 1 then some .drvflt
    else if s.faults.followingGap && s.config.propagate.getLsbD 2 then some .followingGap
    else none := by
  simp only [State.propagatingCause, List.find?_cons, List.find?_nil, FaultSet.has, propagates]
  cases s.faults.estop && s.config.propagate.getLsbD 0 <;>
    cases s.faults.drvflt && s.config.propagate.getLsbD 1 <;>
    cases s.faults.followingGap && s.config.propagate.getLsbD 2 <;> rfl

/-- R96: the own halt that LIFT_HALT leaves: the one of the first propagating cause, or a clear one. -/
def State.liftedHalt (s : State) : OwnHalt :=
  match s.propagatingCause with
  | some c => { s.ownHalt with reason := c.code, kind := .immediate, how := .cause }
  | none => .clear

/-- R96: the announced state of LIFT_HALT. -/
def State.relifted (s : State) : State := announceHalt { s with ownHalt := s.liftedHalt }

theorem liftByCommand_eq (s : State) : ∃ t, liftByCommand s =
    respond .ok [byteOfBool s.propagatingCause.isSome] t ∧ SaveEvaluation s.relifted t ∧
      (s.propagatingCause = none → t = liftOwnHalt s) := by
  unfold liftByCommand
  split
  · rename_i c cause
    refine ⟨s.relifted, ?_, rfl, fun h => nomatch cause.symm.trans h⟩
    rw [State.relifted, State.liftedHalt, cause]
    rfl
  · rename_i none_left
    refine ⟨liftOwnHalt s, by rw [none_left]; rfl, ?_, fun _ => rfl⟩
    have same : s.relifted = s.lifted := by rw [State.relifted, State.liftedHalt, none_left, State.lifted]
    rw [same]
    exact saveEvaluation_liftOwnHalt s

theorem offers_relifted (s : State) : Offers { s with ownHalt := s.liftedHalt } s.relifted := offers_announceHalt _

/-- R96: the own halt that a propagating cause leaves. -/
theorem liftedHalt_of_cause {s : State} {c : Cause} (left : s.propagatingCause = some c) :
    s.liftedHalt = { s.ownHalt with reason := c.code, kind := .immediate, how := .cause } := by
  rw [State.liftedHalt, left]

theorem liftedHalt_of_none {s : State} (none_left : s.propagatingCause = none) : s.liftedHalt = .clear := by
  rw [State.liftedHalt, none_left]

theorem liftedHalt_owed {s : State} (paid : s.ownHalt.owed = .none) : s.liftedHalt.owed = .none := by
  unfold State.liftedHalt
  split
  · exact paid
  · rfl

/-- R96: a halt that stays raised is announced as immediate. -/
theorem payload_liftedHalt (s : State) : s.liftedHalt.payload =
    if s.liftedHalt.raised then .halt s.liftedHalt.reason .immediate else .lift := by
  unfold State.liftedHalt
  split <;> rfl

/-- The first propagating cause, in the order of the three causes. -/
theorem propagatingCause_of_any {s : State} (any : ((s.faults.estop && s.config.propagate.getLsbD 0) ||
    (s.faults.drvflt && s.config.propagate.getLsbD 1) ||
    (s.faults.followingGap && s.config.propagate.getLsbD 2)) = true) : ∃ c, s.propagatingCause = some c ∧
      c.code = if s.faults.estop && s.config.propagate.getLsbD 0 then 1
        else if s.faults.drvflt && s.config.propagate.getLsbD 1 then 2 else 3 := by
  rw [propagatingCause_eq]
  split
  · exact ⟨_, rfl, rfl⟩
  · rename_i no_estop
    split
    · exact ⟨_, rfl, rfl⟩
    · rename_i no_drvflt
      have gap : (s.faults.followingGap && s.config.propagate.getLsbD 2) = true := by
        rw [Bool.eq_false_of_not_eq_true no_estop, Bool.eq_false_of_not_eq_true no_drvflt] at any
        exact any
      rw [if_pos gap]
      exact ⟨_, rfl, rfl⟩

theorem propagatingCause_of_no {s : State} (no : ((s.faults.estop && s.config.propagate.getLsbD 0) ||
    (s.faults.drvflt && s.config.propagate.getLsbD 1) ||
    (s.faults.followingGap && s.config.propagate.getLsbD 2)) = false) : s.propagatingCause = none := by
  obtain ⟨h, gap⟩ := (Bool.or_eq_false_iff).mp no
  obtain ⟨estop, drvflt⟩ := (Bool.or_eq_false_iff).mp h
  rw [propagatingCause_eq, estop, drvflt, gap]
  rfl

theorem exec_liftHalt_of_headStays {s : State} (atRest : AtRest s) (awaits : s.awaitsCommand = true)
    (raised : s.ownHalt.raised = true) (how : s.ownHalt.how = .command) (stays : HeadStays s) :
    exec .liftHalt s = .next (respond .ok [byteOfBool s.propagatingCause.isSome] s.relifted) := by
  obtain ⟨t, lifts, save, -⟩ := liftByCommand_eq s
  have offers := offers_relifted s
  rw [exec_liftHalt_of_command awaits raised how, lifts,
    settle_respond_of_headStays (offers.handed.trans atRest) save (offers.headStays stays)]

/-- Settles O15. -/
theorem liftHaltFollowsItsTable : Obligations.LiftHaltFollowsItsTable := by
  intro s x n atRest awaits e d g
  have offers := offers_relifted s
  refine ⟨exec_liftHalt_of_not_command awaits, fun raised how stays => ?_, fun raised how faultless unhalted online dwell => ?_⟩
  · refine ⟨_, exec_liftHalt_of_headStays atRest awaits raised how stays, fun propagating => ?_, fun none_left => ?_,
      fun sends room owes => ?_, fun shut => ?_, ?_⟩
    · obtain ⟨c, left, code⟩ := propagatingCause_of_any propagating
      have halt := liftedHalt_of_cause left
      refine ⟨offers.raised.trans ?_, (congrArg OwnHalt.how offers.besidesOwed : _).trans ?_, offers.kind.trans ?_, offers.reason.trans ?_, ?_⟩
      · exact (congrArg OwnHalt.raised halt).trans raised
      · exact congrArg OwnHalt.how halt
      · exact congrArg OwnHalt.kind halt
      · exact (congrArg OwnHalt.reason halt).trans code
      · rw [left]
        rfl
    · have left := propagatingCause_of_no none_left
      have halt := liftedHalt_of_none left
      refine ⟨offers.raised.trans ?_, offers.reason.trans ?_, offers.kind.trans ?_, ?_⟩
      · exact congrArg OwnHalt.raised halt
      · exact congrArg OwnHalt.reason halt
      · exact congrArg OwnHalt.kind halt
      · rw [left]
        rfl
    · obtain ⟨owed, f, last, payload, dest, attempts⟩ := announceHalt_of_room (s := { s with ownHalt := s.liftedHalt })
        sends room (liftedHalt_owed owes)
      refine ⟨owed, f, last, payload.trans ((payload_liftedHalt s).trans ?_), dest, attempts⟩
      exact congrArg₂ (fun b r => if b = true then Payload.halt r .immediate else .lift) offers.raised.symm offers.reason.symm
    · exact owed_announceHalt_of_closed (s := { s with ownHalt := s.liftedHalt }) shut
    · exact (show _ = _ from congrArg (fun v : State => { v with port := s.port }) offers.back)
  · have left : s.propagatingCause = none := propagatingCause_of_no (by rw [faultless]; rfl)
    obtain ⟨t, lifts, -, now⟩ := liftByCommand_eq s
    have offers := offers_lifted s
    have may : s.lifted.mayStart = true := (mayStart_iff _).mpr ⟨by rw [offers.faults]; exact congrArg FaultSet.nonempty faultless,
      offers.raised, (congrArg State.haltListed offers.same :).trans unhalted,
      (congrArg State.lifecycle offers.same :).trans online⟩
    have unhalted : s.lifted.halted = false := by
      rw [State.halted, State.anyHalt, show s.lifted.ownHalt.raised = false from offers.raised,
        show s.lifted.haltListed = false from (congrArg State.haltListed offers.same :).trans unhalted,
        show s.lifted.faults = .empty from offers.faults.trans faultless]
      rfl
    have queue : s.lifted.queue = s.queue := (congrArg State.queue offers.same :)
    have axis : s.lifted.axis = s.axis := (congrArg State.axis offers.same :)
    have due : (liftOwnHalt s).handed.evaluate = true := by
      rw [liftOwnHalt_eq, unhalted]
      rfl
    have settled := settle_respond_of_dwellWaits (code := .ok) (data := [byteOfBool s.propagatingCause.isSome])
      (offers.handed.trans atRest) (saveEvaluation_liftOwnHalt s) due
      (show DwellWaits x n s.lifted from ⟨queue.trans dwell.1, dwell.2⟩) may
    refine ⟨_, (exec_liftHalt_of_command awaits raised how).trans (congrArg _ ((congrArg settle (lifts.trans (congrArg _ (now left)))).trans settled)), offers.raised, ?_, ⟨rfl, ?_⟩, ?_⟩
    · rw [left]
      rfl
    · rw [← axis]
      rfl
    · exact (show _ = _ from congrArg (fun v : State => { v with
        port := s.port, queue := s.queue, axis := s.axis }) offers.back)

/-! ### DISMISS (R102) -/

theorem exec_dismiss {s : State} (awaits : s.awaitsCommand = true) :
    exec .dismiss s = .next (settle (respond .ok [byteOfNat s.toDismiss.length] (dismiss s))) := by
  show execDismiss s = _
  unfold execDismiss
  rw [onPort_of_awaits awaits]

/-- R102: the entries of the stations removed, each with its notice. -/
def removeHalts (l : List Station) (s : State) : State := l.foldl (fun s n => removeHalt n .dismissed s) s

theorem removeHalts_cons (n : Station) (l : List Station) (s : State) :
    removeHalts (n :: l) s = removeHalts l (removeHalt n .dismissed s) := rfl

theorem removeHalt_eq (n : Station) (way : ClearedWay) (s : State) : removeHalt n way s =
    { s with
      halts := s.halts.set n.val none
      notices := (removeHalt n way s).notices
      lost := (removeHalt n way s).lost } :=
  notify_eq _ _

theorem removeHalts_eq (l : List Station) (s : State) : removeHalts l s =
    { s with
      halts := (removeHalts l s).halts
      notices := (removeHalts l s).notices
      lost := (removeHalts l s).lost } := by
  induction l generalizing s with
  | nil => rfl
  | cons n l ih =>
    rw [removeHalts_cons, ih (removeHalt n .dismissed s), removeHalt_eq n .dismissed s]

theorem halts_removeHalt (n : Station) (way : ClearedWay) (s : State) :
    (removeHalt n way s).halts = s.halts.set n.val none := by
  rw [removeHalt_eq]

theorem haltOf_removeHalt (n m : Station) (way : ClearedWay) (s : State) :
    (removeHalt n way s).haltOf m = if m = n then none else s.haltOf m := by
  rw [State.haltOf, halts_removeHalt, List.getD_eq_getElem?_getD, List.getElem?_set]
  by_cases same : m = n
  · rw [if_pos same, if_pos (congrArg Fin.val same.symm)]
    split <;> rfl
  · rw [if_neg same, if_neg fun eq => same (Fin.ext eq.symm), State.haltOf, List.getD_eq_getElem?_getD]

theorem haltOf_removeHalts (l : List Station) (m : Station) (s : State) :
    (removeHalts l s).haltOf m = if m ∈ l then none else s.haltOf m := by
  induction l generalizing s with
  | nil => rfl
  | cons n l ih =>
    rw [removeHalts_cons, ih, haltOf_removeHalt]
    by_cases later : m ∈ l
    · rw [if_pos later, if_pos (List.mem_cons_of_mem n later)]
    · rw [if_neg later]
      simp [later]

theorem length_removeHalts (l : List Station) (s : State) : (removeHalts l s).halts.length = s.halts.length := by
  induction l generalizing s with
  | nil => rfl
  | cons n l ih => rw [removeHalts_cons, ih, halts_removeHalt, List.length_set]

theorem notices_removeHalts {l : List Station} {s : State} (room : s.notices.length + l.length ≤ 16) :
    (removeHalts l s).notices = s.notices ++ l.map fun n => .haltCleared n .dismissed := by
  induction l generalizing s with
  | nil => exact (List.append_nil _).symm
  | cons n l ih =>
    have first : (removeHalt n .dismissed s).notices = s.notices ++ [.haltCleared n .dismissed] :=
      notify_notices_of_room (show s.notices.length < 16 by
        rw [List.length_cons] at room
        omega)
    rw [removeHalts_cons, ih, first, List.append_assoc]
    · rfl
    · rw [first, List.length_append, List.length_singleton]
      rw [List.length_cons] at room
      omega

theorem mem_toDismiss_iff (s : State) (n : Station) : n ∈ s.toDismiss ↔
    (s.haltOf n).isSome = true ∧ ((s.peer n).state = .lapsed ∨ (s.peer n).state = .absent) := by
  simp [State.toDismiss, State.dismissed]

theorem saveEvaluation_dismiss (s : State) : SaveEvaluation (removeHalts s.toDismiss s) (dismiss s) := by
  rw [dismiss]
  split
  · rfl
  · unfold haltsChanged
    split <;> rfl

/-- A full halt list with no entry at any station is empty. -/
theorem haltListed_of_haltOf_none {s : State} (full : s.halts.length = 32) (none_held : ∀ n, s.haltOf n = none) :
    s.haltListed = false := by
  rw [State.haltListed, List.any_eq_false]
  intro h member
  obtain ⟨i, lt, at_i⟩ := List.mem_iff_getElem.mp member
  have held := none_held ⟨i, full ▸ lt⟩
  rw [State.haltOf, List.getD_eq_getElem?_getD, List.getElem?_eq_getElem lt, at_i, Option.getD_some] at held
  rw [held]
  decide

/-- A nonempty halt list holds the entry of a station. -/
theorem exists_haltOf_of_haltListed {s : State} (full : s.halts.length = 32) (listed : s.haltListed = true) :
    ∃ n, (s.haltOf n).isSome = true := by
  by_contra no
  have none_held := haltListed_of_haltOf_none full fun n => Option.not_isSome_iff_eq_none.mp fun h => no ⟨n, h⟩
  rw [none_held] at listed
  cases listed

/-- Settles O16, by induction on the stations whose entries are removed. -/
theorem dismissRemovesSilentSources : Obligations.DismissRemovesSilentSources := by
  intro s x k atRest awaits fit silent gone
  have removed := removeHalts_eq s.toDismiss s
  have rest : AtRest (removeHalts s.toDismiss s) := by
    rw [removed]
    exact atRest
  refine ⟨fun stays => ?_, fun dwell online faultless unraised listed all => ?_⟩
  · have stays' : HeadStays (removeHalts s.toDismiss s) := by
      rw [removed]
      exact stays
    refine ⟨_, (exec_dismiss awaits).trans (congrArg _ (settle_respond_of_headStays rest (saveEvaluation_dismiss s) stays')),
      fun n => ?_, rfl, fun room => notices_removeHalts room, ?_⟩
    · show (removeHalts s.toDismiss s).haltOf n = _
      rw [haltOf_removeHalts]
      by_cases quiet : silent n
      · rw [if_pos quiet]
        split
        · rfl
        · rename_i kept
          exact Option.not_isSome_iff_eq_none.mp fun held => kept ((mem_toDismiss_iff s n).mpr ⟨held, quiet⟩)
      · rw [if_neg quiet, if_neg fun member => quiet ((mem_toDismiss_iff s n).mp member).2]
    · exact (show _ = _ from congrArg (fun v : State => { v with
        halts := s.halts, notices := s.notices, lost := s.lost, port := s.port }) removed)
  · have fullHalts : s.halts.length = 32 := fit.2
    have unlisted : (removeHalts s.toDismiss s).haltListed = false := by
      refine haltListed_of_haltOf_none ((length_removeHalts _ _).trans fullHalts) fun n => ?_
      rw [haltOf_removeHalts]
      split
      · rfl
      · rename_i kept
        exact Option.not_isSome_iff_eq_none.mp fun held => kept ((mem_toDismiss_iff s n).mpr ⟨held, all n held⟩)
    obtain ⟨n, held⟩ := exists_haltOf_of_haltListed fullHalts listed
    have some_dismissed : s.toDismiss.isEmpty = false :=
      List.isEmpty_eq_false_iff_exists_mem.mpr ⟨n, (mem_toDismiss_iff s n).mpr ⟨held, all n held⟩⟩
    have due : (dismiss s).handed.evaluate = true := by
      have removes : dismiss s = haltsChanged (removeHalts s.toDismiss s) := by
        rw [dismiss, some_dismissed]
        rfl
      rw [removes, haltsChanged, unlisted]
      rfl
    have queue : (removeHalts s.toDismiss s).queue = s.queue := (congrArg State.queue removed :)
    have axis : (removeHalts s.toDismiss s).axis = s.axis := (congrArg State.axis removed :)
    have may : (removeHalts s.toDismiss s).mayStart = true := (mayStart_iff _).mpr
      ⟨(congrArg (fun v : State => v.faults.nonempty) removed : _).trans (by rw [faultless]; rfl),
        (congrArg (fun v : State => v.ownHalt.raised) removed : _).trans unraised, unlisted,
        (congrArg State.lifecycle removed :).trans online⟩
    refine ⟨_, (exec_dismiss awaits).trans (congrArg _ (settle_respond_of_dwellWaits rest (saveEvaluation_dismiss s) due
      (show DwellWaits x k _ from ⟨queue.trans dwell.1, dwell.2⟩) may)), unlisted, ⟨rfl, ?_⟩, ?_⟩
    · rw [← axis]
      rfl
    · exact (show _ = _ from congrArg (fun v : State => { v with
        halts := s.halts, notices := s.notices, lost := s.lost, port := s.port, queue := s.queue, axis := s.axis }) removed)

end Sys2Proof.Machine

/-! PROOFS. EMIT_MARK (R55), CLEAR_REACTION (R66) and REARM (R67). -/

namespace Sys2Proof.Machine

/-! ### The arguments of EMIT_MARK (R55) -/

/-- The stamp that a choice below 3 names. -/
def stampNamed (choice : Byte) (command value : Position) : Option Position :=
  if choice = 0 then none else if choice = 1 then some command else some value

theorem stampOf_of_meaning {choice : Byte} (named : choice.toNat < 3) (command value : Position) :
    stampOf choice command value = some (stampNamed choice command value) := by
  have small : choice = 0 ∨ choice = 1 ∨ choice = 2 := by bv_omega
  rcases small with rfl | rfl | rfl <;> rfl

theorem stampOf_of_no_meaning {choice : Byte} (none_named : 3 ≤ choice.toNat) (command value : Position) :
    stampOf choice command value = none := by
  unfold stampOf
  split
  case h_4 => rfl
  all_goals omega

theorem exec_emitMark_of_meaning {mark choice : Byte} {s : State} (awaits : s.awaitsCommand = true)
    (inside : mark.toNat < 64) (named : choice.toNat < 3) (value : Position) : exec (.emitMark mark choice value) s =
      .next (settle (emitMark (Fin.ofNat 64 mark.toNat) (stampNamed choice s.command value) s)) := by
  show execEmitMark mark choice value s = _
  unfold execEmitMark
  rw [onPort_of_awaits awaits, toFin?_eq_ite, if_pos inside, stampOf_of_meaning named]

theorem exec_emitMark_of_no_meaning {mark choice : Byte} {s : State} (awaits : s.awaitsCommand = true)
    (bad : 64 ≤ mark.toNat ∨ 3 ≤ choice.toNat) (value : Position) :
    exec (.emitMark mark choice value) s = .next (respond .invalid [] s) := by
  show execEmitMark mark choice value s = _
  unfold execEmitMark
  rw [onPort_of_awaits awaits, toFin?_eq_ite]
  rcases bad with bad | bad
  · rw [if_neg (by omega)]
  · rw [stampOf_of_no_meaning bad]
    split
    · contradiction
    · rfl

/-! ### A request that is not sent (R51, R53) -/

/-- R51: why a mark is not sent. -/
def State.whyNotSent (s : State) : NotSentReason :=
  if s.canSend then .refused else if s.lifecycle = .online then .withdrawn else .notOnline

/-- R51, R130: with the queue closed or no room for a frame of its class the mark is not sent. -/
theorem requestMark_not_sent {s : State} (shut : s.canSend = false ∨ 10 ≤ s.outbound.length) (m : Mark)
    (stamp : Option Position) (o : EmitOrigin) (i : Byte) : requestMark m stamp o i s =
      handLoopBack m stamp (notify (.markNotSent m s.whyNotSent o i) s) := by
  unfold requestMark
  split
  · rename_i sends
    have full : 10 ≤ s.outbound.length := shut.resolve_left (by simp [sends])
    have none_admitted : admission .broadcast (.mark m stamp) s = none := by
      refine if_neg ?_
      rw [sends, State.hasRoom, if_neg (show ¬ (Payload.mark m stamp).kind.cls = 0 by exact Nat.one_ne_zero)]
      simp only [Bool.true_and, decide_eq_true_eq]
      omega
    rw [none_admitted, State.whyNotSent, if_pos sends]
    rfl
  · rename_i closed
    rw [State.whyNotSent, if_neg closed]
    rfl

/-- The own mark looped back is taken, and then what it hands on (R53, R58). -/
theorem settle_handLoopBack {s : State} (atRest : AtRest s) (m : Mark) (stamp : Option Position) :
    settle (handLoopBack m stamp s) = settle (takeArrival { source := s.station, mark := m, stamp } s) := by
  have same : s = { s with handed := .empty } := by rw [← show s.handed = .empty from atRest]
  rw [same]
  exact settle_of_waits rfl

theorem settle_requestMark_not_sent {s : State} (atRest : AtRest s) (shut : s.canSend = false ∨ 10 ≤ s.outbound.length)
    (m : Mark) (stamp : Option Position) (o : EmitOrigin) (i : Byte) : settle (requestMark m stamp o i s) =
      settle (takeArrival { source := s.station, mark := m, stamp } (notify (.markNotSent m s.whyNotSent o i) s)) := by
  rw [requestMark_not_sent shut, settle_handLoopBack]
  · rw [notify_eq]
  · rw [notify_eq]
    exact atRest

/-! ### An arrival on which no entry acts (R59) -/

theorem getD_acts {a : Arrival} {own : Station} {l : List Reaction} (none_acts : ∀ r ∈ l, r.acts own a = false) (n : Nat) :
    (l.getD n .cleared).acts own a = false := by
  rw [List.getD_eq_getElem?_getD]
  cases entry : l[n]? with
  | none => rfl
  | some r => exact none_acts r (List.mem_of_getElem? entry)

theorem takeArrival_of_none_acts {a : Arrival} {s : State} (none_acts : ∀ r ∈ s.reactions, r.acts s.station a = false) :
    takeArrival a s = s := by
  have entries : (s.reactions.map fun r => if r.acts s.station a then r.act else r) = s.reactions := by
    refine (List.map_congr_left fun r member => ?_).trans (List.map_id _)
    rw [none_acts r member]
    rfl
  have requests : (entryIndices.filterMap fun n => requestOf s.station a n (s.reactions.getD n.val .cleared)) = [] := by
    rw [List.filterMap_eq_nil_iff]
    intro n _
    rw [requestOf, getD_acts none_acts]
    rfl
  unfold takeArrival
  simp only [entries, requests, List.append_nil]

/-! ### EMIT_MARK (R55) -/

theorem emitMark_sent {s : State} (sends : s.canSend = true) (room : s.outbound.length < 10) (m : Mark)
    (stamp : Option Position) : emitMark m stamp s = respond .ok [1] (requestMark m stamp .command 0 s) := by
  have fits : s.hasRoom 1 = true := decide_eq_true room
  rw [emitMark, sends, fits]
  rfl

theorem emitMark_not_sent {s : State} (shut : s.canSend = false ∨ 10 ≤ s.outbound.length) (m : Mark)
    (stamp : Option Position) : emitMark m stamp s = requestMark m stamp .command 0 (respond .ok [0] s) := by
  have refused : (s.canSend && s.hasRoom 1) = false := by
    rcases shut with shut | full
    · rw [shut]
      rfl
    · rw [show s.hasRoom 1 = false from decide_eq_false (by omega)]
      exact Bool.and_false _
  rw [emitMark, refused, requestMark_not_sent shut, requestMark_not_sent (s := respond .ok [0] s) shut, notify_respond]
  rfl

/-- Settles O17. -/
theorem emitMarkSendsOrLoopsBack : Obligations.EmitMarkSendsOrLoopsBack := by
  intro s mark choice value atRest awaits m stamp
  refine ⟨fun bad => exec_emitMark_of_no_meaning awaits bad value, fun inside named sends room => ?_,
    fun inside named shut => ?_, fun inside named shut quiet => ?_⟩
  · obtain ⟨l, admitted, sequence⟩ := requestMark_admitted sends room m stamp .command 0
    have settled : settle (emitMark m stamp s) = respond .ok [1] (requestMark m stamp .command 0 s) := by
      rw [emitMark_sent sends room, admitted]
      exact settle_of_atRest atRest
    rw [admitted] at settled
    exact ⟨_, (exec_emitMark_of_meaning awaits inside named value).trans (congrArg _ settled), rfl, rfl, sequence, rfl, rfl⟩
  · rw [exec_emitMark_of_meaning awaits inside named]
    refine congrArg Host.Outcome.next ((congrArg settle (emitMark_not_sent shut _ _)).trans ?_)
    refine (settle_requestMark_not_sent (s := respond .ok [0] s) atRest shut _ _ _ _).trans ?_
    rw [notify_respond]
    rfl
  · have told : settle (emitMark m stamp s) = respond .ok [0] (notify (.markNotSent m s.whyNotSent .command 0) s) := by
      refine (congrArg settle (emitMark_not_sent shut _ _)).trans ?_
      refine (settle_requestMark_not_sent (s := respond .ok [0] s) atRest shut _ _ _ _).trans ?_
      rw [takeArrival_of_none_acts (by rw [notify_eq]; exact quiet), settle_of_atRest, notify_respond]
      · rfl
      · rw [notify_eq]
        exact atRest
    refine ⟨_, (exec_emitMark_of_meaning awaits inside named value).trans (congrArg _ told), rfl,
      fun room => notify_notices_of_room room, ?_⟩
    rw [notify_eq]
    rfl

/-! ### CLEAR_REACTION (R66) -/

/-- Settles O19. -/
theorem clearReactionFreesTheEntry : Obligations.ClearReactionFreesTheEntry := by
  intro s index own a atRest awaits r r'
  refine ⟨fun outside => ?_, fun inside => ?_, rfl⟩
  · show execClearReaction index s = _
    unfold execClearReaction
    rw [onPort_of_awaits awaits, toFin?_eq_ite, if_neg (by omega)]
  · show execClearReaction index s = _
    unfold execClearReaction
    rw [onPort_of_awaits awaits, toFin?, dif_pos inside]
    refine congrArg Host.Outcome.next ((settle_respond_setReactionAt .ok _ ⟨index.toNat, inside⟩ atRest rfl).trans ?_)
    rw [byteOfBool]
    rfl

/-! ### REARM (R67) -/

theorem set_getD_self {α : Type} (l : List α) (n : Nat) (d : α) : l.set n (l.getD n d) = l := by
  refine List.ext_getElem? fun i => ?_
  rw [List.getElem?_set, List.getD_eq_getElem?_getD]
  split
  · rename_i same
    subst same
    split
    · rename_i inside
      rw [List.getElem?_eq_getElem inside]
      rfl
    · rename_i outside
      rw [List.getElem?_eq_none (by omega)]
  · rfl

theorem exec_rearm_of_inside {index : Byte} {s : State} (awaits : s.awaitsCommand = true) (inside : index.toNat < 24) :
    exec (.rearm index) s = .next (
      let r := s.reactions.getD index.toNat .cleared
      if r.inUse then respond .ok [if r.spent then 1 else 0, BitVec.ofNat 8 r.tally, if r.overflow then 1 else 0]
        { s with reactions := s.reactions.set index.toNat { r with spent := false } }
      else respond .state [] s) := by
  show execRearm index s = _
  unfold execRearm
  rw [onPort_of_awaits awaits, toFin?, dif_pos inside]
  exact (apply_ite Host.Outcome.next _ _ _).symm

/-- Settles O20. -/
theorem rearmArmsTheEntry : Obligations.RearmArmsTheEntry := by
  intro s index awaits r told
  refine ⟨fun outside => ?_, fun inside free => ?_, fun inside used => ?_, fun inside used armed => ?_⟩
  · show execRearm index s = _
    unfold execRearm
    rw [onPort_of_awaits awaits, toFin?_eq_ite, if_neg (by omega)]
  · rw [exec_rearm_of_inside awaits inside]
    exact congrArg Host.Outcome.next (if_neg (Bool.not_eq_true _ ▸ free))
  · rw [exec_rearm_of_inside awaits inside]
    exact congrArg Host.Outcome.next (if_pos used)
  · rw [exec_rearm_of_inside awaits inside]
    have entry : s.reactions.getD index.toNat .cleared = { r with spent := false } := by
      rw [← armed]
    have unchanged : s.reactions.set index.toNat { r with spent := false } = s.reactions := by
      rw [← entry]
      exact set_getD_self _ _ _
    refine congrArg Host.Outcome.next ((if_pos used).trans ?_)
    exact congrArg (fun l => respond .ok told { s with reactions := l }) unchanged

end Sys2Proof.Machine

/-! PROOFS. Cuts as the Profile Generator takes them (R39, R40). -/

namespace Sys2Proof.Machine

/-! ### An only head of the Local Port that ends (R17) -/

/-- R17: it leaves the queue empty and the axis at rest, with its end mark and its notice. -/
theorem retireHead_of_only {o : Retirement} {e : Entry} {s : State} (ends : o = .completed ∨ o = .cut)
    (queue : s.queue = [e]) (origin : e.origin = .localPort) :
    retireHead o s = handEvaluate (notify (.segmentRetired e.segment.tag .localPort o s.command)
      (requestMark? e.segment.endMark .finish e.segment.tag s.over)) := by
  have command : (requestMark? e.segment.endMark .finish e.segment.tag s.over).command = s.command :=
    (marks_requestMark? _ _ _ _).command
  rw [retireHead_cons o queue, ← command]
  rcases ends with rfl | rfl <;> simp only [retireEffects, origin] <;> rfl

/-- The same without an end mark, once the evaluation handed on is taken. -/
theorem settle_retireHead_of_only {o : Retirement} {e : Entry} {s : State} (atRest : AtRest s)
    (ends : o = .completed ∨ o = .cut) (queue : s.queue = [e]) (origin : e.origin = .localPort)
    (mark : e.segment.endMark = none) :
    settle (retireHead o s) = notify (.segmentRetired e.segment.tag .localPort o s.command) s.over := by
  rw [retireHead_of_only ends queue origin, mark]
  exact settle_retired atRest

/-- The same with an end mark that is sent. -/
theorem settle_retireHead_of_marked {o : Retirement} {e : Entry} {s : State} (atRest : AtRest s)
    (ends : o = .completed ∨ o = .cut) (queue : s.queue = [e]) (origin : e.origin = .localPort)
    (mark : e.segment.endMark = none ∨ s.canSend = true ∧ s.outbound.length < 10) :
    ∃ l n, settle (retireHead o s) = notify (.segmentRetired e.segment.tag .localPort o s.command)
      { s.over with
        outbound := s.outbound ++ e.segment.endMark.toList.map fun m => s.newFrame .broadcast (.mark m (some s.command))
        emissions := s.emissions ++ e.segment.endMark.toList.map fun m => s.emission m .finish e.segment.tag
        lif := l, nextFrame := n } := by
  obtain ⟨l, n, sent, -⟩ := requestMark?_sent (s := s.over) mark .finish e.segment.tag
  refine ⟨l, n, ?_⟩
  rw [retireHead_of_only ends queue origin, sent]
  exact settle_told_of_empty atRest rfl

/-! ### The cut by the state it finds (R39, R40) -/

theorem takeCut_of_idle {s : State} (h : s.runningHead = none ∨ s.axis.state = .braking) : takeCut s = s := by
  unfold takeCut
  rcases h with h | h
  · rw [h]
  · rw [h]
    split <;> rfl

theorem takeCut_of_dwell {e : Entry} {s : State} (head : s.runningHead = some e) (dwell : s.axis.state = .dwell) :
    takeCut s = retireHead .cut s := by
  unfold takeCut
  rw [head, dwell]

theorem takeCut_of_motion {e : Entry} {s : State} (head : s.runningHead = some e)
    (motion : s.axis.state = .rampUp ∨ s.axis.state = .cruise ∨ s.axis.state = .rampDown) : takeCut s =
      if s.axis.found then s
      else if e.segment.body.isRun && e.segment.chain && !s.axis.committed then cutChainedRun e s
      else cutBrake e s := by
  unfold takeCut
  rw [head]
  rcases motion with h | h | h <;> rw [h]

/-- R39: a cut that is not the commitment of a chained RUN is an ordinary one. -/
theorem takeCut_of_plain {e : Entry} {s : State} (head : s.runningHead = some e)
    (motion : s.axis.state = .rampUp ∨ s.axis.state = .cruise ∨ s.axis.state = .rampDown)
    (plain : e.segment.chain = false ∨ e.segment.body.isRun = false ∨ s.axis.committed = true)
    (unfound : s.axis.found = false) : takeCut s = cutBrake e s := by
  have ordinary : (e.segment.body.isRun && e.segment.chain && !s.axis.committed) = false := by
    rcases plain with h | h | h <;> simp [h]
  rw [takeCut_of_motion head motion, unfound, ordinary]
  rfl

/-- R40: a head cut above base speed brakes at its own rate, a Committed entry behind it back in Waiting. -/
theorem cutBrake_above {e : Entry} {s : State} (fast : s.config.baseSpeed.toNat * 65536 < s.axis.speed) : cutBrake e s =
    { s with
      queue := s.queue.take 1 ++ (s.queue.drop 1).map Entry.uncommit
      axis := { s.axis with
        state := .braking, braking := .cut, brakeRate := e.decelRate, blend := none, committed := true
        found := false } } :=
  if_neg (Nat.not_le_of_lt fast)

/-- R40: an only head cut at or below base speed ends at once. -/
theorem cutBrake_below {e : Entry} {s : State} (slow : s.axis.speed ≤ s.config.baseSpeed.toNat * 65536)
    (only : s.queue = [e]) : cutBrake e s = retireHead (if e.segment.body.isRun then .completed else .cut) s := by
  have tail : { s with queue := s.queue.take 1 ++ (s.queue.drop 1).map Entry.uncommit } = s := by
    rw [only]
    exact (congrArg (fun q => { s with queue := q }) only.symm : _)
  rw [cutBrake, tail]
  exact if_pos slow


end Sys2Proof.Machine

/-! PROOFS. Arrivals at the Reaction Table (R58 to R64). -/

namespace Sys2Proof.Machine

/-! ### Which entries act, and what they become (R59, R60) -/

theorem Reaction.acts_iff (r : Reaction) (own : Station) (a : Arrival) : r.acts own a = true ↔
    r.inUse = true ∧ r.spent = false ∧ (r.source = none ∨ r.source = some a.source) ∧ r.mark = a.mark ∧
      ((∃ m : Mark, r.action = .emit m) → a.source ≠ own) := by
  unfold Reaction.acts
  simp only [Bool.and_eq_true, Bool.not_eq_true', Bool.or_eq_true, beq_iff_eq, and_assoc]
  cases r.action <;> simp

theorem Reaction.act_of_other {r : Reaction} (armed : r.spent = false) (other : r.action ≠ .tally) :
    r.act = { r with spent := r.once } := by
  obtain ⟨inUse, source, mark, action, once, spent, tally, overflow⟩ := r
  obtain rfl : spent = false := armed
  unfold Reaction.act
  split
  · contradiction
  · cases once <;> rfl

theorem Reaction.act_of_tally {r : Reaction} (armed : r.spent = false) (counts : r.action = .tally) : r.act =
    { r with
      spent := r.once
      tally := if r.tally < 15 then r.tally + 1 else r.tally
      overflow := if 15 ≤ r.tally then true else r.overflow } := by
  obtain ⟨inUse, source, mark, action, once, spent, tally, overflow⟩ := r
  obtain rfl : spent = false := armed
  obtain rfl : action = .tally := counts
  unfold Reaction.act
  by_cases room : tally < 15
  · simp only [if_pos room, if_neg (Nat.not_le_of_lt room)]
    cases once <;> rfl
  · simp only [if_neg room, if_pos (Nat.le_of_not_lt room)]
    cases once <;> rfl

theorem Reaction.act_facts {r : Reaction} (armed : r.spent = false) : r.act.spent = r.once ∧
    r.act.tally = (if r.action = .tally ∧ r.tally < 15 then r.tally + 1 else r.tally) ∧
    r.act.overflow = (if r.action = .tally ∧ 15 ≤ r.tally then true else r.overflow) ∧
    { r.act with spent := r.spent, tally := r.tally, overflow := r.overflow } = r := by
  by_cases counts : r.action = .tally
  · rw [Reaction.act_of_tally armed counts]
    refine ⟨rfl, ?_, ?_, rfl⟩ <;> simp only [counts, true_and]
  · rw [Reaction.act_of_other armed counts]
    refine ⟨rfl, ?_, ?_, rfl⟩ <;> simp only [counts, false_and, if_false]

/-- A TALLY entry that has acted holds a count. -/
theorem Reaction.act_tally_ne_zero {r : Reaction} (armed : r.spent = false) (tally : r.action = .tally) :
    r.act.tally ≠ 0 := by
  rw [Reaction.act_of_tally armed tally]
  show (if r.tally < 15 then r.tally + 1 else r.tally) ≠ 0
  split <;> omega

theorem reaction_takeArrival (a : Arrival) (s : State) (k : Fin 24) : (takeArrival a s).reaction k =
    if (s.reaction k).acts s.station a then (s.reaction k).act else s.reaction k :=
  List.getD_map (n := k.val) s.reactions Reaction.cleared fun r => if r.acts s.station a then r.act else r

/-! ### The one entry that acts (R58, R59) -/

/-- The request of an entry that acts. -/
def State.request (s : State) (a : Arrival) (n : Fin 24) : Request :=
  { entry := n, action := (s.reaction n).action, source := a.source, mark := a.mark }

theorem entryIndices_eq (n : Fin 24) : entryIndices.filter (fun k => decide (k = n)) = [n] := by
  revert n
  decide

theorem requests_of_one {a : Arrival} {s : State} {n : Fin 24}
    (one : ∀ k : Fin 24, (s.reaction k).acts s.station a = true ↔ k = n) :
    (entryIndices.filterMap fun k => requestOf s.station a k (s.reactions.getD k.val .cleared)) = [s.request a n] := by
  have each : ∀ k ∈ entryIndices, requestOf s.station a k (s.reactions.getD k.val .cleared) =
      if decide (k = n) then some (s.request a k) else none := fun k _ => by
    have same : (s.reaction k).acts s.station a = decide (k = n) := by rw [Bool.eq_iff_iff, one k, decide_eq_true_eq]
    show (if (s.reaction k).acts s.station a then _ else _) = _
    rw [same]
    rfl
  rw [List.filterMap_congr each, ← List.filterMap_filter, entryIndices_eq]
  rfl

/-- The state with the Reaction Table as an arrival leaves it. -/
def State.reacted (s : State) (a : Arrival) : State := { s with reactions := (takeArrival a s).reactions }

/-- R58: the request of the one entry that acts is taken. -/
theorem settle_takeArrival_of_one {a : Arrival} {s : State} {n : Fin 24} (atRest : AtRest s)
    (one : ∀ k : Fin 24, (s.reaction k).acts s.station a = true ↔ k = n) :
    settle (takeArrival a s) = settle (takeRequest (s.request a n) (s.reacted a)) := by
  have arrives : takeArrival a s = { s.reacted a with handed := { Handed.empty with requests := [s.request a n] } } := by
    unfold takeArrival State.reacted
    rw [requests_of_one one, show s.handed = .empty from atRest]
    rfl
  have back : { s.reacted a with handed := .empty } = s.reacted a := by
    rw [← show (s.reacted a).handed = .empty from atRest]
  rw [arrives]
  refine (settle_of_waits rfl).trans (congrArg settle ?_)
  exact congrArg (takeRequest (s.request a n)) back


/-! ### TALLY (R60) -/

theorem getD_set_same {α : Type} {l : List α} {n : Nat} (inside : n < l.length) (x d : α) : (l.set n x).getD n d = x := by
  rw [List.getD_eq_getElem?_getD, List.getElem?_set_self inside, Option.getD_some]

theorem getD_set_of_ne {α : Type} {l : List α} {n m : Nat} (other : m ≠ n) (x d : α) :
    (l.set n x).getD m d = l.getD m d := by
  rw [List.getD_eq_getElem?_getD, List.getElem?_set_ne other.symm, List.getD_eq_getElem?_getD]

theorem headWaitsOn_of_other {p : Gate → Bool} {s : State} (other : ∀ e ∈ s.queue.head?, p e.segment.gate = false) :
    headWaitsOn p s = false := by
  unfold headWaitsOn
  split
  · rename_i e rest queue
    rw [other e (by rw [queue]; exact Option.mem_some_self e), Bool.and_false]
  · rfl

theorem settle_handTally_of_other {n : Fin 24} {s : State} (atRest : AtRest s)
    (other : s.queue = [] ∨ ∀ e ∈ s.queue.head?, e.segment.gate ≠ .tally n) : settle (handTally n s) = s := by
  have none_waits : headWaitsOn (fun g => g == .tally n) s = false := by
    refine headWaitsOn_of_other fun e head => ?_
    rcases other with empty | other
    · rw [empty] at head
      cases head
    · exact beq_eq_false_iff_ne.mpr (other e head)
  rw [handTally, handGateChange, none_waits]
  exact settle_of_atRest atRest

/-- R12, R13, R35: an only DWELL whose gate is open starts, its gate consumed. -/
theorem evaluateHead_of_open_dwell {watch : WatchTake} {e : Entry} {k : Nat} {s : State} (queue : s.queue = [e])
    (waiting : e.state = .waiting) (unconsumed : e.consumed = false) (opened : s.gateOpen e.segment.gate = true)
    (body : e.segment.body = .dwell k) (mark : e.segment.startMark = none) (may : s.mayStart = true) :
    evaluateHead watch s = { s.dwelling e k with reactions := s.consumed e.segment.gate } := by
  have starts : (e.state == .waiting && s.mayStart && (e.consumed || s.gateOpen e.segment.gate)) = true := by
    simp [waiting, may, opened]
  have consumes : (if e.consumed then some s else consumeGate e.segment.gate s) =
      some { s with reactions := s.consumed e.segment.gate } := by
    rw [unconsumed, consumeGate_of_open opened]
    rfl
  unfold evaluateHead
  rw [queue]
  refine (if_pos starts).trans ?_
  rw [startHead, consumes]
  show runHead watch e.segment _ = _
  unfold runHead
  rw [body, mark]
  rfl

theorem settle_handTally_of_dwell {n : Fin 24} {e : Entry} {k : Nat} {s : State} (atRest : AtRest s)
    (queue : s.queue = [e]) (waiting : e.state = .waiting) (unconsumed : e.consumed = false)
    (gate : e.segment.gate = .tally n) (body : e.segment.body = .dwell k) (mark : e.segment.startMark = none)
    (may : s.mayStart = true) (counted : (s.reaction n).tally ≠ 0) : settle (handTally n s) =
      { s.dwelling e k with
        reactions := s.reactions.set n.val { s.reaction n with tally := (s.reaction n).tally - 1 } } := by
  have waits : headWaitsOn (fun g => g == .tally n) s = true := by
    unfold headWaitsOn
    rw [queue]
    simp [waiting, unconsumed, gate]
  have opened : s.gateOpen e.segment.gate = true := by
    rw [gate]
    exact bne_iff_ne.mpr counted
  have consumed : s.consumed e.segment.gate =
      s.reactions.set n.val { s.reaction n with tally := (s.reaction n).tally - 1 } := by rw [gate]; rfl
  rw [handTally, handGateChange, if_pos waits, settle_handEvaluate atRest,
    evaluateHead_of_open_dwell queue waiting unconsumed opened body mark may, consumed]
  exact settle_of_atRest atRest

/-! ### STOP_LOCAL (R64) -/

theorem Frames.atRest {s t : State} (h : Frames s t) (atRest : AtRest s) : AtRest t := h.handed.trans atRest

/-- R64: the notice, then the stop with its flush. -/
theorem settle_stopLocal {x : Notice} {s : State} (atRest : AtRest s) (order : QueueInOrder s) :
    ∃ t, settle (orderStop .decelerating (notify x s)) = t ∧ StopMade .decelerating s t ∧
      (s.notices.length < 16 → (t.notices.drop s.notices.length).head? = some x) ∧
      { t with
        queue := s.queue, axis := s.axis, notices := s.notices, lost := s.lost, outbound := s.outbound
        nextFrame := s.nextFrame, lif := s.lif } = s := by
  have told := frames_notify x s
  have queue : (notify x s).queue = s.queue := told.marks.queue
  have axis : (notify x s).axis = s.axis := told.marks.axis
  have ordered : QueueInOrder (notify x s) := by
    rw [QueueInOrder, OnlyHeadRuns, AxisFollowsQueue, queue, axis]
    exact order
  have stops := stops_orderStop .decelerating (notify x s)
  refine ⟨_, settle_of_onlyEvaluates (stops.onlyEvaluates (told.atRest atRest)) (headStays_orderStop _ ordered), ?_,
    fun room => ?_, ?_⟩
  · exact (stopMade_orderStop _ ordered).congr queue axis told.marks.config rfl rfl
  · obtain ⟨l, all⟩ := stops.notices
    rw [← show _ = (orderStop .decelerating (notify x s)).notices from all, notify_notices_of_room room, List.append_assoc,
      List.drop_left]
    rfl
  · have same := (stops.same.trans (congrArg State.besidesStop (notify_eq x s)) :)
    have others := congrArg (fun v : State => { v with
      queue := s.queue, axis := s.axis, notices := s.notices, lost := s.lost, outbound := s.outbound
      nextFrame := s.nextFrame, lif := s.lif, handed := .empty }) same
    refine (show _ = _ from others).trans ?_
    show { s with handed := _ } = s
    rw [← show s.handed = .empty from atRest]

/-! ### The obligation -/

/-- Settles O21: the one request is taken by its own block. -/
theorem arrivalChangesEveryActingEntry : Obligations.ArrivalChangesEveryActingEntry := by
  intro s a n fit r r'
  have changes : r' = if r.acts s.station a then r.act else r := reaction_takeArrival a s n
  refine ⟨r.acts_iff s.station a, fun quiet => ?_, fun acts => ?_, rfl, rfl, fun atRest one => ?_⟩
  · rw [changes, quiet]
    rfl
  · have armed : r.spent = false := ((r.acts_iff s.station a).mp acts).2.1
    have acted : r' = r.act := by rw [changes, if_pos acts]
    rw [acted]
    exact Reaction.act_facts armed
  have acts : r.acts s.station a = true := (one n).mpr rfl
  have armed : r.spent = false := ((r.acts_iff s.station a).mp acts).2.1
  have acted : r' = r.act := by rw [changes, if_pos acts]
  intro t u
  have settled : t = settle (takeRequest (s.request a n) u) := settle_takeArrival_of_one atRest one
  have rest : AtRest u := atRest
  have entry : u.reaction n = r' := rfl
  have taken {x : Action} (action : r.action = x) : t = settle (takeRequest ⟨n, x, a.source, a.mark⟩ u) := by
    rw [settled, State.request, show (s.reaction n).action = x from action]
  refine ⟨fun action => ⟨fun other => ?_, fun e k queue waiting unconsumed gate body mark may => ?_⟩,
    fun action => ⟨fun idle => ?_, fun e head slows found => ?_, fun e head plain unfound motion fast => ?_,
      fun e head dwell only origin mark => ?_⟩,
    ?capture, fun m action => ⟨fun sends room => ?_, fun shut => ?_⟩, fun action order => ?_⟩
  · exact (taken action).trans (settle_handTally_of_other rest other)
  · have starts : t = _ := (taken action).trans (settle_handTally_of_dwell rest queue waiting unconsumed gate body mark may
      (by rw [entry, acted]; exact Reaction.act_tally_ne_zero armed action))
    have inside : n.val < u.reactions.length := by
      rw [show u.reactions.length = s.reactions.length from List.length_map _, fit.1]
      exact n.isLt
    have at_n : t.reaction n = { r' with tally := r'.tally - 1 } := by
      rw [starts, State.reaction]
      exact getD_set_same inside _ _
    refine ⟨by rw [starts]; exact ⟨rfl, rfl⟩, at_n, fun m other => ?_, ?_⟩
    swap
    · rw [starts]
      rfl
    have quiet : (s.reaction m).acts s.station a = false :=
      Bool.eq_false_of_not_eq_true fun acts => other ((one m).mp acts)
    have kept : u.reaction m = s.reaction m := (reaction_takeArrival a s m).trans (by rw [quiet]; rfl)
    rw [starts, ← kept]
    exact getD_set_of_ne (fun same => other (Fin.ext same)) _ _
  · exact (taken action).trans ((congrArg settle (takeCut_of_idle (s := u) idle)).trans (settle_of_atRest rest))
  · have stays : takeCut u = u := (takeCut_of_motion (s := u) head (.inr (.inr slows))).trans (if_pos found)
    exact (taken action).trans ((congrArg settle stays).trans (settle_of_atRest rest))
  · have cuts : takeCut u = _ := (takeCut_of_plain (s := u) head motion plain unfound).trans (cutBrake_above fast)
    exact (taken action).trans ((congrArg settle cuts).trans (settle_of_atRest rest))
  · have cuts : takeCut u = retireHead .cut u := takeCut_of_dwell (s := u) head dwell
    obtain ⟨l, k, ends⟩ := settle_retireHead_of_marked (s := u) rest (.inr rfl) only origin mark
    have now : t = _ := (taken action).trans ((congrArg settle cuts).trans ends)
    rw [now, notify_eq]
    exact ⟨rfl, rfl, fun room => notify_notices_of_room (by exact room), rfl, rfl, rfl⟩
  case capture =>
    intro x action d
    refine ⟨fun empty => ?_, fun valid => ?_⟩
    · have fills : trigger x (.reaction n) u = _ := trigger_of_empty (s := u) empty
      refine (taken action).trans ((congrArg settle fills).trans (settle_of_atRest ?_))
      exact (frames_notify _ _).atRest rest
    · have misses : trigger x (.reaction n) u = _ := trigger_of_valid (s := u) valid
      exact (taken action).trans ((congrArg settle misses).trans (settle_of_atRest rest))
  · obtain ⟨l, sent, -⟩ := requestMark_admitted (s := u) sends room m none .reaction (byteOfNat n.val)
    have now : t = _ := (taken action).trans ((congrArg settle sent).trans (settle_of_atRest rest))
    rw [now]
    exact ⟨rfl, rfl, rfl⟩
  · exact (taken action).trans (settle_requestMark_not_sent (s := u) rest shut m none .reaction (byteOfNat n.val))
  · obtain ⟨v, stop, made, told, back⟩ := settle_stopLocal (x := .stoppedByReaction n a.source a.mark) rest order
    have now : t = v := (taken action).trans stop
    rw [now]
    exact ⟨made, told, back⟩
end Sys2Proof.Machine

/-! PROOFS. SET_WATCH (R74), SET_CAPTURE (R77) and READ_CAPTURE (R79). -/

namespace Sys2Proof.Machine

/-! ### The arguments of SET_WATCH (R74, R200) -/

theorem watchMarkOf_isSome {arm : Bool} {b : Byte} :
    (watchMarkOf arm b).isSome = true ↔ (arm = true → (markOfByte b).isSome = true) := by
  unfold watchMarkOf
  cases markOfByte b <;> cases arm <;> simp

theorem watchMarkOf_eq {arm : Bool} {b : Byte} (named : arm = true → (markOfByte b).isSome = true) :
    watchMarkOf arm b = some ((markOfByte b).getD none) := by
  unfold watchMarkOf
  cases mark : markOfByte b with
  | some m => rfl
  | none =>
    rw [mark] at named
    cases arm with
    | true => exact absurd (named rfl) (by decide)
    | false => rfl

/-- The condition that a byte below 4 names. -/
def conditionNamed (b : Byte) : WatchCondition :=
  if b = 0 then .atOrAbove else if b = 1 then .below else if b = 2 then .crossUp else .crossDown

theorem watchConditionOf_of_meaning {b : Byte} (named : b.toNat < 4) : watchConditionOf b = some (conditionNamed b) := by
  have small : b = 0 ∨ b = 1 ∨ b = 2 ∨ b = 3 := by bv_omega
  rcases small with rfl | rfl | rfl | rfl <;> rfl

theorem watchConditionOf_of_no_meaning {b : Byte} (none_named : ¬ b.toNat < 4) : watchConditionOf b = none := by
  unfold watchConditionOf
  split
  case h_5 => rfl
  all_goals omega

/-- R199, R200: the arguments of SET_WATCH behind its watch have a meaning. -/
def WatchHasMeaning (enable source condition mark cut : Byte) : Prop :=
  enable.toNat < 2 ∧ source.toNat < 2 ∧ condition.toNat < 4 ∧ cut.toNat < 2 ∧
    (enable = 1 → (markOfByte mark).isSome = true)

/-- The record that they write, Off. -/
def watchNamed (source condition : Byte) (value : Position) (mark cut : Byte) : Watch :=
  { source := if source = 1 then .measured else .command, condition := conditionNamed condition, value
    mark := (markOfByte mark).getD none, cutOnHit := decide (cut = 1), state := .off, previous := 0 }

theorem watchOfBytes_of_meaning {enable source condition mark cut : Byte} (value : Position)
    (meant : WatchHasMeaning enable source condition mark cut) : watchOfBytes enable source condition value mark cut =
      some (watchNamed source condition value mark cut, decide (enable = 1)) := by
  obtain ⟨henable, hsource, hcondition, hcut, hmark⟩ := meant
  have named := watchMarkOf_eq (arm := decide (enable = 1)) (b := mark) fun h => hmark (of_decide_eq_true h)
  simp only [watchOfBytes, watchSourceOf, boolOfByte_eq_ite, if_pos henable, if_pos hsource, if_pos hcut,
    watchConditionOf_of_meaning hcondition, named, Option.map_some, Option.bind_eq_bind, Option.bind_some,
    decide_eq_true_eq]
  rfl

theorem watchOfBytes_of_no_meaning {enable source condition mark cut : Byte} (value : Position)
    (meaningless : ¬ WatchHasMeaning enable source condition mark cut) :
    watchOfBytes enable source condition value mark cut = none := by
  by_contra found
  obtain ⟨r, hr⟩ := Option.ne_none_iff_exists'.mp found
  refine meaningless ?_
  simp only [watchOfBytes, watchSourceOf, boolOfByte_eq_ite, Option.bind_eq_bind, Option.bind_eq_some_iff,
    Option.ite_none_right_eq_some, Option.map_eq_some_iff] at hr
  obtain ⟨arm, ⟨henable, harm⟩, m, ⟨_, ⟨hsource, _⟩, _⟩, x, hcondition, k, hmark, c, ⟨hcut, _⟩, _⟩ := hr
  refine ⟨henable, hsource, ?_, hcut, fun armed => ?_⟩
  · by_contra big
    rw [watchConditionOf_of_no_meaning big] at hcondition
    cases hcondition
  · refine watchMarkOf_isSome.mp (Option.isSome_iff_exists.mpr ⟨k, hmark⟩) ?_
    rw [← Option.some.inj harm]
    exact decide_eq_true armed

theorem exec_setWatch_of_no_meaning {watch enable source condition mark cut : Byte} {value : Position} {s : State}
    (awaits : s.awaitsCommand = true)
    (h : ¬ (watch.toNat < 4 ∧ WatchHasMeaning enable source condition mark cut)) :
    exec (.setWatch watch enable source condition value mark cut) s = .next (respond .invalid [] s) := by
  show execSetWatch watch enable source condition value mark cut s = _
  rw [execSetWatch, onPort_of_awaits awaits, toFin?_eq_ite]
  by_cases inside : watch.toNat < 4
  · rw [watchOfBytes_of_no_meaning value fun meant => h ⟨inside, meant⟩]
    simp
  · simp [inside]

theorem exec_setWatch_of_meaning {watch enable source condition mark cut : Byte} {value : Position} {s : State}
    (awaits : s.awaitsCommand = true) (inside : watch.toNat < 4)
    (meant : WatchHasMeaning enable source condition mark cut) :
    exec (.setWatch watch enable source condition value mark cut) s =
      .next (settle (setWatch ⟨watch.toNat, inside⟩ (watchNamed source condition value mark cut)
        (decide (enable = 1)) s)) := by
  show execSetWatch watch enable source condition value mark cut s = _
  rw [execSetWatch, onPort_of_awaits awaits, toFin?, dif_pos inside, watchOfBytes_of_meaning value meant]

/-! ### The record that is written (R74 step 3) -/

/-- The record armed at a present value. -/
def Watch.armedAt (r : Watch) (p : Position) : Watch := { r with state := .armed, previous := p }

/-- The record as a hit leaves it. -/
def Watch.hitAt (r : Watch) (p : Position) : Watch := { r with state := .hit, previous := p }

theorem writeWatch_off (w : Fin 4) (r : Watch) (s : State) :
    writeWatch w r false s = { s with watches := s.watches.set w.val r } := rfl

theorem writeWatch_armed {w : Fin 4} {r : Watch} {s : State}
    (misses : r.condition.hitsAtArming r.value (s.sourceValue r.source) = false) : writeWatch w r true s =
      { s with watches := s.watches.set w.val (r.armedAt (s.sourceValue r.source)) } := by
  unfold writeWatch
  exact if_neg (Bool.eq_false_iff.mp misses)

/-- R73: the hit with its notice. -/
def State.hitting (w : Fin 4) (r : Watch) (s : State) : State :=
  notify (.watchHit w s.headTag) { s with watches := s.watches.set w.val r }

theorem hitEffects_of_unmarked {w : Fin 4} {r : Watch} {s : State} (mark : r.mark = none) : hitEffects w r s =
    if r.cutOnHit then takeCut (s.hitting w { r with state := .hit }) else s.hitting w { r with state := .hit } := by
  unfold hitEffects
  rw [mark]
  rfl

theorem writeWatch_hit {w : Fin 4} {r : Watch} {s : State} {p : Position} (value : s.sourceValue r.source = p)
    (hits : r.condition.hitsAtArming r.value p = true) (mark : r.mark = none) : writeWatch w r true s =
      if r.cutOnHit then takeCut (s.hitting w (r.hitAt p)) else s.hitting w (r.hitAt p) := by
  subst value
  unfold writeWatch
  exact (if_pos hits).trans (hitEffects_of_unmarked (r := r.armedAt (s.sourceValue r.source)) mark)

/-! ### The answer, and the evaluation that a change of state hands on (R74) -/

/-- The answer of SET_WATCH. -/
def State.toldWatch (s : State) (w : Fin 4) (t : State) : State :=
  respond .ok [(s.watch w).state.code, (t.watch w).state.code] t

theorem setWatch_eq {w : Fin 4} {r : Watch} {arm : Bool} {s t : State} (wrote : writeWatch w r arm s = t) :
    setWatch w r arm s = s.toldWatch w t ∨
      setWatch w r arm s = handEvaluate (s.toldWatch w t) ∧ headWaitsOn (fun g => g == .watch w) t = true := by
  have either : (if (s.watch w).state = (t.watch w).state then t else handWatch w t) = t ∨
      (if (s.watch w).state = (t.watch w).state then t else handWatch w t) = handEvaluate t ∧
        headWaitsOn (fun g => g == .watch w) t = true := by
    unfold handWatch handGateChange
    split
    · exact .inl rfl
    · split
      · rename_i waits
        exact .inr ⟨rfl, waits⟩
      · exact .inl rfl
  unfold setWatch
  simp only [wrote]
  rcases either with h | ⟨h, waits⟩ <;> rw [h]
  · exact .inl rfl
  · exact .inr ⟨rfl, waits⟩

/-- A watch that is not Hit: its gate is shut, and the evaluation handed on starts nothing. -/
theorem settle_setWatch_of_shut {w : Fin 4} {r : Watch} {arm : Bool} {s t : State} (wrote : writeWatch w r arm s = t)
    (atRest : AtRest t) (shut : (t.watch w).state ≠ .hit) : settle (setWatch w r arm s) = s.toldWatch w t := by
  have closed : t.gateOpen (.watch w) = false := beq_eq_false_iff_ne.mpr shut
  rcases setWatch_eq wrote with h | ⟨h, waits⟩ <;> rw [h]
  · exact settle_of_atRest atRest
  · exact settle_handEvaluate_of_headStays (s := s.toldWatch w t) atRest (headStays_of_headWaitsOn_shut waits closed)

/-- A written watch behind which the head stays. -/
theorem settle_setWatch_of_headStays {w : Fin 4} {r : Watch} {arm : Bool} {s t : State}
    (wrote : writeWatch w r arm s = t) (only : OnlyEvaluates t) (stays : HeadStays t) :
    settle (setWatch w r arm s) = s.toldWatch w { t with handed := .empty } := by
  rcases setWatch_eq wrote with h | ⟨h, -⟩ <;> rw [h]
  · exact settle_of_onlyEvaluates (s := s.toldWatch w t) only stays
  · exact settle_of_onlyEvaluates (s := handEvaluate (s.toldWatch w t)) only stays

theorem watch_set {w : Fin 4} {r : Watch} {s : State} (fit : s.watches.length = 4) :
    (s.watches.set w.val r).getD w.val .cleared = r :=
  getD_set_same (by rw [fit]; exact w.isLt) _ _

/-! ### A hit that cuts (R39, R40, R73) -/

/-- R73: the hit of a watch, the head at hand. -/
theorem hitting_facts {w : Fin 4} {r : Watch} {s : State} (fit : s.watches.length = 4) :
    Frames { s with watches := s.watches.set w.val r } (s.hitting w r) ∧ ((s.hitting w r).watch w).state = r.state := by
  have frames := frames_notify (.watchHit w s.headTag) { s with watches := s.watches.set w.val r }
  have watches : (s.hitting w r).watches = s.watches.set w.val r := (congrArg State.watches frames.same :)
  refine ⟨frames, ?_⟩
  rw [State.watch, watches, watch_set fit]

theorem notify_moved (n : Notice) (s : State) (q : List Entry) (a : Axis) :
    { notify n s with queue := q, axis := a } = notify n { s with queue := q, axis := a } := by
  by_cases room : s.notices.length < 16
  · rw [notify_of_room room, notify_of_room (s := { s with queue := q, axis := a }) room]
  · have full := Nat.le_of_not_lt room
    rw [notify_of_full full, notify_of_full (s := { s with queue := q, axis := a }) full]

/-- A hit behind which the head stays. -/
theorem settle_setWatch_of_hit {w : Fin 4} {r : Watch} {s t : State} (wrote : writeWatch w r true s = t)
    (atRest : AtRest t) (hit : (t.watch w).state = .hit) (stays : HeadStays t) :
    settle (setWatch w r true s) = respond .ok [(s.watch w).state.code, 2] t := by
  have back : { t with handed := .empty } = t := by rw [← show t.handed = .empty from atRest]
  rw [settle_setWatch_of_headStays wrote (onlyEvaluates_of_atRest atRest) stays, back, State.toldWatch, hit]
  rfl

/-- R24, R73: a hit whose cut ends the only head. -/
theorem settle_setWatch_of_retiring {w : Fin 4} {r : Watch} {n : Notice} {s h : State}
    (wrote : writeWatch w r true s = handEvaluate (notify n h)) (atRest : AtRest h) (empty : h.queue = [])
    (hit : (h.watch w).state = .hit) :
    settle (setWatch w r true s) = respond .ok [(s.watch w).state.code, 2] (notify n h) := by
  obtain ⟨t, told, frames⟩ : ∃ t, notify n h = t ∧ Frames h t := ⟨_, rfl, frames_notify n h⟩
  rw [told] at wrote ⊢
  have rest : t.handed = .empty := frames.atRest atRest
  have watches : t.watches = h.watches := (congrArg State.watches frames.same :)
  have same : (t.watch w).state = .hit := by
    rw [State.watch, watches]
    exact hit
  have back : { handEvaluate t with handed := .empty } = t := by
    rw [← rest]
    rfl
  have only : OnlyEvaluates (handEvaluate t) := onlyEvaluates_of_atRest (s := t) rest
  have stays : HeadStays (handEvaluate t) := headStays_of_nil (frames.marks.queue.trans empty)
  rw [settle_setWatch_of_headStays wrote only stays, back, State.toldWatch, same]
  rfl

theorem hitting_moved (w : Fin 4) (r : Watch) (s : State) (q : List Entry) (a : Axis) :
    { s.hitting w r with queue := q, axis := a } = notify (.watchHit w s.headTag)
      { s with watches := s.watches.set w.val r, queue := q, axis := a } :=
  notify_moved _ _ q a

/-- R40: a running head that the cut lets brake, or that brakes already. -/
theorem takeCut_braking {e : Entry} {s : State} (head : s.runningHead = some e)
    (plain : e.segment.chain = false ∨ e.segment.body.isRun = false ∨ s.axis.committed = true)
    (unfound : s.axis.found = false)
    (way : s.axis.state = .braking ∨ s.config.baseSpeed.toNat * 65536 < s.axis.speed ∧
      (s.axis.state = .rampUp ∨ s.axis.state = .cruise ∨ s.axis.state = .rampDown)) : takeCut s =
    { s with
      queue := if s.axis.state = .braking then s.queue else s.queue.take 1 ++ (s.queue.drop 1).map Entry.uncommit
      axis := if s.axis.state = .braking then s.axis else
        { s.axis with
          state := .braking, braking := .cut, brakeRate := e.decelRate, blend := none, committed := true
          found := false } } := by
  by_cases braking : s.axis.state = .braking
  · rw [if_pos braking, if_pos braking]
    exact takeCut_of_idle (.inr braking)
  · obtain ⟨fast, motion⟩ := way.resolve_left braking
    rw [if_neg braking, if_neg braking, takeCut_of_plain head motion plain unfound]
    exact cutBrake_above fast

/-- R40: an only head that the cut ends at once. -/
theorem takeCut_ending {e : Entry} {s : State} (head : s.runningHead = some e) (only : s.queue = [e])
    (plain : e.segment.chain = false ∨ e.segment.body.isRun = false ∨ s.axis.committed = true)
    (unfound : s.axis.found = false)
    (way : s.axis.state = .dwell ∨ s.axis.speed ≤ s.config.baseSpeed.toNat * 65536 ∧
      (s.axis.state = .rampUp ∨ s.axis.state = .cruise ∨ s.axis.state = .rampDown)) : takeCut s =
    retireHead (if s.axis.state ≠ .dwell ∧ e.segment.body.isRun then .completed else .cut) s := by
  by_cases dwell : s.axis.state = .dwell
  · rw [if_neg fun h => h.1 dwell]
    exact takeCut_of_dwell head dwell
  · obtain ⟨slow, motion⟩ := way.resolve_left dwell
    simp only [takeCut_of_plain head motion plain unfound, cutBrake_below slow only, ne_eq, dwell, not_false_eq_true,
      true_and]

/-- R72: what hits at arming. -/
theorem conditionNamed_hitsAtArming {c : Byte} {v p : Position} (named : c.toNat < 4) :
    (conditionNamed c).hitsAtArming v p = true ↔ c = 0 ∧ v.toInt ≤ p.toInt ∨ c = 1 ∧ p.toInt < v.toInt := by
  have small : c = 0 ∨ c = 1 ∨ c = 2 ∨ c = 3 := by bv_omega
  rcases small with rfl | rfl | rfl | rfl
  · simpa [conditionNamed] using atOrAbove_hitsAtArming_iff v p
  · simpa [conditionNamed] using below_hitsAtArming_iff v p
  · simp [conditionNamed, WatchCondition.hitsAtArming]
  · simp [conditionNamed, WatchCondition.hitsAtArming]

theorem settle_setWatch_off {w : Fin 4} {r : Watch} {s : State} (atRest : AtRest s) (fit : s.watches.length = 4)
    (off : r.state = .off) : settle (setWatch w r false s) =
      respond .ok [(s.watch w).state.code, 0] { s with watches := s.watches.set w.val r } := by
  have written : (({ s with watches := s.watches.set w.val r } : State).watch w) = r := watch_set fit
  have unhit : r.state ≠ .hit := by rw [off]; decide
  rw [settle_setWatch_of_shut (writeWatch_off w r s) atRest (by rw [written]; exact unhit), State.toldWatch, written, off]
  rfl

theorem settle_setWatch_armed {w : Fin 4} {r : Watch} {s : State} {p : Position} (atRest : AtRest s)
    (fit : s.watches.length = 4) (value : s.sourceValue r.source = p)
    (misses : r.condition.hitsAtArming r.value p = false) : settle (setWatch w r true s) =
      respond .ok [(s.watch w).state.code, 1] { s with watches := s.watches.set w.val (r.armedAt p) } := by
  subst value
  have written : (({ s with watches := s.watches.set w.val (r.armedAt (s.sourceValue r.source)) } : State).watch w) =
    r.armedAt (s.sourceValue r.source) := watch_set fit
  rw [settle_setWatch_of_shut (writeWatch_armed misses) atRest (by rw [written]; exact WatchState.noConfusion), State.toldWatch, written]
  rfl

section
variable {w : Fin 4} {r : Watch} {s : State} {p : Position} (atRest : AtRest s) (fit : s.watches.length = 4)
  (value : s.sourceValue r.source = p) (hits : r.condition.hitsAtArming r.value p = true) (mark : r.mark = none)
include atRest fit value hits mark

theorem settle_setWatch_hit (uncut : r.cutOnHit = false)
    (stays : HeadStays { s with watches := s.watches.set w.val (r.hitAt p) }) : settle (setWatch w r true s) =
      respond .ok [(s.watch w).state.code, 2] (s.hitting w (r.hitAt p)) := by
  obtain ⟨frames, hit⟩ := hitting_facts (w := w) (r := r.hitAt p) fit
  have wrote := writeWatch_hit (w := w) value hits mark
  rw [uncut] at wrote
  refine settle_setWatch_of_hit wrote (frames.atRest atRest) hit ?_
  rw [State.hitting, notify_eq]
  exact stays

theorem settle_setWatch_braking {e : Entry} (cuts : r.cutOnHit = true) (head : s.runningHead = some e)
    (plain : e.segment.chain = false ∨ e.segment.body.isRun = false ∨ s.axis.committed = true)
    (unfound : s.axis.found = false)
    (way : s.axis.state = .braking ∨ s.config.baseSpeed.toNat * 65536 < s.axis.speed ∧
      (s.axis.state = .rampUp ∨ s.axis.state = .cruise ∨ s.axis.state = .rampDown)) :
    settle (setWatch w r true s) = respond .ok [(s.watch w).state.code, 2] (notify (.watchHit w (some e.segment.tag))
      { s with
        watches := s.watches.set w.val (r.hitAt p)
        queue := if s.axis.state = .braking then s.queue else s.queue.take 1 ++ (s.queue.drop 1).map Entry.uncommit
        axis := if s.axis.state = .braking then s.axis else
          { s.axis with
            state := .braking, braking := .cut, brakeRate := e.decelRate, blend := none, committed := true
            found := false } }) := by
  obtain ⟨frames, hit⟩ := hitting_facts (w := w) (r := r.hitAt p) fit
  obtain ⟨rest, queue, runs⟩ := runningHead_eq_some.mp head
  have tag : s.headTag = some e.segment.tag := by rw [State.headTag, queue]; rfl
  have wrote := (writeWatch_hit (w := w) value hits mark).trans (if_pos cuts)
  have moved := hitting_moved w (r.hitAt p) s
  obtain ⟨h, hh⟩ : ∃ h, s.hitting w (r.hitAt p) = h := ⟨_, rfl⟩
  rw [hh] at frames hit wrote moved
  have same : h.queue = s.queue := frames.marks.queue
  have axis : h.axis = s.axis := frames.marks.axis
  have config : h.config = s.config := frames.marks.config
  have cut := takeCut_braking (s := h) ((runningHead_of_queue same).trans head) (by rw [axis]; exact plain)
    (by rw [axis]; exact unfound) (by rw [axis, config]; exact way)
  rw [cut, same, axis] at wrote
  rw [settle_setWatch_of_hit wrote (frames.atRest atRest) hit, moved, tag]
  refine headStays_of_running (Option.isSome_iff_exists.mpr ⟨e, runningHead_eq_some.mpr ?_⟩)
  show ∃ rest, (if s.axis.state = .braking then s.queue else s.queue.take 1 ++ (s.queue.drop 1).map Entry.uncommit) = e :: rest ∧ _
  rw [queue]
  split
  · exact ⟨_, rfl, runs⟩
  · exact ⟨_, rfl, runs⟩

theorem settle_setWatch_ending {e : Entry} (cuts : r.cutOnHit = true) (head : s.runningHead = some e)
    (plain : e.segment.chain = false ∨ e.segment.body.isRun = false ∨ s.axis.committed = true)
    (unfound : s.axis.found = false)
    (way : s.axis.state = .dwell ∨ s.axis.speed ≤ s.config.baseSpeed.toNat * 65536 ∧
      (s.axis.state = .rampUp ∨ s.axis.state = .cruise ∨ s.axis.state = .rampDown))
    (only : s.queue = [e]) (last : e.segment.endMark = none) (origin : e.origin = .localPort) :
    settle (setWatch w r true s) = respond .ok [(s.watch w).state.code, 2] (notify (.segmentRetired e.segment.tag .localPort
        (if s.axis.state ≠ .dwell ∧ e.segment.body.isRun then .completed else .cut) s.command)
      (notify (.watchHit w (some e.segment.tag))
        { s with
          watches := s.watches.set w.val (r.hitAt p), queue := [], axis := { s.axis.ended with state := .idle } })) := by
  obtain ⟨frames, hit⟩ := hitting_facts (w := w) (r := r.hitAt p) fit
  have tag : s.headTag = some e.segment.tag := by rw [State.headTag, only]; rfl
  have wrote := (writeWatch_hit (w := w) value hits mark).trans (if_pos cuts)
  have moved := hitting_moved w (r.hitAt p) s [] { s.axis.ended with state := .idle }
  obtain ⟨h, hh⟩ : ∃ h, s.hitting w (r.hitAt p) = h := ⟨_, rfl⟩
  rw [hh] at frames hit wrote moved
  have same : h.queue = s.queue := frames.marks.queue
  have axis : h.axis = s.axis := frames.marks.axis
  have config : h.config = s.config := frames.marks.config
  have command : h.command = s.command := frames.marks.command
  have cut := takeCut_ending (s := h) ((runningHead_of_queue same).trans head) (same.trans only) (by rw [axis]; exact plain)
    (by rw [axis]; exact unfound) (by rw [axis, config]; exact way)
  have retires := retireHead_of_only (s := h) (ite_eq_or_eq (h.axis.state ≠ .dwell ∧ e.segment.body.isRun) Retirement.completed Retirement.cut)
    (same.trans only) origin
  rw [last] at retires
  have ended : h.over = { h with queue := [], axis := { s.axis.ended with state := .idle } } := by rw [← axis]; rfl
  have told := settle_setWatch_of_retiring ((wrote.trans cut).trans retires) (h := h.over) (frames.atRest atRest) rfl hit
  rw [told, command, axis, ended, moved, tag]

end

/-- Settles O22. -/
theorem setWatchWritesAndArms : Obligations.SetWatchWritesAndArms := by
  intro s watch enable source condition value mark cut atRest awaits fit c good before src cond p hits w
  have present : s.sourceValue w.source = p := by
    show s.sourceValue (if source = 1 then .measured else .command) = if source = 1 then s.measured else s.command
    split <;> rfl
  have taken (h : good) : c = .next (settle (setWatch ⟨watch.toNat, h.1⟩ w (decide (enable = 1)) s)) :=
    exec_setWatch_of_meaning awaits h.1 h.2
  have armed (h : good) (on : enable = 1) : c = .next (settle (setWatch ⟨watch.toNat, h.1⟩ w true s)) := by
    rw [taken h, decide_eq_true on]
  have judged (h : good) : w.condition.hitsAtArming w.value p = true ↔ hits := by
    obtain ⟨-, -, -, named, -⟩ := h
    exact conditionNamed_hitsAtArming named
  have named (h : good) : Fin.ofNat 4 watch.toNat = ⟨watch.toNat, h.1⟩ := Fin.ext (Nat.mod_eq_of_lt h.1)
  have unmarked (h : markOfByte mark = some none) : w.mark = none := by
    show (markOfByte mark).getD none = none
    rw [h]
    rfl
  refine ⟨fun bad => exec_setWatch_of_no_meaning awaits bad, fun h off => ?_, fun h on miss => ?_,
    fun h on hit bare uncut stays => ?_,
    fun h on hit bare cuts e head plain unfound => ⟨fun way => ?_, fun way only last origin => ?_⟩⟩
  · rw [taken h, decide_eq_false (show ¬ enable = 1 by rw [off]; decide)]
    exact congrArg _ (settle_setWatch_off (w := ⟨watch.toNat, h.1⟩) atRest fit.2.1 rfl)
  · have misses : w.condition.hitsAtArming w.value p = false :=
      Bool.eq_false_of_not_eq_true fun hit => miss ((judged h).mp hit)
    exact (armed h on).trans
      (congrArg _ (settle_setWatch_armed (w := ⟨watch.toNat, h.1⟩) atRest fit.2.1 present misses))
  · have leaves : w.cutOnHit = false := decide_eq_false (by rw [uncut]; decide)
    rw [named h]
    exact (armed h on).trans (congrArg _ (settle_setWatch_hit (w := ⟨watch.toNat, h.1⟩) atRest fit.2.1 present
      ((judged h).mpr hit) (unmarked bare) leaves stays))
  · rw [named h]
    exact (armed h on).trans (congrArg _ (settle_setWatch_braking (w := ⟨watch.toNat, h.1⟩) atRest fit.2.1 present
      ((judged h).mpr hit) (unmarked bare) (decide_eq_true cuts) head plain unfound way))
  · rw [named h]
    exact (armed h on).trans (congrArg _ (settle_setWatch_ending (w := ⟨watch.toNat, h.1⟩) atRest fit.2.1 present
      ((judged h).mpr hit) (unmarked bare) (decide_eq_true cuts) head plain unfound way only last origin))

end Sys2Proof.Machine

/-! PROOFS. SET_CAPTURE and the triggers (R77, R78), READ_CAPTURE (R79). -/

namespace Sys2Proof.Machine

/-! ### SET_CAPTURE (R77) -/

/-- The capture set-up that a code below 5 names. -/
def setupNamed (b : Byte) : CaptureSetup :=
  if b = 0 then .none else if b = 1 then .in0Rising else if b = 2 then .in0Falling else if b = 3 then .in1Rising
  else .in1Falling

theorem captureSetup_ofCode_of_meaning {b : Byte} (named : b.toNat < 5) :
    CaptureSetup.ofCode b.toNat = some (setupNamed b) := by
  have small : b = 0 ∨ b = 1 ∨ b = 2 ∨ b = 3 ∨ b = 4 := by bv_omega
  rcases small with rfl | rfl | rfl | rfl | rfl <;> rfl

theorem captureSetup_ofCode_of_no_meaning {n : Nat} (none_named : 5 ≤ n) : CaptureSetup.ofCode n = none := by
  unfold CaptureSetup.ofCode
  split
  case h_6 => rfl
  all_goals omega

theorem exec_setCapture_of_no_meaning {slot setup : Byte} {s : State} (awaits : s.awaitsCommand = true)
    (bad : 4 ≤ slot.toNat ∨ 5 ≤ setup.toNat) : exec (.setCapture slot setup) s = .next (respond .invalid [] s) := by
  show execSetCapture slot setup s = _
  unfold execSetCapture
  rw [onPort_of_awaits awaits, toFin?_eq_ite]
  rcases bad with bad | bad
  · rw [if_neg (by omega)]
  · rw [captureSetup_ofCode_of_no_meaning bad]
    split
    · contradiction
    · rfl

theorem exec_setCapture_of_meaning {slot setup : Byte} {s : State} (awaits : s.awaitsCommand = true)
    (inside : slot.toNat < 4) (named : setup.toNat < 5) : exec (.setCapture slot setup) s = .next (respond .ok []
      { s with
        captures := s.captures.set slot.toNat
          { s.captures.getD slot.toNat .cleared with setup := setupNamed setup } }) := by
  show execSetCapture slot setup s = _
  unfold execSetCapture
  rw [onPort_of_awaits awaits, toFin?, dif_pos inside, captureSetup_ofCode_of_meaning named]
  rfl

/-! ### An edge (R77, R82) -/

theorem get_set_input (v : Inputs) (i : Input) (x : Samples) : (v.set i x).get i = x := by
  cases i <;> rfl

theorem level_taken (x : Samples) (high : Bool) : (x.taken high).level = high := by
  cases high <;> simp [Samples.taken, Samples.level]

/-- R82: the inputs with one of them at a new level. -/
def State.flipped (s : State) (i : Input) (high : Bool) : State :=
  { s with inputs := s.inputs.set i ((s.inputs.get i).taken high) }

theorem exec_inputChange_of_flip {i : Input} {high : Bool} {s : State} (flip : (s.inputs.get i).level ≠ high) :
    exec (.inputChange i high) s = .next (settle (inputChanged i (s.flipped i high))) :=
  congrArg (fun v => Host.Outcome.next (settle v)) (if_neg flip)

theorem inputActive_flipped (i : Input) (high : Bool) (s : State) :
    (s.flipped i high).inputActive i = (high == activeLevel s.config i) := by
  rw [State.inputActive, State.flipped, get_set_input, level_taken]

/-- Settles O24. -/
theorem captureSlotsAreSetAndFilled : Obligations.CaptureSlotsAreSetAndFilled := by
  intro s slot setup n x i high c d filled active edge
  refine ⟨exec_setCapture_of_no_meaning, exec_setCapture_of_meaning, trigger_of_empty, trigger_of_valid,
    fun atRest fit empty which flip one => ?_⟩
  have named : edgeOf i ((s.flipped i high).inputActive i) = edge := by
    rw [inputActive_flipped]
    exact edgeOf_capture which active
  have real : edge ≠ .none := by
    rw [← named]
    exact edgeOf_capture_ne_none which _
  have fills : inputChanged i (s.flipped i high) = trigger n (.edge edge) (s.flipped i high).drawn := by
    rw [inputChanged_of_one_edge (n := n) (s := s.flipped i high) atRest empty (stopOnInput_of_capture which _)
      (by rw [named]; exact real) (by rw [named]; exact one), named]
  have rest : AtRest (trigger n (.edge edge) (s.flipped i high).drawn) := (quiet_trigger _ _ _).handed.trans atRest
  refine ⟨_, (exec_inputChange_of_flip flip).trans
    (congrArg _ ((congrArg settle fills).trans (settle_of_atRest rest))), ?_⟩
  have level : ((s.flipped i high).inputs.get i).level = high := by
    rw [State.flipped, get_set_input, level_taken]
  by_cases valid : d.valid = true
  · rw [trigger_of_valid (s := (s.flipped i high).drawn) valid]
    simp only [if_pos valid]
    exact ⟨level, rfl, fun _ => (List.append_nil _).symm, rfl⟩
  · rw [trigger_of_empty (s := (s.flipped i high).drawn) (Bool.eq_false_iff.mpr valid), notify_eq]
    simp only [if_neg valid]
    exact ⟨level, rfl, fun room => notify_notices_of_room room, rfl⟩

/-! ### READ_CAPTURE (R79) -/

theorem exec_readCapture {slot : Byte} {s : State} (awaits : s.awaitsCommand = true) (inside : slot.toNat < 4) :
    exec (.readCapture slot) s = .next (respond .ok (s.captures.getD slot.toNat .cleared).bytes
      { s with
        captures := s.captures.set slot.toNat
          { Capture.cleared with setup := (s.captures.getD slot.toNat .cleared).setup } }) := by
  show execReadCapture slot s = _
  unfold execReadCapture
  rw [onPort_of_awaits awaits, toFin?, dif_pos inside]
  rfl

/-- R78: an empty slot that a trigger reaches holds that trigger. -/
theorem capture_trigger {n : Fin 4} {x : Trigger} {s : State} (fit : s.captures.length = 4)
    (empty : (s.capture n).valid = false) :
    ((trigger n x s).capture n).valid = true ∧ ((trigger n x s).capture n).trigger = x := by
  rw [trigger_of_empty empty, notify_eq]
  have filled (r : Capture) : (s.captures.set n.val r).getD n.val .cleared = r :=
    getD_set_same (by rw [fit]; exact n.isLt) _ _
  exact ⟨congrArg Capture.valid (filled _), congrArg Capture.trigger (filled _)⟩

theorem captureBytes_eq (c : Capture) : c.bytes = [if c.valid then 1 else 0, if c.missed then 1 else 0, c.trigger.code] ++
    (match c.headTag with | none => [0, 0] | some g => [1, g]) ++ bytesOf 4 c.command ++ bytesOf 4 c.measured := by
  unfold Capture.bytes tagBytes
  cases c.headTag <;> rfl

/-- Settles O25. -/
theorem readCaptureEmptiesTheSlot : Obligations.ReadCaptureEmptiesTheSlot := by
  intro s slot x fit awaits c empty told
  have read (inside : slot.toNat < 4) : exec (.readCapture slot) s =
      .next (respond .ok told { s with captures := s.captures.set slot.toNat empty }) := by
    have bytes : c.bytes = told := captureBytes_eq c
    rw [← bytes]
    exact exec_readCapture awaits inside
  refine ⟨fun outside => ?_, read, fun inside same => ?_, fun inside => ?_⟩
  · show execReadCapture slot s = _
    unfold execReadCapture
    rw [onPort_of_awaits awaits, toFin?_eq_ite, if_neg (by omega)]
  · have unchanged : s.captures.set slot.toNat empty = s.captures := by
      rw [← same]
      exact set_getD_self _ _ _
    rw [read inside, unchanged]
  · have number : (Fin.ofNat 4 slot.toNat).val = slot.toNat := Nat.mod_eq_of_lt inside
    refine ⟨_, read inside, capture_trigger (by exact (List.length_set ..).trans fit.2.2) ?_⟩
    show ((s.captures.set slot.toNat empty).getD (Fin.ofNat 4 slot.toNat).val .cleared).valid = false
    rw [number, getD_set_same (by rw [fit.2.2]; exact inside)]

end Sys2Proof.Machine

/-! PROOFS. POST_SEGMENT (R170), READ_STATUS (R186), READ_ROSTER (R167) and READ_HALT_LIST (R98). -/

namespace Sys2Proof.Machine

/-! ### POST_SEGMENT (R170) -/

theorem exec_postSegment_of_inside {destination : Byte} {s : State} (awaits : s.awaitsCommand = true)
    (inside : destination.toNat < 32) (bytes : List Byte) :
    exec (.postSegment destination bytes) s = .next (postTo (Fin.ofNat 32 destination.toNat) bytes s) := by
  show execPostSegment destination bytes s = _
  unfold execPostSegment
  rw [onPort_of_awaits awaits, toFin?_eq_ite, if_pos inside]

/-- R170: check 1 as it finds the queue, where the queue has not closed in this period. -/
theorem postTo_of_settled {s : State} (settled : s.canSend = true ∨ s.closing = false) (n : Station) (bytes : List Byte) :
    postTo n bytes s = postChecked s.canSend n bytes s := by
  refine if_neg ?_
  rcases settled with h | h <;> simp [h]

theorem postChecked_of_absent {n : Station} {s : State} (absent : (s.peer n).state ≠ .present) (bytes : List Byte) :
    postChecked true n bytes s = respond .absent [] s := by
  unfold postChecked
  rw [if_neg (by decide), if_pos absent]

theorem postChecked_of_full {n : Station} {s : State} (present : (s.peer n).state = .present)
    (full : 4 ≤ s.posts.length) (bytes : List Byte) : postChecked true n bytes s = respond .full [] s := by
  unfold postChecked
  rw [if_neg (by decide), if_neg (not_not_intro present), if_pos full]

theorem postChecked_of_invalid {n : Station} {bytes : List Byte} {s : State} (present : (s.peer n).state = .present)
    (room : s.posts.length < 4) (invalid : segmentOfBytes bytes = none) :
    postChecked true n bytes s = respond .invalid [] s := by
  unfold postChecked
  rw [if_neg (by decide), if_neg (not_not_intro present), if_neg (Nat.not_le_of_lt room), invalid]
  rfl

/-- R170: where checks 1 to 4 pass, the admission of the POST answers. -/
theorem postChecked_of_valid {n : Station} {bytes : List Byte} {s : State} (present : (s.peer n).state = .present)
    (room : s.posts.length < 4) (valid : segmentOfBytes bytes ≠ none) : (admitPost n bytes s = none →
      postChecked true n bytes s = respond .full [] s) ∧
    ∀ t, admitPost n bytes s = some t →
      postChecked true n bytes s = respond .ok [byteOfNat s.lif.sequence.val] t := by
  have named : ¬ (segmentOfBytes bytes).isNone = true := fun h => valid (Option.isNone_iff_eq_none.mp h)
  unfold postChecked
  rw [if_neg (by decide), if_neg (not_not_intro present), if_neg (Nat.not_le_of_lt room), if_neg named]
  exact ⟨fun h => by rw [h], fun t h => by rw [h]⟩

/-- R170 check 5: whether an entry to the destination holds the sequence the POST would take. -/
theorem posts_any_iff (n : Station) (s : State) : (s.posts.any fun e => e.isFor n s.lif.sequence) = true ↔
    ∃ e ∈ s.posts, e.dest = n ∧ e.sequence = s.lif.sequence := by
  simp [PostEntry.isFor]

theorem admission_of_crowded {d : Dest} {p : Payload} {s : State} (shut : s.canSend = false ∨ 10 ≤ s.outbound.length)
    (second : p.kind.cls ≠ 0) : admission d p s = none := by
  refine if_neg ?_
  rcases shut with shut | full
  · rw [shut, Bool.false_and]
    exact Bool.false_ne_true
  · rw [State.hasRoom, if_neg second]
    simp only [Bool.and_eq_true, decide_eq_true_eq]
    omega

theorem admitPost_eq_none {n : Station} {bytes : List Byte} {s : State} (refused : (s.canSend = false ∨
    10 ≤ s.outbound.length) ∨ ∃ e ∈ s.posts, e.dest = n ∧ e.sequence = s.lif.sequence) : admitPost n bytes s = none := by
  unfold admitPost
  split
  · rfl
  · rename_i free
    have shut := refused.resolve_right fun held => free ((posts_any_iff n s).mpr held)
    rw [admission_of_crowded shut (show (Payload.post bytes).kind.cls ≠ 0 by exact Nat.succ_ne_zero _)]
    rfl

/-- R118, R170: the POST is admitted, and the Post Table makes its entry. -/
theorem admitPost_admitted {n : Station} {bytes : List Byte} {s : State} (sends : s.canSend = true)
    (room : s.outbound.length < 10) (free : ¬ ∃ e ∈ s.posts, e.dest = n ∧ e.sequence = s.lif.sequence) :
    ∃ l, admitPost n bytes s = some { s with
      outbound := s.outbound ++ [s.newFrame (.station n) (.post bytes)]
      posts := s.posts ++ [newPost n (byteAt bytes 1) s]
      lif := l, nextFrame := s.nextFrame + 1 } ∧ l.sequence = s.lif.sequence + 1 := by
  obtain ⟨l, picks, sequence⟩ := pickIfSilent_eq
    { s with
      outbound := s.outbound ++ [s.newFrame (.station n) (.post bytes)]
      nextFrame := s.nextFrame + 1
      lif := { s.lif with sequence := s.lif.sequence + 1 } }
  refine ⟨l, ?_, sequence⟩
  rw [admitPost, if_neg fun held => free ((posts_any_iff n s).mp held), admission_of_open sends room, picks]
  rfl

/-- Settles O26, by the checks in their order. -/
theorem postSegmentChecksInOrder : Obligations.PostSegmentChecksInOrder := by
  intro s destination bytes awaits c n taken
  refine ⟨fun outside => ?_, fun inside => ?_⟩
  · show execPostSegment destination bytes s = _
    unfold execPostSegment
    rw [onPort_of_awaits awaits, toFin?_eq_ite, if_neg (by omega)]
  have posts : c = .next (postTo n bytes s) := exec_postSegment_of_inside awaits inside bytes
  have checked (sends : s.canSend = true) : c = .next (postChecked true n bytes s) := by
    rw [posts, postTo_of_settled (.inl sends), sends]
  refine ⟨fun shut lasting => ?_, fun shut closing present room valid => ?_, fun sends absent => ?_,
    fun sends present full => ?_, fun sends present room invalid => ?_, fun sends present room valid refused => ?_,
    fun sends present room valid fits free => ?_⟩
  · rw [posts, postTo_of_settled (.inr lasting), shut]
    rfl
  · have judged : postTo n bytes s = postChecked (Config.checkedBeforeClosing s.free) n bytes { s with free := s.free + 1 } :=
      if_pos (by rw [closing, shut]; rfl)
    have full : postChecked true n bytes { s with free := s.free + 1 } = respond .full [] { s with free := s.free + 1 } :=
      (postChecked_of_valid (s := { s with free := s.free + 1 }) present room valid).1 (admitPost_eq_none (.inl (.inl shut)))
    rw [posts, judged]
    cases Config.checkedBeforeClosing s.free
    · exact ⟨_, rfl, .inl rfl, rfl⟩
    · exact ⟨_, congrArg _ full, .inr rfl, rfl⟩
  · rw [checked sends, postChecked_of_absent absent]
  · rw [checked sends, postChecked_of_full present full]
  · rw [checked sends, postChecked_of_invalid present room invalid]
  · rw [checked sends, (postChecked_of_valid present room valid).1 (admitPost_eq_none (refused.imp_left .inr))]
  · obtain ⟨l, admitted, sequence⟩ := admitPost_admitted (bytes := bytes) sends fits free
    exact ⟨_, (checked sends).trans (congrArg _ ((postChecked_of_valid present room valid).2 _ admitted)), rfl, rfl, sequence,
      rfl, rfl⟩

/-! ### READ_STATUS (R186) -/

theorem stopKind_code (k : StopKind) : k.code = if k = .immediate then 1 else 0 := by
  cases k <;> rfl

theorem dir_code (d : Dir) : d.code = if d = .plus then 0 else 1 := by
  cases d <;> rfl

theorem exec_readStatus {s : State} (awaits : s.awaitsCommand = true) :
    exec .readStatus s = .next (respond .ok s.statusBytes s) := by
  show execReadStatus s = _
  unfold execReadStatus
  rw [onPort_of_awaits awaits]

/-- Settles O27. -/
theorem readStatusReturnsTheSnapshot : Obligations.ReadStatusReturnsTheSnapshot := by
  intro s
  refine ⟨fun awaits => ⟨_, exec_readStatus awaits, ?_, rfl⟩, fun order running => ?_⟩
  · show ResultCode.ok.byte :: s.statusBytes = _
    rw [State.statusBytes, State.headTag, stopKind_code, dir_code]
    cases s.queue <;> rfl
  · obtain ⟨e, head⟩ := Option.isSome_iff_exists.mp running
    obtain ⟨rest, queue, runs⟩ := runningHead_eq_some.mp head
    exact (order.2.2 e (by rw [queue]; exact Option.mem_some_self e)).2 runs

/-! ### READ_ROSTER and READ_HALT_LIST (R98, R167) -/

theorem exec_readRoster {station : Byte} {s : State} (awaits : s.awaitsCommand = true) (inside : station.toNat < 32) :
    exec (.readRoster station) s = .next (readRoster (Fin.ofNat 32 station.toNat) s) := by
  show execReadRoster station s = _
  unfold execReadRoster
  rw [onPort_of_awaits awaits, toFin?_eq_ite, if_pos inside]

theorem learned_code (l : Learned) : l.code = if l = .presence then 1 else 0 := by
  cases l <;> rfl

/-- Settles O28. -/
theorem readingCommandsChangeNothing : Obligations.ReadingCommandsChangeNothing := by
  intro s station code awaits n e summary
  have summaries (x : Option Presence) : summaryBytes x = summary x := by cases x <;> rfl
  refine ⟨fun outside => ?_, fun inside other => ?_, fun inside own standing => ?_, fun inside own withdrawn => ?_, ?_, ?_⟩
  · show execReadRoster station s = _
    unfold execReadRoster
    rw [onPort_of_awaits awaits, toFin?_eq_ite, if_neg (by omega)]
  · have read : readRoster n s = respond .ok e.bytes s := if_neg other
    rw [exec_readRoster awaits inside]
    refine congrArg Host.Outcome.next (read.trans (congrArg (fun l => respond .ok l s) ?_))
    rw [RosterEntry.bytes, lapseBytes, summaries]
    cases e.lastSequence <;> rfl
  · have read : readRoster n s = respond .ok s.selfBytes (if s.standing = .withdrawn then _ else s) := if_pos own
    rw [exec_readRoster awaits inside]
    exact congrArg Host.Outcome.next (read.trans (by rw [if_neg standing]; rfl))
  · have read : readRoster n s = respond .ok s.selfBytes (if s.standing = .withdrawn then _ else s) := if_pos own
    rw [if_pos withdrawn] at read
    exact ⟨_, (exec_readRoster awaits inside).trans (congrArg _ read), rfl, rfl⟩
  · have entries (k : Station) : haltBytes s k = match s.haltOf k with
        | none => []
        | some h => [BitVec.ofNat 8 k.val, h.reason, (if h.kind = .immediate then 1 else 0),
                     (if h.learned = .presence then 1 else 0)] := by
      unfold haltBytes
      cases s.haltOf k with
      | none => rfl
      | some h => simp only [stopKind_code, learned_code]; rfl
    show execReadHaltList s = _
    unfold execReadHaltList
    rw [onPort_of_awaits awaits, funext entries]
    rfl
  · show execUnknown code s = _
    unfold execUnknown
    rw [onPort_of_awaits awaits]

end Sys2Proof.Machine

/-! PROOFS. The transaction (R182 to R185): what the commands of the Local Port make of it, and what its own events do. -/

namespace Sys2Proof.Machine

/-! ### Operations that leave the transaction as it is -/

/-- The transaction stays as it is. -/
def SamePort (s t : State) : Prop := t.port = s.port

theorem SamePort.refl (s : State) : SamePort s s := rfl

theorem SamePort.trans {s t u : State} (h : SamePort s t) (k : SamePort t u) : SamePort s u := Eq.trans k h

theorem SamePort.ite {s t u : State} {c : Prop} [Decidable c] (h : SamePort s t) (k : SamePort s u) :
    SamePort s (if c then t else u) := by split <;> assumption

theorem SamePort.foldl {α : Type} (f : State → α → State) (h : ∀ s a, SamePort s (f s a)) (l : List α) (s : State) :
    SamePort s (l.foldl f s) := by
  induction l generalizing s with
  | nil => exact .refl s
  | cons a l ih => exact (h s a).trans (ih _)

theorem Tame.samePort {s t : State} (h : Tame s t) : SamePort s t := congrArg Kept.port h.kept

theorem samePort_notify (n : Notice) (s : State) : SamePort s (notify n s) := (tame_notify n s).samePort

theorem samePort_losePosts (p : PostEntry → Bool) (r : LostReason) (s : State) : SamePort s (losePosts p r s) := by
  rw [losePosts_eq, notifyAll_eq]
  rfl

theorem samePort_dropFrame (why : Emptying) (s : State) (f : OutFrame) : SamePort s (dropFrame why s f) := by
  unfold dropFrame
  split
  · exact (tame_dropEmission _ _).samePort
  · cases why
    · exact samePort_losePosts _ _ _
    · rfl
  · split
    · exact samePort_notify _ _
    · rfl
  · rfl
  · rfl
  · rfl

theorem samePort_emptyWithin (why : Emptying) (n : Nat) (s : State) : SamePort s (emptyWithin why n s) := by
  induction n generalizing s with
  | zero => exact .refl s
  | succ n ih =>
    unfold emptyWithin
    split
    · exact (samePort_dropFrame why s _).trans (ih _)
    · exact .refl s

theorem samePort_enqueue (g : Segment) (o : Origin) (s : State) : SamePort s (enqueue g o s) := .ite rfl rfl

theorem samePort_answerPeer (n : Station) (q : Seq) (k : AnswerKind) (tag : Byte) (s : State) :
    SamePort s (answerPeer n q k tag s) := (tame_answerPeer n q k tag s).samePort

theorem samePort_takePost (n : Station) (q : Seq) (bytes : List Byte) (s : State) :
    SamePort s (takePost n q bytes s) := by
  have refuse (r : RefusalReason) : SamePort s (answerPeer n q (.refused r) (byteAt bytes 1) s) := samePort_answerPeer ..
  unfold takePost
  refine .ite (refuse _) (.ite (refuse _) (.ite (refuse _) (.ite (refuse _) ?_)))
  split
  · exact (samePort_enqueue _ _ s).trans (samePort_answerPeer ..)
  · exact refuse _

theorem samePort_takePosted (s : State) : SamePort s (takePosted s) :=
  SamePort.trans (t := { s with posted := [] }) rfl (.foldl _ (fun _ _ => samePort_takePost ..) _ _)

theorem samePort_setStanding (st : Standing) (c : StandingCause) (s : State) : SamePort s (setStanding st c s) :=
  .ite (.refl s) (samePort_notify _ { s with standing := st })

theorem samePort_returnEngaged (c : StandingCause) (s : State) : SamePort s (returnEngaged c s) :=
  SamePort.trans (t := { s with score := 0, recovery := 0 }) rfl ((samePort_setStanding _ _ _).trans
    (.ite (tame_openLine _).samePort (.refl _)))

theorem samePort_leave (s : State) : SamePort s (leave s) := by
  have stopped : SamePort s (leaveLine s) :=
    ((tame_orderStop .immediate s.offLine).trans (tame_settle _)).samePort
  obtain ⟨u, hu, emptied⟩ : ∃ u, u = losePosts (fun _ => true) .left (emptyOutbound .left (leaveLine s)) ∧ SamePort s u :=
    ⟨_, rfl, (stopped.trans (samePort_emptyWithin .left _ _)).trans (samePort_losePosts (fun _ => true) .left _)⟩
  have left : leave s = takePosted (clearStanding (clearRoster (clearHaltTable (zeroTallies u)))) := by rw [hu]; rfl
  have cleared : SamePort u (clearStanding (clearRoster (clearHaltTable (zeroTallies u)))) := samePort_setStanding ..
  rw [left]
  exact (emptied.trans cleared).trans (samePort_takePosted _)

theorem samePort_join (s : State) : SamePort s (join s) :=
  .ite rfl (tame_pick _).samePort

theorem samePort_restart (straps : Straps) (s : State) : SamePort s (restart straps s) :=
  SamePort.trans (t := restartCleared straps s) rfl
    (SamePort.trans (.ite (tame_raiseCause _ _).samePort (.refl _)) (.ite (tame_raiseCause _ _).samePort (.refl _)))

theorem samePort_flushWaiting (s : State) : SamePort s (flushWaiting s) :=
  SamePort.trans (t := s.unflushed) rfl (tame_flushEntries _ _).samePort

theorem samePort_replaceConfig (c : ConfigBlock) (s : State) : SamePort s (replaceConfig c s) :=
  congrArg Kept.port (replaceConfig_kept c s)

theorem samePort_removeCauses (s : State) : SamePort s (removeCauses s) :=
  .ite (tame_checkGap s.acknowledged).samePort rfl

theorem samePort_liftOwnHalt (s : State) : SamePort s (liftOwnHalt s) := by
  have announced : SamePort s s.lifted := (tame_announceHalt { s with ownHalt := .clear }).samePort
  exact .ite announced announced

theorem samePort_dismiss (s : State) : SamePort s (dismiss s) := by
  have removed : SamePort s (removeHalts s.toDismiss s) :=
    (congrArg State.port (removeHalts_eq s.toDismiss s) :)
  refine .ite removed (removed.trans ?_)
  exact .ite (.refl _) rfl

theorem samePort_writeWatch (w : Fin 4) (r : Watch) (arm : Bool) (s : State) : SamePort s (writeWatch w r arm s) :=
  .ite (.ite (tame_hitEffects w _ s).samePort rfl) rfl

theorem samePort_admitPost {n : Station} {bytes : List Byte} {s t : State} (h : admitPost n bytes s = some t) :
    SamePort s t := by
  unfold admitPost at h
  split at h
  · cases h
  · obtain ⟨u, admitted, rfl⟩ := Option.map_eq_some_iff.mp h
    exact (tame_admit admitted).samePort

/-! ### The commands of the Local Port (R182, R185) -/

/-- A command has taken effect in the transaction. -/
def Told (s t : State) : Prop := t.port.selected = s.port.selected ∧ t.port.taken = true

theorem SamePort.told {s t : State} (h : SamePort s t) (code : ResultCode) (data : List Byte) :
    Told s (respond code data t) := ⟨(congrArg Port.selected h :), rfl⟩

theorem Told.tame {s t u : State} (h : Told s t) (k : Tame t u) : Told s u :=
  ⟨(congrArg Port.selected k.samePort :).trans h.1, (congrArg Port.taken k.samePort :).trans h.2⟩

theorem Told.settled {s t : State} (h : Told s t) : Told s (settle t) := h.tame (tame_settle t)

theorem Told.ite {s t u : State} {c : Prop} [Decidable c] (h : Told s t) (k : Told s u) :
    Told s (if c then t else u) := by split <;> assumption

theorem told_postChecked (may : Bool) (n : Station) (bytes : List Byte) (s : State) :
    Told s (postChecked may n bytes s) := by
  have same (code : ResultCode) : Told s (respond code [] s) := (SamePort.refl s).told code []
  unfold postChecked
  refine .ite (same _) (.ite (same _) (.ite (same _) (.ite (same _) ?_)))
  split
  · rename_i t admitted
    exact (samePort_admitPost admitted).told _ _
  · exact same _

/-- R182: a command of the Local Port does nothing outside a transaction that waits for it, and in one it takes effect. -/
theorem exec_portCommand {c : Instr} (hc : portCommand c = true) : ∃ f, (∀ s, exec c s = onPort f s) ∧
    ∀ s, Answers (Told s) (f s) := by
  have same (code : ResultCode) (data : List Byte) (s : State) : Answers (Told s) (.next (respond code data s)) :=
    .next ((SamePort.refl s).told code data)
  cases c with
  | hardReset | transactionBegin | malformedTransaction | transactionEnd | inputChange | encoderEdge | stepPulse
  | dwellExpiry | frameStartRecognised | lineActivity | quietPeriod | idleRound | deferralGapReached | echoFault
  | attemptEnd | receivedFrameEnd | frameTruncated | frameTaken | listeningTimerExpiry | presenceTimerExpiry
  | lapseTimerExpiry | answerTimerExpiry => cases hc
  | writeConfig block =>
    refine ⟨_, fun _ => rfl, fun s => .next (Told.settled ?_)⟩
    unfold writeConfig
    split
    · split
      · exact (samePort_replaceConfig _ s).told _ _
      · exact (SamePort.refl s).told _ _
    · exact (SamePort.refl s).told _ _
  | join => exact ⟨_, fun _ => rfl, fun s => .ite (.next ((samePort_join s).told _ _)) (same _ _ s)⟩
  | leave => exact ⟨_, fun _ => rfl, fun s => .ite (.next (.settled ((samePort_leave s).told _ _))) (same _ _ s)⟩
  | rejoin => exact ⟨_, fun _ => rfl, fun s => .ite (.next ((samePort_returnEngaged _ s).told _ _)) (same _ _ s)⟩
  | restart straps =>
    refine ⟨_, fun _ => rfl, fun s => .next (Told.settled ?_)⟩
    have kept := samePort_restart straps (respond .ok [] s)
    exact ⟨(congrArg Port.selected kept :), (congrArg Port.taken kept :)⟩
  | appendSegment bytes =>
    refine ⟨_, fun _ => rfl, fun s => .next (Told.settled ?_)⟩
    unfold appendLocal
    have refused (code : ResultCode) : Told s (respond code [] s) := (SamePort.refl s).told code []
    refine .ite (refused _) (.ite (refused _) (.ite (refused _) ?_))
    split
    · exact (samePort_enqueue _ _ s).told _ _
    · exact refused _
  | flush => exact ⟨_, fun _ => rfl, fun s => .next (.settled ((samePort_flushWaiting s).told _ _))⟩
  | stop => exact ⟨_, fun _ => rfl, fun s => .next (.settled ((tame_orderStop _ s).samePort.told _ _))⟩
  | abort => exact ⟨_, fun _ => rfl, fun s => .next (.settled ((tame_orderStop _ s).samePort.told _ _))⟩
  | acknowledge =>
    refine ⟨_, fun _ => rfl, fun s => .next (.settled (.ite ?_ ((SamePort.refl s).told _ _)))⟩
    have lifted (t : State) : SamePort t (liftByAcknowledge t) := .ite (samePort_liftOwnHalt t) (.refl t)
    have handed (t : State) : SamePort t (faultsChanged t) := .ite (.refl t) rfl
    exact (((samePort_removeCauses s).trans (lifted _)).trans (handed _)).told _ _
  | raiseHalt reason kind =>
    refine ⟨_, fun _ => rfl, fun s => ?_⟩
    split
    · rename_i k _
      have stopped := (tame_orderStop k (s.raisedByCommand reason k)).trans (tame_announceHalt _)
      exact .next (.settled (SamePort.told (s := s) stopped.samePort _ _))
    · exact same _ _ s
  | liftHalt =>
    refine ⟨_, fun _ => rfl, fun s => .ite (.next (.settled ?_)) (same _ _ s)⟩
    unfold liftByCommand
    split
    · refine SamePort.told ?_ _ _
      exact (tame_announceHalt _).samePort
    · exact (samePort_liftOwnHalt s).told _ _
  | dismiss => exact ⟨_, fun _ => rfl, fun s => .next (.settled ((samePort_dismiss s).told _ _))⟩
  | emitMark mark choice value =>
    refine ⟨_, fun _ => rfl, fun s => ?_⟩
    split
    · exact .next (.settled ((tame_requestMark _ _ _ _ s).samePort.told _ _))
    · exact same _ _ s
  | setReaction index source mark action parameter mode =>
    refine ⟨_, fun _ => rfl, fun s => ?_⟩
    split
    · exact .next (.settled (((SamePort.refl s).trans (tame_handTally _ (setReactionAt _ _ s)).samePort).told _ _))
    · exact same _ _ s
  | clearReaction index =>
    refine ⟨_, fun _ => rfl, fun s => ?_⟩
    split
    · exact .next (.settled (((SamePort.refl s).trans (tame_handTally _ (setReactionAt _ _ s)).samePort).told _ _))
    · exact same _ _ s
  | rearm index =>
    refine ⟨_, fun _ => rfl, fun s => ?_⟩
    split
    · exact .ite (.next (SamePort.told (t := setReactionAt _ _ s) rfl _ _)) (same _ _ s)
    · exact same _ _ s
  | setWatch watch enable source condition value mark cut =>
    refine ⟨_, fun _ => rfl, fun s => ?_⟩
    split
    · rename_i w r arm _ _
      have wrote := samePort_writeWatch w r arm s
      exact .next (.settled (SamePort.told (.ite wrote (wrote.trans (tame_handWatch w _).samePort)) _ _))
    · exact same _ _ s
  | setCapture slot setup =>
    refine ⟨_, fun _ => rfl, fun s => ?_⟩
    split
    · exact .next (SamePort.told (s := s) rfl _ _)
    · exact same _ _ s
  | readCapture slot =>
    refine ⟨_, fun _ => rfl, fun s => ?_⟩
    split
    · exact .next (SamePort.told (s := s) rfl _ _)
    · exact same _ _ s
  | postSegment destination bytes =>
    refine ⟨_, fun _ => rfl, fun s => ?_⟩
    split
    · exact .next (.ite (told_postChecked _ _ bytes { s with free := s.free + 1 }) (told_postChecked _ _ bytes s))
    · exact same _ _ s
  | readStatus => exact ⟨_, fun _ => rfl, fun s => same _ _ s⟩
  | readRoster station =>
    refine ⟨_, fun _ => rfl, fun s => ?_⟩
    split
    · refine .next (.ite (SamePort.told ?_ _ _) ((SamePort.refl s).told _ _))
      exact .ite rfl (.refl s)
    · exact same _ _ s
  | readHaltList => exact ⟨_, fun _ => rfl, fun s => same _ _ s⟩
  | readNotice => exact ⟨_, fun _ => rfl, fun s => .next (SamePort.told (s := s) rfl _ _)⟩
  | unknown code => exact ⟨_, fun _ => rfl, fun s => same _ _ s⟩

/-! ### SDO (R182) -/

theorem sdo_of_selected {s : State} (selected : s.port.selected = true) (n k : Nat) :
    s.sdo n k = some (byteAt (s.port.status :: (List.replicate n 0 ++ s.port.result)) k) :=
  if_pos selected

theorem sdo_of_released {s : State} (released : s.port.selected = false) (n k : Nat) : s.sdo n k = none :=
  if_neg (by rw [released]; decide)

/-- R182: behind the status byte come the zeros of the argument bytes and then the result. -/
theorem sdo_respond {s : State} (selected : s.port.selected = true) (r : ResultCode) (data : List Byte) (n k : Nat) :
    (respond r data s).sdo n 0 = some s.port.status ∧ (k < n → (respond r data s).sdo n (k + 1) = some 0) ∧
      (respond r data s).sdo n (n + 1) = some r.byte ∧ (respond r data s).sdo n (n + 2 + k) = some (data.getD k 0) := by
  have all (k : Nat) := sdo_of_selected (s := respond r data s) selected n k
  have length : (List.replicate n (0 : Byte)).length = n := List.length_replicate
  refine ⟨all 0, fun argument => (all (k + 1)).trans (congrArg some ?_), (all (n + 1)).trans (congrArg some ?_),
    (all (n + 2 + k)).trans (congrArg some ?_)⟩
  · show (List.replicate n (0 : Byte) ++ _).getD k 0 = 0
    rw [List.getD_append _ _ _ _ (by rw [length]; exact argument), List.getD_eq_getElem?_getD, List.getElem?_replicate,
      if_pos argument]
    rfl
  · show (List.replicate n (0 : Byte) ++ _).getD n 0 = _
    rw [List.getD_append_right _ _ _ _ (by rw [length]), length, Nat.sub_self]
    rfl
  · rw [show n + 2 + k = n + (k + 1) + 1 by omega]
    show (List.replicate n (0 : Byte) ++ _).getD (n + (k + 1)) 0 = _
    rw [List.getD_append_right _ _ _ _ (by rw [length]; exact Nat.le_add_right _ _), length, Nat.add_sub_cancel_left]
    rfl

/-! ### The status byte (R183, R199) -/

/-- The bits of the status byte above the line state. -/
theorem statusByte_getLsbD_flags (s : State) : s.statusByte.getLsbD 4 = (!s.notices.isEmpty) ∧
    s.statusByte.getLsbD 5 = s.faults.nonempty ∧ s.statusByte.getLsbD 6 = s.anyHalt ∧
    s.statusByte.getLsbD 7 = s.port.malformed := by
  have line (i : Nat) (h : i = 4 ∨ i = 5 ∨ i = 6 ∨ i = 7) : (lineStateCode s.lifecycle s.standing).getLsbD i = false := by
    rcases h with rfl | rfl | rfl | rfl <;> cases s.lifecycle <;> cases s.standing <;> rfl
  simp only [State.statusByte, BitVec.getLsbD_or, bitByte_getLsbD]
  refine ⟨?_, ?_, ?_, ?_⟩
  · rw [line 4 (by simp)]; simp [State.irq]
  · rw [line 5 (by simp)]; simp
  · rw [line 6 (by simp)]; simp
  · rw [line 7 (by simp)]; simp

/-- The line state stands in the low four bits. -/
theorem statusByte_mod (s : State) : s.statusByte.toNat % 16 = (lineStateCode s.lifecycle s.standing).toNat % 16 := by
  have flag (b : Bool) (k : Nat) (h : k = 4 ∨ k = 5 ∨ k = 6 ∨ k = 7) : (bitByte b k).toNat % 2 ^ 4 = 0 := by
    rcases h with rfl | rfl | rfl | rfl <;> cases b <;> rfl
  rw [State.statusByte, show 16 = 2 ^ 4 from rfl]
  simp only [BitVec.toNat_or, Nat.or_mod_two_pow]
  rw [flag _ 4 (by simp), flag _ 5 (by simp), flag _ 6 (by simp), flag _ 7 (by simp)]
  simp

/-! ### The transaction's own events (R182 to R184) -/

theorem exec_malformed_of_released {s : State} (released : s.port.selected = false) :
    exec .malformedTransaction s = .next s := if_pos (by rw [released]; rfl)

theorem exec_malformed_of_taken {s : State} (selected : s.port.selected = true) (taken : s.port.taken = true) :
    exec .malformedTransaction s = .next (deselect s) := by
  show execMalformedTransaction s = _
  rw [execMalformedTransaction, selected, taken]
  rfl

/-- The malformed flag is set. -/
def State.malformed (s : State) : State := { s with port := { s.port with malformed := true } }

theorem exec_malformed_of_awaits {s : State} (awaits : s.awaitsCommand = true) :
    exec .malformedTransaction s = .next (deselect s.malformed) := by
  obtain ⟨selected, waiting⟩ : s.port.selected = true ∧ s.port.taken = false := by
    simpa [State.awaitsCommand] using awaits
  show execMalformedTransaction s = _
  rw [execMalformedTransaction, selected, waiting]
  rfl

theorem exec_transactionEnd_of_released {s : State} (released : s.port.selected = false) :
    exec .transactionEnd s = .next s := if_pos (by rw [released]; rfl)

theorem exec_transactionEnd_of_taken {s : State} (selected : s.port.selected = true) (taken : s.port.taken = true) :
    exec .transactionEnd s = .next (deselect s) := by
  show execTransactionEnd s = _
  rw [execTransactionEnd, selected, taken]
  rfl

/-- The transaction as it begins. -/
def State.begun (s : State) : State :=
  { s with
    closing := false
    port := { selected := true, taken := false, status := s.statusByte, result := [], malformed := false } }

theorem exec_transactionEnd_of_begun (s : State) : exec .transactionEnd s.begun =
    .next (deselect { s.begun with port := { s.begun.port with malformed := bit s.statusByte 7 } }) := rfl

theorem bit_eq_getLsbD (b : Byte) (k : Nat) : bit b k = b.getLsbD k := rfl

/-- Settles O31. -/
theorem transactionsReportTheStatusByte : Obligations.TransactionsReportTheStatusByte := by
  intro s code c straps n k r data
  obtain ⟨notices, faults, halts, malformed⟩ := statusByte_getLsbD_flags s
  have taken_of {t : State} (h : s.awaitsCommand = true) (told : Told s t) :
      t.port.selected = true ∧ t.port.taken = true := by
    obtain ⟨selected, -⟩ : s.port.selected = true ∧ s.port.taken = false := by simpa [State.awaitsCommand] using h
    exact ⟨told.1.trans selected, told.2⟩
  refine ⟨fun awaits => ?_, fun selected taken => ⟨_, exec_malformed_of_taken selected taken, rfl, rfl⟩, fun awaits => ?_,
    fun released => ⟨exec_malformed_of_released released, exec_transactionEnd_of_released released, sdo_of_released released n k⟩,
    fun hc idle => ?_, fun hc => ?_, fun hc awaits t ends => ?_,
    ⟨s.begun, rfl, malformed, rfl, _, exec_transactionEnd_of_begun s, malformed, rfl⟩,
    fun selected taken => ⟨_, exec_transactionEnd_of_taken selected taken, rfl, rfl, sdo_of_released rfl n k, rfl⟩,
    ⟨s.begun, rfl, rfl, rfl, rfl, ?_, rfl, rfl⟩, fun selected => sdo_respond selected r data n k, notices, faults, halts,
    malformed, ?_⟩
  · exact ⟨_, exec_malformed_of_awaits awaits, rfl, rfl, rfl, _, rfl, rfl, _, exec_malformed_of_awaits rfl, rfl⟩
  · have answered : exec (.unknown code) s = .next (respond .unknown [] s) := onPort_of_awaits (f := fun s => .next (respond .unknown [] s)) awaits
    obtain ⟨selected, taken⟩ := taken_of awaits ((SamePort.refl s).told .unknown [])
    exact ⟨_, answered, _, exec_malformed_of_taken selected taken, rfl⟩
  · obtain ⟨f, port, -⟩ := exec_portCommand hc
    rw [port]
    exact if_neg (by rw [idle]; decide)
  · obtain ⟨f, port, -⟩ := exec_portCommand hc
    exact ⟨_, rfl, (port _).trans (if_neg Bool.false_ne_true)⟩
  · obtain ⟨f, port, answers⟩ := exec_portCommand hc
    obtain ⟨u, taken, told⟩ := answers s
    rw [port, onPort_of_awaits awaits, taken] at ends
    cases ends
    exact taken_of awaits told
  · rw [sdo_of_selected rfl]
    show some ((List.replicate n (0 : Byte) ++ []).getD k 0) = _
    rw [List.append_nil, List.getD_eq_getElem?_getD, List.getElem?_replicate]
    split <;> rfl
  · rw [statusByte_mod]
    cases s.lifecycle <;> cases s.standing <;> rfl

end Sys2Proof.Machine

/-! PROOFS. INPUT_CHANGE at the stop inputs, the SEEK and the gates (R11, R32 to R34, R82, R85). -/

namespace Sys2Proof.Machine

/-! ### An input that becomes Active (R82) -/

/-- The level at which an input is Active. -/
theorem inputActive_iff_level (s : State) (i : Input) :
    s.inputActive i = ((s.inputs.get i).level == activeLevel s.config i) := rfl

theorem exec_inputChange_of_inactive {i : Input} {s : State} (inactive : s.inputActive i = false) :
    exec (.inputChange i (activeLevel s.config i)) s =
      .next (settle (inputChanged i (s.flipped i (activeLevel s.config i)))) :=
  exec_inputChange_of_flip (beq_eq_false_iff_ne.mp inactive)

theorem flipped_active (s : State) (i : Input) : (s.flipped i (activeLevel s.config i)).inputActive i = true := by
  rw [inputActive_flipped, beq_self_eq_true]

theorem inputActive_congr {s t : State} (inputs : t.inputs = s.inputs) (config : t.config = s.config) (i : Input) :
    t.inputActive i = s.inputActive i := by
  rw [State.inputActive, State.inputActive, inputs, config]

/-- R85, R89: the entry of an immediate cause ends every motion and empties the queue. -/
theorem Enters.immediate {x : Cause} {s u : State} (h : Enters x s u) (order : QueueInOrder s)
    (kind : stopKindOf s.config x = .immediate) :
    u.queue = [] ∧ u.axis.state = .idle ∧ (s.runningHead.isSome = true → u.axis.speed = 0) := by
  have stop : StopMade (stopKindOf s.config x) s u := h.stopMade order
  rw [kind] at stop
  exact ⟨(stop.2.1 (.inl rfl)).1, (stop.2.1 (.inl rfl)).2, stop.2.2 rfl⟩

/-- The state but for what the entry of a cause changes, with nothing handed on left. -/
theorem Enters.back {x : Cause} {s u : State} (h : Enters x s u) (atRest : AtRest s) : { u with
    faults := s.faults, queue := s.queue, axis := s.axis, ownHalt := s.ownHalt, notices := s.notices, lost := s.lost
    outbound := s.outbound, nextFrame := s.nextFrame, lif := s.lif, handed := .empty } = s := by
  have same := h.same
  dsimp only [State.besidesCause, State.besidesStop, State.besidesFrames, State.besidesAdmission] at same
  have back := congrArg (fun v : State => { v with
    faults := s.faults, queue := s.queue, axis := s.axis, ownHalt := s.ownHalt, notices := s.notices, lost := s.lost
    outbound := s.outbound, nextFrame := s.nextFrame, lif := s.lif, handed := .empty }) same
  refine (show _ = _ from back).trans ?_
  show { s with handed := _ } = s
  rw [← show s.handed = .empty from atRest]

/-! ### The find of a SEEK (R32 to R34) -/

/-- R34: the limit that a SEEK has as its seek input stops it by no cause. -/
theorem stopOnInput_of_seek {e : Entry} {i : Input} {zero : Bool} {k : StopKind} {r : Ramp} {s : State}
    (which : i = .home ∨ i = .limp ∨ i = .limn) (head : s.runningHead = some e)
    (body : e.segment.body = .seek s.axis.dir i zero k r) : stopOnInput i s = s := by
  have exempt (d : Dir) (h : i = limitInput d) : limitStops d s = false := by
    rw [limitStops, head]
    show (_ && (s.axis.dir == d) && _ && !e.segment.body.exemptLimit d) = false
    rw [body, SegmentBody.exemptLimit, h]
    cases s.axis.dir == d <;> simp
  rcases which with rfl | rfl | rfl
  · rfl
  · exact if_neg (by rw [exempt .plus rfl]; decide)
  · exact if_neg (by rw [exempt .minus rfl]; decide)

theorem edgeOf_level {i : Input} (which : i = .home ∨ i = .limp ∨ i = .limn) (active : Bool) :
    edgeOf i active = .none := by
  rcases which with rfl | rfl | rfl <;> rfl

/-- The state of a SEEK at its find, its positions zeroed where told to. -/
def State.foundAt (s : State) (zero : Bool) : State :=
  { s with
    axis := { s.axis with found := true }
    command := if zero then 0 else s.command, measured := if zero then 0 else s.measured }

theorem zeroAtFind_eq {s : State} (unarmed : NoWatchArmed s) (zero : Bool) : zeroAtFind watchNow zero s =
    { s with command := if zero then 0 else s.command, measured := if zero then 0 else s.measured } := by
  cases zero
  · rfl
  · show jumpPositions watchNow 0 0 s = { s with command := 0, measured := 0 }
    unfold jumpPositions
    exact watchNow_of_unarmed (s := { s with command := 0, measured := 0 }) unarmed _

theorem seekInputChange_of_find {e : Entry} {i : Input} {zero : Bool} {k : StopKind} {r : Ramp} {s : State}
    (head : s.runningHead = some e) (body : e.segment.body = .seek s.axis.dir i zero k r)
    (active : s.inputActive i = true) (motion : s.axis.state = .rampUp ∨ s.axis.state = .cruise)
    (unfound : s.axis.found = false) (unarmed : NoWatchArmed s) :
    seekInputChange watchNow i s = stopAtFind false k (s.foundAt zero) := by
  have finds : ((i == i) && s.inputActive i && (s.axis.state == .rampUp || s.axis.state == .cruise) && !s.axis.found) =
      true := by
    rw [active, unfound]
    rcases motion with h | h <;> simp [h]
  have zeroed : zeroAtFind watchNow zero { s with axis := { s.axis with found := true } } = s.foundAt zero :=
    zeroAtFind_eq (s := { s with axis := { s.axis with found := true } }) unarmed zero
  have found : seekFind watchNow false s =
      stopAtFind false k (zeroAtFind watchNow zero { s with axis := { s.axis with found := true } }) := by
    unfold seekFind
    rw [head]
    simp only [body]
  unfold seekInputChange
  rw [head]
  simp only [body, finds, if_true, found, zeroed]

/-- R33: the find that stops the SEEK at once. -/
theorem stopAtFind_ends {k : StopKind} {s : State}
    (stops : k = .immediate ∨ s.axis.speed ≤ s.config.baseSpeed.toNat * 65536) :
    stopAtFind false k s = retireHead .completed s := by
  refine if_pos ?_
  rw [Bool.false_or, Bool.or_eq_true, beq_iff_eq, decide_eq_true_eq]
  exact stops

/-- R33: the find that lets the SEEK ramp down. -/
theorem stopAtFind_slows {k : StopKind} {s : State} (slows : k = .decelerating)
    (fast : s.config.baseSpeed.toNat * 65536 < s.axis.speed) : stopAtFind false k s =
      { s with axis := { s.axis with state := .rampDown, blend := none, committed := true } } := by
  refine if_neg ?_
  rw [Bool.false_or, Bool.or_eq_true, beq_iff_eq, decide_eq_true_eq, slows]
  exact fun h => h.elim (fun h => nomatch h) (Nat.not_le_of_lt fast)

theorem handInput_of_running {i : Input} {s : State} (running : s.runningHead.isSome = true) : handInput i s = s := by
  refine if_neg fun waits => ?_
  obtain ⟨e, head⟩ := Option.isSome_iff_exists.mp running
  obtain ⟨rest, queue, runs⟩ := runningHead_eq_some.mp head
  unfold headWaitsOn at waits
  rw [queue] at waits
  simp [runs] at waits

/-! ### A gate on the input (R11) -/

theorem stopOnInput_of_still {i : Input} {s : State} (which : i = .home ∨ i = .limp ∨ i = .limn)
    (still : s.axis.state.moving = false) : stopOnInput i s = s := by
  have unlimited (d : Dir) : limitStops d s = false := by rw [limitStops, still]; rfl
  rcases which with rfl | rfl | rfl
  · rfl
  · exact if_neg (by rw [unlimited]; decide)
  · exact if_neg (by rw [unlimited]; decide)

/-- R11, R12: the DWELL that waits on the level an input has just taken. -/
theorem moveOnInput_of_dwell {i : Input} {e : Entry} {n : Nat} {s : State} (atRest : AtRest s) (queue : s.queue = [e])
    (waiting : e.state = .waiting) (unconsumed : e.consumed = false) (gate : e.segment.gate = .input i (s.inputActive i))
    (body : e.segment.body = .dwell n) (mark : e.segment.startMark = none) (may : s.mayStart = true) :
    moveOnInput i s = s.dwelling e n := by
  have idle : s.runningHead = none := by
    rw [runningHead_eq_none, queue]
    rintro x ⟨⟩ runs
    rw [waiting] at runs
    cases runs
  have stays : seekInputChange watchNow i s = s := by
    unfold seekInputChange
    rw [idle]
  have waits : headWaitsOn (fun g => match g with | .input j _ => j == i | _ => false) s = true := by
    unfold headWaitsOn
    rw [queue]
    simp [waiting, unconsumed, gate]
  have handed : handInput i s = handEvaluate s := if_pos waits
  have opened : s.gateOpen e.segment.gate = true := by
    rw [gate]
    exact beq_self_eq_true _
  have kept : s.consumed e.segment.gate = s.reactions := by rw [gate]; rfl
  rw [moveOnInput, stays, handed, settle_handEvaluate atRest,
    evaluateHead_of_open_dwell queue waiting unconsumed opened body mark may, kept]
  exact settle_of_atRest atRest

/-- Settles O32. -/
theorem estopStopsTheAxis : Obligations.EstopStopsTheAxis := by
  intro s i high atRest becomesActive stops
  have stop (i : Input) (x : Cause) (flag : Nat) (edge : ∀ active, edgeOf i active = .none)
      (on : ∀ t : State, t.inputActive i = true → stopOnInput i t = raiseCause x t)
      (kind : stopKindOf s.config x = .immediate) (mask : propagates s.config x = s.config.propagate.getLsbD flag) :
      stops i x flag x.code := by
    intro order inactive new
    obtain ⟨u, h, changed⟩ := inputChanged_of_entered (i := i) (s := s.flipped i (activeLevel s.config i)) edge
      (on _ (flipped_active s i)) atRest order kind new
    obtain ⟨queue, idle, still⟩ := h.immediate order kind
    have inputs : u.inputs = (s.flipped i (activeLevel s.config i)).inputs := (congrArg State.inputs h.same :)
    have config : u.config = s.config := (congrArg State.config h.same :)
    refine ⟨_, (exec_inputChange_of_inactive inactive).trans (congrArg _ ((congrArg settle changed).trans (settle_of_atRest rfl))),
      (inputActive_congr inputs config i).trans (flipped_active s i), h.faults, queue, idle, still, h.toldFirst,
      fun p => h.raises (mask.trans p), fun p => h.unraised (.inl (mask.trans p)), ?_⟩
    exact (show _ = _ from congrArg (fun v : State => { v with inputs := s.inputs }) (h.back atRest))
  refine ⟨fun same => ?_, stop .estop .estop 0 (fun _ => rfl) (fun _ h => if_pos h) rfl rfl,
    stop .drvflt .drvflt 1 (fun _ => rfl) (fun _ h => if_pos h) rfl rfl,
    fun which inactive unarmed e zero k r queue runs body last origin motion unfound => ?_,
    fun which flip e n queue waiting unconsumed gate body mark may still => ?_⟩
  · exact congrArg Host.Outcome.next ((congrArg settle (if_pos same)).trans (settle_of_atRest atRest))
  · obtain ⟨u, hu⟩ : ∃ u, u = s.flipped i (activeLevel s.config i) := ⟨_, rfl⟩
    have head : u.runningHead = some e := runningHead_eq_some.mpr ⟨[], by rw [hu]; exact queue, runs⟩
    have changed : inputChanged i u = settle (handInput i (stopAtFind false k (u.foundAt zero))) := by
      rw [inputChanged_of_no_edge (edgeOf_level which), stopOnInput_of_seek which head (by rw [hu]; exact body), moveOnInput,
        seekInputChange_of_find head (by rw [hu]; exact body) (by rw [hu]; exact flipped_active s i)
          (by rw [hu]; exact motion) (by rw [hu]; exact unfound) (by rw [hu]; exact unarmed)]
    have active := exec_inputChange_of_inactive inactive
    rw [← hu, changed, settle_of_atRest (atRest_settle _)] at active
    have rest : AtRest (u.foundAt zero) := by rw [hu]; exact atRest
    by_cases ends : k = .immediate ∨ s.axis.speed ≤ s.config.baseSpeed.toNat * 65536
    · have found : settle (handInput i (stopAtFind false k (u.foundAt zero))) = notify
          (.segmentRetired e.segment.tag .localPort .completed (if zero then 0 else s.command)) (u.foundAt zero).over := by
        have only : (u.foundAt zero).queue = [e] := by rw [hu]; exact queue
        have command : (u.foundAt zero).command = if zero then 0 else s.command := by rw [hu]; rfl
        rw [stopAtFind_ends (by rw [hu]; exact ends), handInput_of_empty (retireHead_queue_axis _ only).1,
          settle_retireHead_of_only rest (.inl rfl) only origin last, command]
      refine ⟨_, active.trans (congrArg _ found), ?_⟩
      rw [notify_eq, hu]
      refine ⟨flipped_active s i, rfl, rfl, fun _ => ⟨rfl, rfl, rfl, fun room => notify_notices_of_room (by exact room)⟩,
        fun slows fast => ?_, rfl⟩
      rw [slows] at ends
      exact absurd (ends.resolve_left fun h => nomatch h) (Nat.not_le_of_lt fast)
    · obtain ⟨moving, fast⟩ := not_or.mp ends
      have slows : k = .decelerating := by
        cases k
        · rfl
        · exact absurd rfl moving
      have runs : (u.foundAt zero).runningHead.isSome = true := by
        rw [show (u.foundAt zero).runningHead = u.runningHead from rfl, head]
        rfl
      have found : settle (handInput i (stopAtFind false k (u.foundAt zero))) = { u.foundAt zero with
          axis := { (u.foundAt zero).axis with state := .rampDown, blend := none, committed := true } } := by
        rw [stopAtFind_slows slows (by rw [hu]; exact Nat.lt_of_not_le fast), handInput_of_running (by exact runs)]
        exact settle_of_atRest rest
      refine ⟨_, active.trans (congrArg _ found), ?_⟩
      rw [hu]
      exact ⟨flipped_active s i, rfl, rfl, fun h => absurd h ends, fun _ _ => ⟨queue, rfl, rfl⟩, rfl⟩
  · obtain ⟨u, hu⟩ : ∃ u, u = s.flipped i high := ⟨_, rfl⟩
    have active : u.inputActive i = (high == activeLevel s.config i) := by rw [hu, inputActive_flipped]
    have level : (u.inputs.get i).level = high := by rw [hu, State.flipped, get_set_input, level_taken]
    have changed : inputChanged i u = u.dwelling e n := by
      rw [inputChanged_of_no_edge (edgeOf_level which), stopOnInput_of_still which (by rw [hu]; exact still)]
      exact moveOnInput_of_dwell (by rw [hu]; exact atRest) (by rw [hu]; exact queue) waiting unconsumed
        (by rw [active]; exact gate) body mark (by rw [hu]; exact may)
    have settled : settle (inputChanged i u) = u.dwelling e n := by
      rw [changed]
      exact settle_of_atRest (by rw [hu]; exact atRest)
    have answered := exec_inputChange_of_flip flip
    rw [← hu, settled] at answered
    refine ⟨_, answered, level, ?_, ?_, ?_⟩
    · show [{ e with state := .running, consumed := false }] = _
      rw [← unconsumed]
    · rw [hu]
      rfl
    · rw [hu]
      rfl

end Sys2Proof.Machine

/-! PROOFS. A new value at the watches, with one of them at most armed on its source (R71, R73), and ENCODER_EDGE
(R44, R45). -/

namespace Sys2Proof.Machine

/-! ### The comparison (R71) -/

/-- A watch that does not compare the values of a source. -/
def State.deaf (s : State) (x : WatchSource) (k : Fin 4) : Prop := (s.watch k).state ≠ .armed ∨ (s.watch k).source ≠ x

theorem compareWatch_of_deaf {x : WatchSource} {k : Fin 4} {s : State} (deaf : s.deaf x k) (p : Position) :
    compareWatch x p s k = s := by
  unfold compareWatch
  exact if_neg fun h => deaf.elim (fun k => k h.1) (fun k => k h.2)

theorem foldl_compareWatch_of_deaf {x : WatchSource} {l : List (Fin 4)} {s : State} (deaf : ∀ k ∈ l, s.deaf x k)
    (p : Position) : l.foldl (compareWatch x p) s = s := by
  induction l with
  | nil => rfl
  | cons k l ih =>
    rw [List.foldl_cons, compareWatch_of_deaf (deaf k List.mem_cons_self)]
    exact ih fun j hj => deaf j (List.mem_cons_of_mem k hj)

theorem compareWatches_of_deaf {x : WatchSource} {s : State} (deaf : ∀ k, s.deaf x k) (p : Position) :
    compareWatches x p s = s := foldl_compareWatch_of_deaf (fun k _ => deaf k) p

/-- R71: one watch alone takes the value. -/
theorem foldl_compareWatch_of_one {x : WatchSource} {p : Position} {w : Fin 4} {l : List (Fin 4)} {s t : State}
    (once : l.Nodup) (mem : w ∈ l) (deaf : ∀ k, k ≠ w → s.deaf x k) (taken : compareWatch x p s w = t)
    (after : ∀ k, k ≠ w → t.deaf x k) : l.foldl (compareWatch x p) s = t := by
  induction l with
  | nil => cases mem
  | cons k l ih =>
    obtain ⟨fresh, once⟩ := List.nodup_cons.mp once
    rw [List.foldl_cons]
    by_cases same : k = w
    · subst same
      rw [taken]
      exact foldl_compareWatch_of_deaf (fun j hj => after j fun h => fresh (h ▸ hj)) p
    · rw [compareWatch_of_deaf (deaf k same)]
      exact ih once ((List.mem_cons.mp mem).resolve_left (Ne.symm same))

theorem compareWatches_of_one {x : WatchSource} {p : Position} {w : Fin 4} {s t : State}
    (deaf : ∀ k, k ≠ w → s.deaf x k) (taken : compareWatch x p s w = t) (after : ∀ k, k ≠ w → t.deaf x k) :
    compareWatches x p s = t := foldl_compareWatch_of_one (by decide) (mem_slots w) deaf taken after

/-! ### A hit behind which the head stays (R73) -/

theorem evaluateWithin_of_calm {n : Nat} {s : State} (calm : s.handed.evaluate = false) : evaluateWithin n s = s := by
  cases n with
  | zero => rfl
  | succ n => exact if_neg (by rw [calm]; decide)

theorem evaluateNow_of_atRest {s : State} (atRest : AtRest s) : evaluateNow s = s :=
  evaluateWithin_of_calm (by rw [show s.handed = .empty from atRest]; rfl)

theorem evaluateNow_handEvaluate {s : State} (atRest : AtRest s) (stays : HeadStays s) : evaluateNow (handEvaluate s) = s := by
  have back : { handEvaluate s with handed := { (handEvaluate s).handed with evaluate := false } } = s := by
    show { s with handed := { s.handed with evaluate := false } } = s
    rw [show { s.handed with evaluate := false } = s.handed by rw [show s.handed = .empty from atRest]; rfl]
  show evaluateWithin ((handEvaluate s).queue.length + 1) (handEvaluate s) = s
  unfold evaluateWithin
  rw [if_pos (by rfl), back, evaluateHead_of_headStays _ stays]
  exact evaluateWithin_of_calm (by rw [show s.handed = .empty from atRest]; rfl)

theorem evaluateNow_handWatch {w : Fin 4} {s : State} (atRest : AtRest s) (stays : HeadStays s) :
    evaluateNow (handWatch w s) = s := by
  unfold handWatch handGateChange
  split
  · exact evaluateNow_handEvaluate atRest stays
  · exact evaluateNow_of_atRest atRest

/-- The record of a watch that has hit on a value. -/
def State.hitRecord (s : State) (w : Fin 4) (p : Position) : Watch := { s.watch w with previous := p, state := .hit }

theorem compareWatch_of_hit {w : Fin 4} {x : WatchSource} {p : Position} {s t : State} (armed : (s.watch w).state = .armed)
    (source : (s.watch w).source = x)
    (hits : (s.watch w).condition.hits (s.watch w).value p (s.watch w).previous = true)
    (effects : hitEffects w { s.watch w with previous := p } s = t) (atRest : AtRest t) (stays : HeadStays t) :
    compareWatch x p s w = t := by
  have taken : compareWatch x p s w = evaluateNow (hitWatch w { s.watch w with previous := p } s) := by
    unfold compareWatch
    exact (if_pos ⟨armed, source⟩).trans (if_pos hits)
  rw [taken, hitWatch, effects, evaluateNow_handWatch atRest stays]

/-- R73: the hit with its mark and its cut. -/
theorem hitEffects_eq (w : Fin 4) (p : Position) (s : State) : hitEffects w { s.watch w with previous := p } s =
    if (s.watch w).cutOnHit then
      takeCut (requestMark? (s.watch w).mark .watch (byteOfNat w.val) (s.hitting w (s.hitRecord w p)))
    else requestMark? (s.watch w).mark .watch (byteOfNat w.val) (s.hitting w (s.hitRecord w p)) := rfl

/-- The other watches are as they were. -/
theorem deaf_of_set {x : WatchSource} {w : Fin 4} {r : Watch} {s t : State} (watches : t.watches = s.watches.set w.val r)
    {k : Fin 4} (other : k ≠ w) (deaf : s.deaf x k) : t.deaf x k := by
  have same : t.watch k = s.watch k := by
    rw [State.watch, watches]
    exact getD_set_of_ne (fun h => other (Fin.ext h)) _ _
  rw [State.deaf, same]
  exact deaf

/-- R71, R73: one watch alone is armed on the source, and it hits. -/
theorem compareWatches_of_hit {w : Fin 4} {x : WatchSource} {p : Position} {r : Watch} {s t : State}
    (armed : (s.watch w).state = .armed) (source : (s.watch w).source = x)
    (hits : (s.watch w).condition.hits (s.watch w).value p (s.watch w).previous = true)
    (alone : ∀ k, k ≠ w → s.deaf x k) (effects : hitEffects w { s.watch w with previous := p } s = t) (atRest : AtRest t)
    (stays : HeadStays t) (watches : t.watches = s.watches.set w.val r) : compareWatches x p s = t :=
  compareWatches_of_one alone (compareWatch_of_hit armed source hits effects atRest stays)
    fun _ other => deaf_of_set watches other (alone _ other)

/-! ### The counts of an edge (R44) -/

/-- R44: the change of the measured position that an edge makes. -/
def edgeDelta (m : EncoderMode) (a b a' b' : Bool) : Position :=
  match m with
  | .off => 0
  | .quadrature =>
    let forward := [((false, false), (true, false)), ((true, false), (true, true)),
      ((true, true), (false, true)), ((false, true), (false, false))]
    if ((a, b), (a', b')) ∈ forward then 1 else if ((a', b'), (a, b)) ∈ forward then -1 else 0
  | .upDown => (if a = false ∧ a' then 1 else 0) - (if b = false ∧ b' then 1 else 0)

/-- R44: what a change of the encoder pins counts: nothing, one each way, or one. -/
theorem encoderCounts_eq (m : EncoderMode) (a b a' b' : Bool) :
    edgeDelta m a b a' b' = 0 ∧ encoderCounts m a b a' b' = [] ∨
      edgeDelta m a b a' b' = 0 ∧ encoderCounts m a b a' b' = [.plus, .minus] ∨
      edgeDelta m a b a' b' = 1 ∧ encoderCounts m a b a' b' = [.plus] ∨
      edgeDelta m a b a' b' = -1 ∧ encoderCounts m a b a' b' = [.minus] := by
  revert a b a' b'
  cases m <;> decide

theorem encoderCounts_of_still {m : EncoderMode} {a b a' b' : Bool} (still : edgeDelta m a b a' b' = 0) :
    encoderCounts m a b a' b' = [] ∨ encoderCounts m a b a' b' = [.plus, .minus] := by
  rcases encoderCounts_eq m a b a' b' with h | h | h | h
  · exact .inl h.2
  · exact .inr h.2
  · exact absurd (h.1.symm.trans still) (by decide)
  · exact absurd (h.1.symm.trans still) (by decide)

theorem encoderCounts_of_moved {m : EncoderMode} {a b a' b' : Bool} (moved : edgeDelta m a b a' b' ≠ 0) :
    ∃ d, encoderCounts m a b a' b' = [d] ∧ ∀ p, counted d p = p + edgeDelta m a b a' b' := by
  rcases encoderCounts_eq m a b a' b' with h | h | h | h
  · exact absurd h.1 moved
  · exact absurd h.1 moved
  · exact ⟨.plus, h.2, fun p => by rw [h.1]; rfl⟩
  · exact ⟨.minus, h.2, fun p => by rw [h.1]; exact BitVec.sub_eq_add_neg p 1⟩

theorem encoder_ne_off_of_moved {m : EncoderMode} {a b a' b' : Bool} (moved : edgeDelta m a b a' b' ≠ 0) : m ≠ .off :=
  fun off => moved (by rw [off]; rfl)


end Sys2Proof.Machine

/-! PROOFS. ENCODER_EDGE (R44, R45, R71, R73). -/

namespace Sys2Proof.Machine

/-! ### One count (R44, R45) -/

theorem exec_encoderEdge (a b : Bool) (s : State) : exec (.encoderEdge a b) s = .next (settle (encoderEdge a b s)) := rfl

/-- The state once the pins have changed and the position is counted. -/
def State.countedTo (s : State) (a b : Bool) (p : Position) : State := { s with encA := a, encB := b, measured := p }

/-- R45: no FOLLOWING_GAP comes of the gap, or it is there already. -/
theorem checkGap_of_calm {s : State} (calm : s.config.gapLimit = 0 ∨ s.faults.followingGap = true ∨
    (s.command - s.measured).toInt.natAbs ≤ s.config.gapLimit.toNat) : checkGap s = s := by
  unfold checkGap
  split
  · rename_i past
    obtain ⟨-, limited, far⟩ := gapExceeds_eq_true.mp past
    rcases calm with none_set | there | near
    · exact absurd none_set limited
    · exact raiseCause_of_present there
    · exact absurd far (Nat.not_lt_of_le near)
  · rfl

theorem countEncoder_of_calm {d : Dir} {s : State} (atRest : AtRest s) (unarmed : NoWatchArmed s)
    (calm : s.config.gapLimit = 0 ∨ s.faults.followingGap = true ∨
      (s.command - counted d s.measured).toInt.natAbs ≤ s.config.gapLimit.toNat) :
    countEncoder s d = { s with measured := counted d s.measured } := by
  rw [countEncoder_eq, watchNow_of_unarmed (s := { s with measured := counted d s.measured }) unarmed,
    checkGap_of_calm (s := { s with measured := counted d s.measured }) calm]
  exact settle_of_atRest atRest

/-- An edge of one count. -/
theorem encoderEdge_of_moved {a b : Bool} {s : State}
    (moved : edgeDelta s.config.encoder s.encA s.encB a b ≠ 0) : ∃ d,
    counted d s.measured = s.measured + edgeDelta s.config.encoder s.encA s.encB a b ∧
    encoderEdge a b s = countEncoder { s with encA := a, encB := b } d := by
  obtain ⟨d, counts, position⟩ := encoderCounts_of_moved moved
  refine ⟨d, position _, ?_⟩
  rw [encoderEdge, counts, List.foldl_cons, List.foldl_nil]

theorem countEncoder_of_counted {d : Dir} {p : Position} {s : State} (position : counted d s.measured = p) :
    countEncoder s d = settle (checkGap (compareWatches .measured p { s with measured := p })) := by
  subst position
  rw [countEncoder_eq, watchNow, List.foldl_cons, List.foldl_nil]

/-- An edge whose count is taken by the watches and the gap. -/
theorem exec_encoderEdge_of_moved {a b : Bool} {p : Position} {s : State}
    (moved : edgeDelta s.config.encoder s.encA s.encB a b ≠ 0)
    (position : s.measured + edgeDelta s.config.encoder s.encA s.encB a b = p) : exec (.encoderEdge a b) s =
      .next (settle (checkGap (compareWatches .measured p (s.countedTo a b p)))) := by
  obtain ⟨d, counts, edge⟩ := encoderEdge_of_moved moved
  have taken := countEncoder_of_counted (s := { s with encA := a, encB := b }) (counts.trans position)
  rw [exec_encoderEdge, edge, taken, settle_of_atRest (atRest_settle _)]
  rfl

theorem encoderEdge_calm {a b : Bool} {s : State} (atRest : AtRest s) (unarmed : NoWatchArmed s)
    (calm : s.config.gapLimit = 0 ∨ s.faults.followingGap = true ∨
      edgeDelta s.config.encoder s.encA s.encB a b ≠ 0 ∧
        (s.command - (s.measured + edgeDelta s.config.encoder s.encA s.encB a b)).toInt.natAbs ≤
          s.config.gapLimit.toNat) : encoderEdge a b s =
      s.countedTo a b (s.measured + edgeDelta s.config.encoder s.encA s.encB a b) := by
  by_cases moved : edgeDelta s.config.encoder s.encA s.encB a b = 0
  · have quiet : s.config.gapLimit = 0 ∨ s.faults.followingGap = true :=
      calm.imp_right fun h => h.resolve_right fun k => k.1 moved
    have step (t : State) (rest : AtRest t) (idle : NoWatchArmed t) (config : t.config = s.config)
        (faults : t.faults = s.faults) (d : Dir) : countEncoder t d = { t with measured := counted d t.measured } :=
      countEncoder_of_calm rest idle (by
        rw [config, faults]
        exact quiet.imp_right .inl)
    rw [moved, show s.measured + 0 = s.measured from BitVec.add_zero s.measured, encoderEdge]
    rcases encoderCounts_of_still moved with none_counted | both
    · rw [none_counted]
      rfl
    · have plus := step { s with encA := a, encB := b } atRest unarmed rfl rfl .plus
      have minus := step { s with encA := a, encB := b, measured := counted .plus s.measured } atRest unarmed rfl rfl .minus
      rw [both, List.foldl_cons, List.foldl_cons, List.foldl_nil, plus, minus]
      have back : counted .minus (counted .plus s.measured) = s.measured := BitVec.add_sub_cancel s.measured 1
      exact congrArg (fun p => s.countedTo a b p) back
  · obtain ⟨d, position, edge⟩ := encoderEdge_of_moved moved
    rw [edge, ← position]
    refine countEncoder_of_calm (s := { s with encA := a, encB := b }) atRest unarmed ?_
    show _ ∨ _ ∨ (s.command - counted d s.measured).toInt.natAbs ≤ _
    rw [position]
    exact calm.imp_right (.imp_right And.right)

/-- R45, R84: a gap past its limit enters its cause, and nothing handed on is left. -/
theorem settle_checkGap_of_past {s : State} (atRest : AtRest s) (order : QueueInOrder s)
    (new : s.faults.followingGap = false) (past : gapExceeds s = true) :
    ∃ t, settle (checkGap s) = { t with handed := .empty } ∧ Enters .followingGap s t := by
  have raised : checkGap s = raiseCause .followingGap s := if_pos past
  have h : Enters .followingGap s (raiseCause .followingGap s) := raiseCause_enters new
  rw [raised]
  exact ⟨_, settle_of_onlyEvaluates (h.onlyEvaluates atRest) (headStays_of_nil (h.immediate order rfl).1), h⟩

theorem compareWatches_of_unarmed {s : State} (idle : NoWatchArmed s) (x : WatchSource) (p : Position) :
    compareWatches x p s = s := by
  simp only [compareWatches, List.foldl_cons, List.foldl_nil, compareWatch_of_unarmed idle]

/-! ### A hit on the measured position (R71, R73) -/

/-- The count that a watch alone hits on, taken to its end. -/
theorem exec_encoderEdge_of_hit {a b : Bool} {p : Position} {w : Fin 4} {s t : State} {r : Watch}
    (moved : edgeDelta s.config.encoder s.encA s.encB a b ≠ 0)
    (position : s.measured + edgeDelta s.config.encoder s.encA s.encB a b = p)
    (armed : (s.watch w).state = .armed) (source : (s.watch w).source = .measured)
    (hits : (s.watch w).condition.hits (s.watch w).value p (s.watch w).previous = true)
    (alone : ∀ k, k ≠ w → s.deaf .measured k)
    (effects : hitEffects w { s.watch w with previous := p } (s.countedTo a b p) = t) (atRest : AtRest t)
    (stays : HeadStays t) (watches : t.watches = s.watches.set w.val r)
    (within : t.config.gapLimit = 0 ∨ (t.command - t.measured).toInt.natAbs ≤ t.config.gapLimit.toNat) :
    exec (.encoderEdge a b) s = .next t := by
  have taken : compareWatches .measured p (s.countedTo a b p) = t :=
    compareWatches_of_hit (s := s.countedTo a b p) armed source hits alone effects atRest stays watches
  rw [exec_encoderEdge_of_moved moved position, taken, checkGap_of_calm (within.imp_right .inr)]
  exact congrArg _ (settle_of_atRest atRest)

/-- Settles O33. -/
theorem encoderEdgesCount : Obligations.EncoderEdgesCount := by
  intro s a b atRest before after forward δ p u within
  have delta : edgeDelta s.config.encoder s.encA s.encB a b = δ := by
    show edgeDelta s.config.encoder s.encA s.encB a b = (match s.config.encoder with
      | .off => 0
      | .quadrature => if (before, after) ∈ forward then 1 else if (after, before) ∈ forward then -1 else 0
      | .upDown => (if s.encA = false ∧ a then 1 else 0) - (if s.encB = false ∧ b then 1 else 0))
    cases s.config.encoder <;> rfl
  have to_p : s.measured + edgeDelta s.config.encoder s.encA s.encB a b = p := congrArg (s.measured + ·) delta
  have moved (moves : δ ≠ 0) : edgeDelta s.config.encoder s.encA s.encB a b ≠ 0 := by
    rw [delta]
    exact moves
  refine ⟨fun unarmed calm => ?_, fun unarmed order moves past new => ?_,
    fun w fit moves near armed source hits alone => ?_⟩
  · have quiet : s.config.gapLimit = 0 ∨ s.faults.followingGap = true ∨
        δ ≠ 0 ∧ (s.command - (s.measured + δ)).toInt.natAbs ≤ s.config.gapLimit.toNat := by
      rcases calm with unlimited | there | ⟨moves, unlimited | near⟩
      · exact .inl unlimited
      · exact .inr (.inl there)
      · exact .inl unlimited
      · exact .inr (.inr ⟨moves, near⟩)
    have edge := encoderEdge_calm (a := a) (b := b) atRest unarmed (by rw [delta]; exact quiet)
    rw [exec_encoderEdge, edge, to_p]
    exact congrArg _ (settle_of_atRest atRest)
  · obtain ⟨limited, far⟩ := not_or.mp past
    obtain ⟨v, hv⟩ : ∃ v, v = s.countedTo a b p := ⟨_, rfl⟩
    obtain ⟨t, settled, h⟩ : ∃ t, settle (checkGap v) = { t with handed := .empty } ∧ Enters .followingGap v t := by
      refine settle_checkGap_of_past (by rw [hv]; exact atRest) (by rw [hv]; exact order) (by rw [hv]; exact new) ?_
      rw [hv]
      exact gapExceeds_eq_true.mpr ⟨encoder_ne_off_of_moved (moved moves), limited, Nat.lt_of_not_le far⟩
    have taken := exec_encoderEdge_of_moved (moved moves) to_p
    rw [compareWatches_of_unarmed (by exact unarmed), ← hv, settled] at taken
    have stop := h.stopMade (by rw [hv]; exact order)
    have back := h.back (by rw [hv]; exact atRest)
    have measured : t.measured = v.measured := (congrArg State.measured h.same :)
    have faults := h.faults
    have told := h.toldFirst
    have raises := h.raises
    have unraised := h.unraised
    rw [hv] at stop faults told raises unraised measured back
    refine ⟨_, taken, measured, faults, stop.congr rfl rfl rfl rfl rfl, told, raises, fun p => unraised (.inl p), ?_⟩
    exact (show _ = _ from congrArg (fun v : State => { v with encA := s.encA, encB := s.encB, measured := s.measured }) back)
  · intro hit
    have told : hit = { s.countedTo a b p with
        watches := s.watches.set w.val (s.hitRecord w p), notices := hit.notices, lost := hit.lost } := notify_eq _ _
    have effects := hitEffects_eq w p (s.countedTo a b p)
    rw [show (s.countedTo a b p).hitting w ((s.countedTo a b p).hitRecord w p) = hit from rfl] at effects
    have ends {t : State} (taken : hitEffects w { s.watch w with previous := p } (s.countedTo a b p) = t)
        (rest : t.handed = hit.handed) (stays : HeadStays t) (watches : t.watches = hit.watches)
        (config : t.config = hit.config) (command : t.command = hit.command) (measured : t.measured = hit.measured) :
        exec (.encoderEdge a b) s = .next t := by
      rw [told] at rest watches config command measured
      refine exec_encoderEdge_of_hit (moved moves) to_p armed source hits alone taken (rest.trans atRest) stays watches ?_
      rw [config, command, measured]
      exact near
    refine ⟨fun unmarked uncut stays => ?_, fun m mark uncut stays sends room => ?_,
      fun unmarked cuts e head plain unfound fast motion => ?_⟩
    · have taken : hitEffects w { s.watch w with previous := p } (s.countedTo a b p) = hit := by
        refine effects.trans ?_
        rw [show ((s.countedTo a b p).watch w).cutOnHit = false from uncut,
          show ((s.countedTo a b p).watch w).mark = none from unmarked]
        rfl
      exact ends taken rfl stays rfl rfl rfl rfl
    · have uncutting : ((s.countedTo a b p).watch w).cutOnHit = false := uncut
      have marked : ((s.countedTo a b p).watch w).mark = some m := mark
      have opened : hit.canSend = true := by rw [told]; exact sends
      have fits : hit.outbound.length < 10 := by rw [told]; exact room
      obtain ⟨l, sent, -⟩ := requestMark_sent opened fits m .watch (byteOfNat w.val)
      rw [uncutting, marked] at effects
      have taken := effects.trans sent
      refine ⟨_, ends taken rfl stays rfl rfl rfl rfl, ?_⟩
      generalize hn : hit.notices = notices at told ⊢
      generalize hl : hit.lost = lost at told ⊢
      rw [told]
      exact ⟨rfl, rfl, rfl, rfl, rfl, rfl⟩
    · have cutting : ((s.countedTo a b p).watch w).cutOnHit = true := cuts
      have none_marked : ((s.countedTo a b p).watch w).mark = none := unmarked
      have queue : hit.queue = s.queue := by rw [told]; rfl
      have axis : hit.axis = s.axis := by rw [told]; rfl
      have config : hit.config = s.config := by rw [told]; rfl
      have cut : takeCut hit = { hit with
          queue := s.queue.take 1 ++ (s.queue.drop 1).map Entry.uncommit
          axis := { s.axis with
            state := .braking, braking := .cut, brakeRate := e.decelRate, blend := none, committed := true
            found := false } } := by
        rw [takeCut_of_plain ((runningHead_of_queue queue).trans head) (by rw [axis]; exact motion)
          (by rw [axis]; exact plain) (by rw [axis]; exact unfound), cutBrake_above (by rw [axis, config]; exact fast), queue,
          axis]
      rw [cutting, none_marked] at effects
      have taken := effects.trans cut
      obtain ⟨rest, held, runs⟩ := runningHead_eq_some.mp head
      refine ends taken rfl (headStays_of_running ?_) rfl rfl rfl rfl
      refine Option.isSome_iff_exists.mpr ⟨e, runningHead_eq_some.mpr ⟨rest.map Entry.uncommit, ?_, runs⟩⟩
      show s.queue.take 1 ++ (s.queue.drop 1).map Entry.uncommit = _
      rw [held]
      rfl

end Sys2Proof.Machine

/-! PROOFS. STEP_PULSE: one pulse of a running motion, and a RUN or a SEEK alone in the queue (R25, R26, R33, R40). -/

namespace Sys2Proof.Machine

/-! ### One pulse (R25) -/

theorem exec_stepPulse (s : State) : exec .stepPulse s = .next (settle (pulse watchNow s)) := rfl

/-- The state with the plan as it stands before a pulse. -/
def State.replanned (s : State) : State :=
  { s with axis := { s.axis with blend := if s.axis.committed then s.axis.blend else planOf s } }

theorem replan_eq (s : State) : replan s = s.replanned := by
  unfold replan State.replanned
  split <;> rfl

/-- R36: alone in the queue a segment has no successor to plan for. -/
theorem planOf_of_only {e : Entry} {s : State} (only : s.queue = [e]) : planOf s = none := by
  rw [planOf, only]

/-- The state once a pulse is emitted, the encoder Off. -/
def State.pulsed (e : Entry) (s : State) : State :=
  { s with
    command := stepTo s.axis.dir s.command, measured := stepTo s.axis.dir s.command
    axis := { s.axis with
      state := (speedAfter e s).1, speed := (speedAfter e s).2
      remaining := if e.segment.body.isMove then s.axis.remaining - 1 else s.axis.remaining
      pulseTimer := interval (speedAfter e s).2
      pulseOut := some (pulsePin s.axis.pulseMode s.axis.dir) } }

theorem emitPulse_of_off {e : Entry} {s : State} (off : s.config.encoder = .off) : emitPulse e s = s.pulsed e := by
  rw [emitPulse_eq, setCommand_of_off (by exact off)]
  rfl

theorem pulse_of_moving {watch : WatchTake} {e : Entry} {s : State} (head : s.runningHead = some e)
    (moving : s.axis.state.moving = true) : pulse watch s =
      let u := decelerationPoint e (replan s)
      if stepRefused u.axis.dir u then refuseStep u
      else endMotion (checkGap (watch (emitPulse e u).commandValues (emitPulse e u))) := by
  unfold pulse
  rw [head]
  exact if_pos moving

/-- R25 steps 1 to 6: a step that is made, with the values that the watches take. -/
theorem pulse_of_made {watch : WatchTake} {e : Entry} {s u : State} (head : s.runningHead = some e)
    (moving : s.axis.state.moving = true) (planned : decelerationPoint e (replan s) = u)
    (made : stepRefused u.axis.dir u = false) (off : u.config.encoder = .off) : pulse watch s =
      endMotion (checkGap (watch [(.command, (u.pulsed e).command), (.measured, (u.pulsed e).command)] (u.pulsed e))) := by
  have values : (u.pulsed e).commandValues = [(.command, (u.pulsed e).command), (.measured, (u.pulsed e).command)] := by
    rw [State.commandValues, if_pos (by exact off)]
  rw [pulse_of_moving head moving, planned]
  simp only [made, emitPulse_of_off off, values]
  rfl

theorem checkGap_of_off {s : State} (off : s.config.encoder = .off) : checkGap s = s :=
  checkGap_of_not (Bool.eq_false_iff.mpr fun h => (gapExceeds_eq_true.mp h).1 off)

/-- The same with nothing that watches. -/
theorem exec_stepPulse_of_made {e : Entry} {s u : State} (head : s.runningHead = some e)
    (moving : s.axis.state.moving = true) (planned : decelerationPoint e (replan s) = u)
    (made : stepRefused u.axis.dir u = false) (off : u.config.encoder = .off) (unarmed : NoWatchArmed u) :
    exec .stepPulse s = .next (settle (endMotion (u.pulsed e))) := by
  have quiet := watchNow_of_unarmed (s := u.pulsed e) unarmed
  rw [exec_stepPulse, pulse_of_made head moving planned made off, quiet, checkGap_of_off (by exact off)]

theorem pulsePin_eq (m : PulseMode) (d : Dir) : pulsePin m d = if m = .cwCcw ∧ d = .minus then .dirCcw else .stepCw := by
  cases m <;> cases d <;> rfl

theorem decelerationPoint_of_not {e : Entry} {s : State} (not : atDecelerationPoint e s = false) :
    decelerationPoint e s = s := if_neg (by rw [not]; decide)

/-! ### The speed after a pulse (R26) -/

theorem speedAfter_cruise {e : Entry} {s : State} (cruise : s.axis.state = .cruise) :
    speedAfter e s = (.cruise, s.axis.speed) := by
  unfold speedAfter
  simp only [cruise]

theorem speedAfter_rampUp {e : Entry} {r : Ramp} {s : State} (rampUp : s.axis.state = .rampUp)
    (ramp : e.segment.body.ramp = some r) : speedAfter e s =
      if r.top * 65536 ≤ s.axis.speed + 1000 * r.accel * 65536 * 65536 / s.axis.speed then (.cruise, r.top * 65536)
      else (.rampUp, s.axis.speed + 1000 * r.accel * 65536 * 65536 / s.axis.speed) := by
  unfold speedAfter
  simp only [rampUp, ramp]
  rfl

theorem speedAfter_braking {e : Entry} {s : State} (braking : s.axis.state = .braking) : speedAfter e s =
    (.braking, s.axis.speed - s.axis.brakeRate * 65536 * 65536 / s.axis.speed) := by
  unfold speedAfter
  simp only [braking]
  rfl

theorem decelRate_eq {e : Entry} {r : Ramp} (ramp : e.segment.body.ramp = some r) :
    e.decelRate = 1000 * (if r.decel = 0 then r.accel else r.decel) := by
  rw [Entry.decelRate, ramp]
  rfl

theorem speedAfter_rampDown {e : Entry} {r : Ramp} {s : State} (rampDown : s.axis.state = .rampDown)
    (ramp : e.segment.body.ramp = some r) : speedAfter e s =
      (.rampDown, if s.axis.speed ≤ s.floorUnits then s.axis.speed else max s.floorUnits
        (s.axis.speed - 1000 * (if r.decel = 0 then r.accel else r.decel) * 65536 * 65536 / s.axis.speed)) := by
  unfold speedAfter
  simp only [rampDown]
  rw [decelRate_eq ramp]
  rfl

/-- R29: without a blend the ramp floor is base speed. -/
theorem floorUnits_of_plain {s : State} (plain : s.axis.blend = none) : s.floorUnits = s.config.baseSpeed.toNat * 65536 := by
  rw [State.floorUnits, plain]
  exact Nat.max_eq_right (by rw [Option.getD_none, Nat.zero_mul]; exact Nat.zero_le _)

/-! ### The end of the motion (R28, R33, R40) -/

section
variable {e : Entry} {s : State} (head : s.runningHead = some e)
include head

theorem endMotion_braking (braking : s.axis.state = .braking) : endMotion s =
    if (e.segment.body.isMove = true ∧ s.axis.remaining = 0) ∨ s.axis.speed ≤ s.config.baseSpeed.toNat * 65536 then
      retireHead (brakeOutcome s.axis.braking e) s
    else s := by
  unfold endMotion
  simp only [head, braking, Bool.or_eq_true, Bool.and_eq_true, beq_iff_eq, decide_eq_true_eq]
  rfl

theorem endMotion_up (motion : s.axis.state = .rampUp ∨ s.axis.state = .cruise) : endMotion s =
    if e.segment.body.isMove = true ∧ s.axis.remaining = 0 then endMove s else s := by
  rw [endMotion_of_running head motion]
  simp only [Bool.and_eq_true, beq_iff_eq]

theorem endMotion_down (down : s.axis.state = .rampDown) : endMotion s =
    if e.segment.body.isMove = true ∧ s.axis.remaining = 0 then endMove s
    else if s.axis.found = true then
      if s.axis.speed ≤ s.config.baseSpeed.toNat * 65536 then retireHead .completed s else s
    else if e.segment.body.isRun = true ∧ s.blendCommitted = true ∧ s.axis.speed ≤ s.floorUnits then junction s
    else s := by
  unfold endMotion
  simp only [head, down, Bool.and_eq_true, beq_iff_eq, decide_eq_true_eq, and_assoc]
  rfl

end

theorem brakeOutcome_eq {c : BrakeCause} (real : c ≠ .none) (e : Entry) : brakeOutcome c e =
    if c = .stop then .stopped else if e.segment.body.isRun then .completed else .cut := by
  cases c
  · contradiction
  · rfl
  · rfl

end Sys2Proof.Machine

/-! PROOFS. STEP_PULSE of a RUN or a SEEK (R25, R26, R33, R40, R43, R73). -/

namespace Sys2Proof.Machine

/-- R17: an only head of the Local Port without an end mark that ends, the evaluation handed on taken. -/
theorem settle_retireHead_of_unmarked {e : Entry} {s : State} (atRest : AtRest s) (queue : s.queue = [e])
    (origin : e.origin = .localPort) (mark : e.segment.endMark = none) (o : Retirement) :
    settle (retireHead o s) = notify (.segmentRetired e.segment.tag .localPort o s.command) s.over := by
  have ends : retireHead o s = handEvaluate (notify (.segmentRetired e.segment.tag .localPort o s.command) s.over) := by
    rw [retireHead_cons o queue]
    cases o <;> simp only [retireEffects, origin, mark, requestMark?] <;> rfl
  rw [ends]
  exact settle_retired atRest

/-- A running segment without pulses to count has no deceleration point. -/
theorem planned_of_endless {e : Entry} {s : State} (endless : e.segment.body.isMove = false) :
    decelerationPoint e (replan s) = s.replanned := by
  rw [replan_eq]
  exact decelerationPoint_of_not (by rw [atDecelerationPoint, endless]; rfl)

/-- A RUN or a SEEK has speed fields, and no pulses to count. -/
theorem body_of_endless {b : SegmentBody} {d : Dir} {r : Ramp} {i : Input} {zero : Bool} {k : StopKind}
    (body : b = .run d r ∨ b = .seek d i zero k r) : b.ramp = some r ∧ b.isMove = false := by
  rcases body with rfl | rfl <;> exact ⟨rfl, rfl⟩

theorem moving_of_cases {a : AxisState} (h : a = .cruise ∨ a = .rampUp ∨ a = .braking ∨ a = .rampDown) :
    a.moving = true := by
  rcases h with rfl | rfl | rfl | rfl <;> rfl

/-- What a pulse leaves of the axis besides the speed. -/
structure PulseMade (s t : State) : Prop where
  command : t.command = stepTo s.axis.dir s.command
  measured : t.measured = t.command
  dir : t.axis.dir = s.axis.dir
  mode : t.axis.pulseMode = s.axis.pulseMode
  pin : t.axis.pulseOut = some (if s.axis.pulseMode = .cwCcw ∧ s.axis.dir = .minus then .dirCcw else .stepCw)
  same : { t with
    axis := s.axis, command := s.command, measured := s.measured, queue := s.queue
    notices := s.notices, lost := s.lost } = s

theorem pulseMade_pulsed {a : Axis} {s : State} (dir : a.dir = s.axis.dir) (mode : a.pulseMode = s.axis.pulseMode)
    (e : Entry) : PulseMade s (({ s with axis := a } : State).pulsed e) :=
  ⟨congrArg (stepTo · s.command) dir, rfl, dir, mode, (congrArg some (pulsePin_eq _ _)).trans (by rw [dir, mode]), rfl⟩

theorem pulseMade_retired {e : Entry} {o : Retirement} {s t : State} (made : PulseMade s t) : PulseMade s
    (notify (.segmentRetired e.segment.tag .localPort o t.command) t.over) := by
  rw [notify_eq]
  exact ⟨made.command, made.measured, made.dir, made.mode, made.pin, (show _ = _ from congrArg (fun v : State => { v with
    axis := s.axis, command := s.command, measured := s.measured, queue := s.queue
    notices := s.notices, lost := s.lost }) made.same)⟩

/-- The notice, the queue and the axis of a pulse that ends the segment. -/
theorem retired_facts {e : Entry} {o : Retirement} {v : State} :
    let t := notify (.segmentRetired e.segment.tag .localPort o v.command) v.over
    t.axis.state = .idle ∧ t.axis.speed = 0 ∧ t.queue = [] ∧
      (v.notices.length < 16 → t.notices = v.notices ++ [.segmentRetired e.segment.tag .localPort o t.command]) := by
  intro t
  have eq : t = { v.over with notices := t.notices, lost := t.lost } := notify_eq _ _
  have command : t.command = v.command := by rw [eq]; rfl
  refine ⟨?_, ?_, ?_, fun room => ?_⟩
  · rw [eq]; rfl
  · rw [eq]; rfl
  · rw [eq]; rfl
  · rw [command]
    exact notify_notices_of_room (s := v.over) room

section
variable {s : State} {e : Entry} {r : Ramp}

theorem exec_stepPulse_of_endless (head : s.runningHead = some e) (endless : e.segment.body.isMove = false)
    (moving : s.axis.state.moving = true) (off : s.config.encoder = .off) (soft : s.config.softEnabled = false)
    (plus : s.axis.dir = .plus → s.command.toInt < 2147483647) (minus : s.axis.dir = .minus → -2147483648 < s.command.toInt)
    (unarmed : NoWatchArmed s) : exec .stepPulse s = .next (settle (endMotion (s.replanned.pulsed e))) :=
  exec_stepPulse_of_made head moving (planned_of_endless endless) (stepRefused_of_room soft plus minus) off unarmed

end

theorem head_pulsed {e : Entry} {s : State} (head : s.runningHead = some e) : (s.replanned.pulsed e).runningHead = some e := head

theorem blend_replanned_of_only {e : Entry} {s : State} (only : s.queue = [e]) (plain : s.axis.blend = none) :
    s.replanned.axis.blend = none := by
  show (if s.axis.committed = true then s.axis.blend else planOf s) = none
  rw [plain, planOf_of_only only, ite_self]

/-- R26, R40: a pulse while braking. -/
theorem settle_pulsed_braking {e : Entry} {s : State} (atRest : AtRest s) (head : s.runningHead = some e)
    (only : s.queue = [e]) (origin : e.origin = .localPort)
    (mark : e.segment.endMark = none) (braking : s.axis.state = .braking) :
    let down := s.axis.speed - s.axis.brakeRate * 65536 * 65536 / s.axis.speed
    (s.replanned.pulsed e).axis.state = .braking ∧ (s.replanned.pulsed e).axis.speed = down ∧
    settle (endMotion (s.replanned.pulsed e)) = if (e.segment.body.isMove = true ∧
        (s.replanned.pulsed e).axis.remaining = 0) ∨ down ≤ s.config.baseSpeed.toNat * 65536 then
      notify (.segmentRetired e.segment.tag .localPort (brakeOutcome s.axis.braking e) (s.replanned.pulsed e).command)
        (s.replanned.pulsed e).over
      else s.replanned.pulsed e := by
  intro down
  have after : speedAfter e s.replanned = (.braking, down) := speedAfter_braking braking
  have state : (s.replanned.pulsed e).axis.state = .braking := congrArg Prod.fst after
  have speed : (s.replanned.pulsed e).axis.speed = down := congrArg Prod.snd after
  clear_value down
  have config : (s.replanned.pulsed e).config = s.config := rfl
  have axis : (s.replanned.pulsed e).axis.braking = s.axis.braking := rfl
  refine ⟨state, speed, ?_⟩
  rw [endMotion_braking (head_pulsed head) state, speed, config, axis]
  split
  · exact settle_retireHead_of_unmarked (s := s.replanned.pulsed e) atRest only origin mark _
  · exact settle_of_atRest atRest

/-- R26, R33: a pulse of the ramp down after a find. -/
theorem settle_pulsed_found {e : Entry} {r : Ramp} {s : State} (atRest : AtRest s) (head : s.runningHead = some e)
    (ramp : e.segment.body.ramp = some r) (endless : e.segment.body.isMove = false) (only : s.queue = [e])
    (origin : e.origin = .localPort) (mark : e.segment.endMark = none) (slows : s.axis.state = .rampDown)
    (found : s.axis.found = true) (plain : s.axis.blend = none) :
    let base := s.config.baseSpeed.toNat * 65536
    let down := s.axis.speed - 1000 * (if r.decel = 0 then r.accel else r.decel) * 65536 * 65536 / s.axis.speed
    (s.replanned.pulsed e).axis.state = .rampDown ∧ (base < down → (s.replanned.pulsed e).axis.speed = down) ∧
    settle (endMotion (s.replanned.pulsed e)) = if down ≤ base then
      notify (.segmentRetired e.segment.tag .localPort .completed (s.replanned.pulsed e).command)
        (s.replanned.pulsed e).over
      else s.replanned.pulsed e := by
  intro base down
  have floor : s.replanned.floorUnits = base := floorUnits_of_plain (blend_replanned_of_only only plain)
  have after : speedAfter e s.replanned =
      (.rampDown, if s.axis.speed ≤ s.replanned.floorUnits then s.axis.speed else max s.replanned.floorUnits down) :=
    speedAfter_rampDown slows ramp
  rw [floor] at after
  have state : (s.replanned.pulsed e).axis.state = .rampDown := congrArg Prod.fst after
  have speed : (s.replanned.pulsed e).axis.speed = if s.axis.speed ≤ base then s.axis.speed else max base down :=
    congrArg Prod.snd after
  have below : down ≤ s.axis.speed := Nat.sub_le _ _
  have reached : (s.replanned.pulsed e).axis.speed ≤ base ↔ down ≤ base := by
    rw [speed]
    split <;> omega
  refine ⟨state, fun fast => ?_, ?_⟩
  · rw [speed, if_neg (by omega)]
    exact Nat.max_eq_right (Nat.le_of_lt fast)
  · rw [endMotion_down (head_pulsed head) state, endless, show (s.replanned.pulsed e).axis.found = true from found]
    simp only [Bool.false_eq_true, false_and, if_false, if_true]
    show settle (if (s.replanned.pulsed e).axis.speed ≤ base then _ else _) = _
    by_cases ends : down ≤ base
    · rw [if_pos (reached.mpr ends), if_pos ends]
      exact settle_retireHead_of_unmarked (s := s.replanned.pulsed e) atRest only origin mark _
    · rw [if_neg fun h => ends (reached.mp h), if_neg ends]
      exact settle_of_atRest atRest

/-! ### The hit of a watch on the command position (R40, R71, R73) -/

/-- What a hit, with its cut where it cuts, makes of the head in CRUISE that it meets. -/
structure HitOnWay (e : Entry) (w : Fin 4) (u t : State) : Prop where
  queue : t.queue = u.queue
  speed : t.axis.speed = u.axis.speed
  dir : t.axis.dir = u.axis.dir
  timer : t.axis.pulseTimer = u.axis.pulseTimer
  state : t.axis.state = .cruise ∨ t.axis.state = .braking
  goesOn : (u.watch w).cutOnHit = false → t.axis.state = .cruise
  brakes : (u.watch w).cutOnHit = true → u.axis.found = false →
    t.axis.state = .braking ∧ t.axis.braking = .cut ∧ t.axis.brakeRate = e.decelRate
  watches : t.watches = u.watches.set w.val (u.hitRecord w u.command)
  notices : u.notices.length < 16 → t.notices = u.notices ++ [.watchHit w (some e.segment.tag)]
  same : { t with
    axis := u.axis, watches := u.watches, notices := u.notices, lost := u.lost } = u

theorem hitEffects_on_way {e : Entry} {w : Fin 4} {u : State} (head : u.runningHead = some e) (only : u.queue = [e])
    (chain : e.segment.chain = false) (cruise : u.axis.state = .cruise)
    (fast : u.config.baseSpeed.toNat * 65536 < u.axis.speed) (mark : (u.watch w).mark = none) :
    ∃ t, hitEffects w { u.watch w with previous := u.command } u = t ∧ HitOnWay e w u t := by
  have effects := hitEffects_eq w u.command u
  have tag : u.headTag = some e.segment.tag := by rw [State.headTag, only]; rfl
  have told : u.hitting w (u.hitRecord w u.command) = { u with
      watches := u.watches.set w.val (u.hitRecord w u.command)
      notices := (u.hitting w (u.hitRecord w u.command)).notices
      lost := (u.hitting w (u.hitRecord w u.command)).lost } := notify_eq _ _
  have notices (room : u.notices.length < 16) : (u.hitting w (u.hitRecord w u.command)).notices =
      u.notices ++ [.watchHit w (some e.segment.tag)] := by
    rw [← tag]
    exact notify_notices_of_room (s := { u with watches := u.watches.set w.val (u.hitRecord w u.command) }) room
  obtain ⟨hit, hh⟩ : ∃ hit, u.hitting w (u.hitRecord w u.command) = hit := ⟨_, rfl⟩
  rw [hh] at effects told notices
  rw [mark] at effects
  have queue : hit.queue = u.queue := by rw [told]
  have axis : hit.axis = u.axis := by rw [told]
  have config : hit.config = u.config := by rw [told]
  have onWay (plain : (u.watch w).cutOnHit = false ∨ u.axis.found = true) : HitOnWay e w u hit := by
    refine ⟨queue, by rw [axis], by rw [axis], by rw [axis], .inl (by rw [axis, cruise]), fun _ => by rw [axis, cruise],
      fun cuts unfound => ?_, by rw [told], notices, by rw [told]⟩
    rcases plain with h | h
    · rw [cuts] at h; cases h
    · rw [unfound] at h; cases h
  have running : hit.runningHead = some e := (runningHead_of_queue queue).trans head
  have motion : hit.axis.state = .rampUp ∨ hit.axis.state = .cruise ∨ hit.axis.state = .rampDown :=
    .inr (.inl (by rw [axis, cruise]))
  cases cuts : (u.watch w).cutOnHit with
  | false =>
    rw [cuts] at effects
    exact ⟨hit, effects, onWay (.inl cuts)⟩
  | true =>
    rw [cuts] at effects
    cases found : u.axis.found with
    | true =>
      have stays : takeCut hit = hit := (takeCut_of_motion running motion).trans (if_pos (by rw [axis, found]))
      exact ⟨hit, effects.trans stays, onWay (.inr found)⟩
    | false =>
      have cut := (takeCut_of_plain running motion (.inl chain) (by rw [axis, found])).trans
        (cutBrake_above (by rw [axis, config]; exact fast))
      have kept : hit.queue.take 1 ++ (hit.queue.drop 1).map Entry.uncommit = hit.queue := by
        rw [queue, only]
        rfl
      rw [kept, axis] at cut
      refine ⟨_, effects.trans cut, queue, rfl, rfl, rfl, .inr rfl, fun h => ?_, fun _ _ => ⟨rfl, rfl, rfl⟩, by rw [told], notices, by rw [told]⟩
      rw [cuts] at h
      cases h

/-- A pulse in CRUISE whose position one watch alone hits on, taken to its end. -/
theorem exec_stepPulse_of_hit {e : Entry} {w : Fin 4} {s : State} (atRest : AtRest s) (head : s.runningHead = some e)
    (endless : e.segment.body.isMove = false) (chain : e.segment.chain = false) (off : s.config.encoder = .off)
    (made : stepRefused s.axis.dir s.replanned = false) (only : s.queue = [e]) (fit : s.watches.length = 4)
    (cruise : s.axis.state = .cruise) (fast : s.config.baseSpeed.toNat * 65536 < s.axis.speed)
    (armed : (s.watch w).state = .armed) (source : (s.watch w).source = .command) (mark : (s.watch w).mark = none)
    (hits : (s.watch w).condition.hits (s.watch w).value (stepTo s.axis.dir s.command) (s.watch w).previous = true)
    (alone : ∀ k, k ≠ w → (s.watch k).state ≠ .armed) :
    ∃ t, exec .stepPulse s = .next t ∧ HitOnWay e w (s.replanned.pulsed e) t := by
  have after : speedAfter e s.replanned = (.cruise, s.axis.speed) := speedAfter_cruise cruise
  have state : (s.replanned.pulsed e).axis.state = .cruise := congrArg Prod.fst after
  have speed : (s.replanned.pulsed e).axis.speed = s.axis.speed := congrArg Prod.snd after
  have pulse := pulse_of_made (watch := watchNow) head (moving_of_cases (.inl cruise)) (planned_of_endless endless) made off
  have command : (s.replanned.pulsed e).command = stepTo s.axis.dir s.command := rfl
  have watches : (s.replanned.pulsed e).watches = s.watches := rfl
  have queue : (s.replanned.pulsed e).queue = s.queue := rfl
  have config : (s.replanned.pulsed e).config = s.config := rfl
  have handed : (s.replanned.pulsed e).handed = s.handed := rfl
  obtain ⟨u, hu⟩ : ∃ u, u = s.replanned.pulsed e := ⟨_, rfl⟩
  rw [← hu] at state speed pulse command watches queue config handed ⊢
  have same (k : Fin 4) : u.watch k = s.watch k := by rw [State.watch, watches, State.watch]
  obtain ⟨t, effects, way⟩ := hitEffects_on_way (w := w) ((runningHead_of_queue queue).trans head) (queue.trans only) chain state
    (by rw [config, speed]; exact fast) (by rw [same]; exact mark)
  have rest : AtRest t := ((congrArg State.handed way.same :).trans handed).trans atRest
  have running : t.runningHead = some e := (runningHead_of_queue (way.queue.trans queue)).trans head
  have first : compareWatches .command u.command u = t := by
    refine compareWatches_of_hit (w := w) (by rw [same]; exact armed) (by rw [same]; exact source)
      (by rw [same, command]; exact hits) (fun k other => .inl (by rw [same]; exact alone k other)) effects rest
      (headStays_of_running (by rw [running]; rfl)) way.watches
  have second : compareWatches .measured u.command t = t := by
    refine compareWatches_of_deaf (fun k => ?_) _
    by_cases this : k = w
    · refine .inl ?_
      rw [this, State.watch, way.watches, watch_set (by rw [watches]; exact fit)]
      exact WatchState.noConfusion
    · exact deaf_of_set way.watches this (.inl (by rw [same]; exact alone k this))
  have taken : watchNow [(.command, u.command), (.measured, u.command)] u = t := by
    rw [watchNow, List.foldl_cons, List.foldl_cons, List.foldl_nil, first, second]
  have conf : t.config = s.config := (congrArg State.config way.same :).trans config
  have goesOn : endMotion t = t := by
    rcases way.state with cruising | braking
    · rw [endMotion_up running (.inr cruising), endless]
      simp
    · rw [endMotion_braking running braking, endless, conf, way.speed, speed]
      exact if_neg (by simpa using fast)
  refine ⟨t, ?_, way⟩
  rw [exec_stepPulse, pulse, taken, checkGap_of_off (by rw [conf]; exact off), goesOn, settle_of_atRest rest]

/-- Settles O34. -/
theorem stepPulseMovesTheAxis : Obligations.StepPulseMovesTheAxis := by
  intro s e r d i zero k atRest head body chain origin mark off soft only plus minus motion v base up down outcome p
  obtain ⟨ramp, endless⟩ := body_of_endless body
  have made : stepRefused s.axis.dir s.replanned = false := stepRefused_of_room soft plus minus
  have position : stepTo s.axis.dir s.command = p := by
    show stepTo s.axis.dir s.command = (match s.axis.dir with | .plus => s.command + 1 | .minus => s.command - 1)
    cases s.axis.dir <;> rfl
  refine ⟨fun w fit cruise fast armed source unmarked hits alone => ?_, fun unarmed => ?_⟩
  · obtain ⟨t, taken, way⟩ := exec_stepPulse_of_hit atRest head endless chain off made only fit.2.1 cruise fast armed source
      unmarked (by rw [position]; exact hits) alone
    have after : speedAfter e s.replanned = (.cruise, v) := speedAfter_cruise cruise
    have speed : (s.replanned.pulsed e).axis.speed = v := congrArg Prod.snd after
    have timer : (s.replanned.pulsed e).axis.pulseTimer = interval v := congrArg (fun x : AxisState × Nat => interval x.2) after
    refine ⟨t, taken, (congrArg State.command way.same :).trans position, (congrArg State.measured way.same :).trans position,
      way.queue, ?_, way.notices, way.speed.trans speed, way.dir, way.timer.trans timer, way.goesOn, way.brakes, ?_⟩
    · rw [way.watches, ← position]
      rfl
    · exact (show _ = _ from congrArg (fun v : State => { v with
        axis := s.axis, command := s.command, measured := s.measured, watches := s.watches
        notices := s.notices, lost := s.lost }) way.same)
  · have moving : s.axis.state.moving = true := by
      rcases motion with h | h | ⟨h, -⟩ | ⟨h, -⟩ <;> rw [h] <;> rfl
    have pulse := exec_stepPulse_of_endless head endless moving off soft plus minus unarmed
    have pulsed : PulseMade s (s.replanned.pulsed e) := pulseMade_pulsed (s := s) (a := s.replanned.axis) rfl rfl e
    have goesOn (up : (s.replanned.pulsed e).axis.state = .rampUp ∨ (s.replanned.pulsed e).axis.state = .cruise) :
        exec .stepPulse s = .next (s.replanned.pulsed e) := by
      rw [pulse, endMotion_up (head_pulsed head) up, endless]
      exact congrArg _ (settle_of_atRest (by exact atRest))
    rcases motion with cruise | rampUp | slowing
    · have after : speedAfter e s.replanned = (.cruise, v) := speedAfter_cruise cruise
      refine ⟨_, goesOn (.inr (congrArg Prod.fst after)), pulsed.command.trans position, pulsed.measured, pulsed.dir,
        pulsed.mode, pulsed.pin, fun _ => ⟨congrArg Prod.fst after, congrArg Prod.snd after, rfl⟩, fun h => ?_, fun h => ?_,
        fun _ => rfl, pulsed.same⟩
      · exact absurd (cruise.symm.trans h) (by decide)
      · rcases h with h | h <;> exact absurd (cruise.symm.trans h) (by decide)
    · have after : speedAfter e s.replanned = if r.top * 65536 ≤ up then (.cruise, r.top * 65536) else (.rampUp, up) :=
        speedAfter_rampUp rampUp ramp
      have goes : exec .stepPulse s = .next (s.replanned.pulsed e) := by
        refine goesOn ?_
        show (speedAfter e s.replanned).1 = _ ∨ (speedAfter e s.replanned).1 = _
        rw [after]
        split
        · exact .inr rfl
        · exact .inl rfl
      refine ⟨_, goes, pulsed.command.trans position, pulsed.measured, pulsed.dir, pulsed.mode, pulsed.pin, fun h => ?_,
        fun _ => ⟨rfl, fun reached => ?_, fun below => ?_⟩, fun h => ?_, fun _ => rfl, pulsed.same⟩
      · exact absurd (rampUp.symm.trans h) (by decide)
      · rw [if_pos reached] at after
        exact ⟨congrArg Prod.fst after, congrArg Prod.snd after⟩
      · rw [if_neg (Nat.not_le_of_lt below)] at after
        exact ⟨congrArg Prod.fst after, congrArg Prod.snd after⟩
      · rcases h with h | h <;> exact absurd (rampUp.symm.trans h) (by decide)
    · obtain ⟨state, speed, settled⟩ : (s.replanned.pulsed e).axis.state = s.axis.state ∧
          (base < down → (s.replanned.pulsed e).axis.speed = down) ∧
          settle (endMotion (s.replanned.pulsed e)) = if down ≤ base then
            notify (.segmentRetired e.segment.tag .localPort outcome (s.replanned.pulsed e).command)
              (s.replanned.pulsed e).over
          else s.replanned.pulsed e := by
        rcases slowing with ⟨braking, real⟩ | ⟨slows, found, plain, notRun⟩
        · have rate : down = s.axis.speed - s.axis.brakeRate * 65536 * 65536 / s.axis.speed := by
            show s.axis.speed - (if s.axis.state = .braking then _ else _) * 65536 * 65536 / s.axis.speed = _
            rw [if_pos braking]
          have ends : outcome = brakeOutcome s.axis.braking e := by
            rw [brakeOutcome_eq real]
            exact if_neg (by rw [braking]; decide)
          obtain ⟨state, speed, settled⟩ := settle_pulsed_braking atRest head only origin mark braking
          simp only [endless, Bool.false_eq_true, false_and, false_or] at settled
          rw [rate, ends, braking]
          exact ⟨state, fun _ => speed, settled⟩
        · have rate : down = s.axis.speed -
              1000 * (if r.decel = 0 then r.accel else r.decel) * 65536 * 65536 / s.axis.speed := by
            show s.axis.speed - (if s.axis.state = .braking then _ else _) * 65536 * 65536 / s.axis.speed = _
            rw [if_neg (by rw [slows]; decide)]
          have ends : outcome = .completed := if_pos slows
          rw [rate, ends, slows]
          exact settle_pulsed_found atRest head ramp endless only origin mark slows found plain
      have neither : s.axis.state ≠ .cruise ∧ s.axis.state ≠ .rampUp := by
        rcases slowing with ⟨h, -⟩ | ⟨h, -⟩ <;> rw [h] <;> decide
      rw [settled] at pulse
      by_cases ends : down ≤ base
      · rw [if_pos ends] at pulse
        have made := pulseMade_retired (e := e) (o := outcome) pulsed
        obtain ⟨idle, still, empty, told⟩ := retired_facts (e := e) (o := outcome) (v := s.replanned.pulsed e)
        exact ⟨_, pulse, made.command.trans position, made.measured, made.dir, made.mode, made.pin,
          fun h => absurd h neither.1, fun h => absurd h neither.2,
          fun _ => ⟨fun h => absurd ends (Nat.not_le_of_lt h), fun _ => ⟨idle, still, empty, told⟩⟩,
          fun h => absurd empty h, made.same⟩
      · rw [if_neg ends] at pulse
        exact ⟨_, pulse, pulsed.command.trans position, pulsed.measured, pulsed.dir, pulsed.mode, pulsed.pin,
          fun h => absurd h neither.1, fun h => absurd h neither.2,
          fun _ => ⟨fun h => ⟨state, rfl, speed h, rfl, rfl⟩, fun h => absurd h ends⟩, fun _ => rfl, pulsed.same⟩

end Sys2Proof.Machine

/-! PROOFS. STEP_PULSE of a MOVE_REL or MOVE_ABS: its deceleration point, its last pulse and the junction (R14, R28, R29,
R36, R37). -/

namespace Sys2Proof.Machine

/-! ### The deceleration point (R29) -/

theorem le_ceilDiv_iff {n x d : Nat} (some_left : 1 ≤ n) (pos : 0 < d) : n ≤ (x + (d - 1)) / d ↔ (n - 1) * d < x := by
  obtain ⟨m, rfl⟩ : ∃ m, n = m + 1 := ⟨n - 1, by omega⟩
  rw [Nat.le_div_iff_mul_le pos, Nat.add_mul, Nat.add_sub_cancel]
  omega

/-- R29: the deceleration point, without the rounding. -/
theorem atDecelerationPoint_iff {e : Entry} {r : Ramp} {s : State} (ramp : e.segment.body.ramp = some r)
    (isMove : e.segment.body.isMove = true) (some_left : 1 ≤ s.axis.remaining)
    (pos : 0 < 1000 * (if r.decel = 0 then r.accel else r.decel)) : atDecelerationPoint e s = true ↔
      (s.axis.state = .rampUp ∨ s.axis.state = .cruise) ∧ s.floorUnits < s.axis.speed ∧
        (s.axis.remaining - 1) * (2 * (1000 * (if r.decel = 0 then r.accel else r.decel)) * (65536 * 65536)) <
          s.axis.speed * s.axis.speed - s.floorUnits * s.floorUnits := by
  rw [atDecelerationPoint, isMove, decelRate_eq ramp, rampPulses]
  simp only [Bool.true_and, Bool.and_eq_true, Bool.or_eq_true, beq_iff_eq, decide_eq_true_eq, and_assoc]
  rw [le_ceilDiv_iff some_left (by omega)]

theorem decelerationPoint_of_at {e : Entry} {s : State} (at_point : atDecelerationPoint e s = true) :
    decelerationPoint e s = { commitPlan s with axis := { (commitPlan s).axis with state := .rampDown } } := if_pos at_point

/-- The state with its plan Committed, no gate consumed for it. -/
def State.planCommitted (s : State) : State := { s with axis := { s.axis with committed := true } }

theorem commitPlan_of_plain {s : State} (plain : s.axis.blend = none) : commitPlan s = s.planCommitted := by
  unfold commitPlan State.planCommitted
  by_cases committed : s.axis.committed = true
  · rw [if_pos committed, ← committed]
  · rw [if_neg committed, plain]

theorem commitPlan_of_committed {s : State} (committed : s.axis.committed = true) : commitPlan s = s := if_pos committed

theorem replan_of_committed {s : State} (committed : s.axis.committed = true) : replan s = s := if_pos committed

/-- R28, R36: the last pulse of a move without a successor to blend into. -/
theorem settle_endMove_of_only {e : Entry} {s : State} (atRest : AtRest s) (only : s.queue = [e])
    (origin : e.origin = .localPort) (mark : e.segment.endMark = none) (plain : s.axis.blend = none) :
    ∃ a : Axis, a.dir = s.axis.dir ∧ a.pulseMode = s.axis.pulseMode ∧ a.pulseOut = s.axis.pulseOut ∧ settle (endMove s) =
      notify (.segmentRetired e.segment.tag .localPort .completed s.command) ({ s with axis := a } : State).over := by
  have planned : commitPlan (replan s) = s.replanned.planCommitted := by
    rw [replan_eq]
    exact commitPlan_of_plain (blend_replanned_of_only only plain)
  have ends : endMove s = retireHead .completed s.replanned.planCommitted := by
    show (if (commitPlan (replan s)).blendCommitted = true then junction (commitPlan (replan s))
      else retireHead .completed (commitPlan (replan s))) = _
    rw [planned, if_neg]
    rw [State.blendCommitted]
    show ¬ (true && (s.replanned.axis.blend).isSome) = true
    rw [blend_replanned_of_only only plain]
    decide
  rw [ends]
  exact ⟨s.replanned.planCommitted.axis, rfl, rfl, rfl,
    settle_retireHead_of_unmarked (s := s.replanned.planCommitted) atRest only origin mark .completed⟩

/-! ### A move alone in the queue -/

/-- Whether a move without a blend has reached its ramp down. -/
def State.ramps (r : Ramp) (s : State) : Prop :=
  s.axis.state = .rampDown ∨ (s.config.baseSpeed.toNat * 65536 < s.axis.speed ∧
    (s.axis.remaining - 1) * (2 * (1000 * (if r.decel = 0 then r.accel else r.decel)) * (65536 * 65536)) <
      s.axis.speed * s.axis.speed - s.config.baseSpeed.toNat * 65536 * (s.config.baseSpeed.toNat * 65536))

/-- The axis once the plan of a move without a blend is judged before its pulse. -/
structure Planned (e : Entry) (r : Ramp) (s : State) (a : Axis) : Prop where
  planned : decelerationPoint e (replan s) = { s with axis := a }
  blend : a.blend = none
  dir : a.dir = s.axis.dir
  mode : a.pulseMode = s.axis.pulseMode
  found : a.found = s.axis.found
  remaining : a.remaining = s.axis.remaining
  speed : a.speed = s.axis.speed
  slows : s.ramps r → a.state = .rampDown
  goesOn : ¬ s.ramps r → a.state = s.axis.state

section
variable {s : State} {e : Entry} {r : Ramp}

theorem exists_planned (ramp : e.segment.body.ramp = some r) (isMove : e.segment.body.isMove = true)
    (motion : s.axis.state = .rampUp ∨ s.axis.state = .cruise ∨ s.axis.state = .rampDown) (some_left : 1 ≤ s.axis.remaining)
    (pos : 0 < 1000 * (if r.decel = 0 then r.accel else r.decel)) (only : s.queue = [e]) (plain : s.axis.blend = none) :
    ∃ a, Planned e r s a := by
  have blend := blend_replanned_of_only only plain
  have iff := atDecelerationPoint_iff (s := s.replanned) ramp isMove some_left pos
  rw [floorUnits_of_plain blend] at iff
  cases point : atDecelerationPoint e s.replanned with
  | true =>
    obtain ⟨up, fast, near⟩ := iff.mp point
    refine ⟨{ s.replanned.axis with committed := true, state := .rampDown }, ?_, blend, rfl, rfl, rfl, rfl, rfl, fun _ => rfl,
      fun not => absurd (.inr ⟨fast, near⟩) not⟩
    rw [replan_eq, decelerationPoint_of_at point, commitPlan_of_plain blend]
    rfl
  | false =>
    refine ⟨s.replanned.axis, ?_, blend, rfl, rfl, rfl, rfl, rfl, fun slows => ?_, fun _ => rfl⟩
    · rw [replan_eq, decelerationPoint_of_not point]
      rfl
    · rcases slows with down | ⟨fast, near⟩
      · exact down
      · rcases motion with up | up | down
        · exact absurd (iff.mpr ⟨.inl up, fast, near⟩) (by rw [point]; decide)
        · exact absurd (iff.mpr ⟨.inr up, fast, near⟩) (by rw [point]; decide)
        · exact down

/-- R28: what follows the pulse of a move. -/
theorem endMotion_of_move (head : s.runningHead = some e) (isMove : e.segment.body.isMove = true)
    (notRun : e.segment.body.isRun = false) (found : s.axis.found = false)
    (motion : s.axis.state = .rampUp ∨ s.axis.state = .cruise ∨ s.axis.state = .rampDown) :
    endMotion s = if s.axis.remaining = 0 then endMove s else s := by
  rcases motion with up | up | down
  · rw [endMotion_up head (.inl up), isMove]
    simp only [true_and]
  · rw [endMotion_up head (.inr up), isMove]
    simp only [true_and]
  · rw [endMotion_down head down, isMove, notRun, found]
    simp

theorem speedAfter_motion {e : Entry} {r : Ramp} {s : State} (ramp : e.segment.body.ramp = some r)
    (motion : s.axis.state = .rampUp ∨ s.axis.state = .cruise ∨ s.axis.state = .rampDown) :
    (speedAfter e s).1 = .rampUp ∨ (speedAfter e s).1 = .cruise ∨ (speedAfter e s).1 = .rampDown := by
  rcases motion with up | cruise | down
  · rw [speedAfter_rampUp up ramp]
    split
    · exact .inr (.inl rfl)
    · exact .inl rfl
  · rw [speedAfter_cruise cruise]
    exact .inr (.inl rfl)
  · rw [speedAfter_rampDown down ramp]
    exact .inr (.inr rfl)

/-- A pulse of a move, its plan judged. -/
theorem exec_stepPulse_of_planned {a : Axis} (head : s.runningHead = some e) (ramp : e.segment.body.ramp = some r)
    (isMove : e.segment.body.isMove = true) (notRun : e.segment.body.isRun = false)
    (planned : decelerationPoint e (replan s) = { s with axis := a }) (made : stepRefused a.dir { s with axis := a } = false)
    (moving : s.axis.state.moving = true) (motion : a.state = .rampUp ∨ a.state = .cruise ∨ a.state = .rampDown)
    (found : a.found = false) (off : s.config.encoder = .off) (unarmed : NoWatchArmed s) :
    exec .stepPulse s = .next (settle (if a.remaining - 1 = 0 then endMove (({ s with axis := a } : State).pulsed e)
      else ({ s with axis := a } : State).pulsed e)) := by
  have after := speedAfter_motion (s := { s with axis := a }) ramp motion
  have left : (({ s with axis := a } : State).pulsed e).axis.remaining = a.remaining - 1 := if_pos isMove
  rw [exec_stepPulse_of_made head moving planned made off unarmed, ← left,
    endMotion_of_move (s := ({ s with axis := a } : State).pulsed e) head isMove notRun found after]

/-- The same with the end of a move that no other one follows. -/
theorem exec_stepPulse_of_only {a : Axis} (atRest : AtRest s) (head : s.runningHead = some e)
    (ramp : e.segment.body.ramp = some r)
    (isMove : e.segment.body.isMove = true) (notRun : e.segment.body.isRun = false) (plan : Planned e r s a)
    (soft : s.config.softEnabled = false) (plus : s.axis.dir = .plus → s.command.toInt < 2147483647)
    (minus : s.axis.dir = .minus → -2147483648 < s.command.toInt)
    (motion : s.axis.state = .rampUp ∨ s.axis.state = .cruise ∨ s.axis.state = .rampDown)
    (found : s.axis.found = false) (off : s.config.encoder = .off) (unarmed : NoWatchArmed s)
    (only : s.queue = [e]) (origin : e.origin = .localPort) (mark : e.segment.endMark = none) :
    ∃ b : Axis, b.dir = a.dir ∧ b.pulseMode = a.pulseMode ∧ b.pulseOut = some (pulsePin a.pulseMode a.dir) ∧
      exec .stepPulse s = .next (if s.axis.remaining - 1 = 0 then
        notify (.segmentRetired e.segment.tag .localPort .completed (stepTo a.dir s.command))
          ({ ({ s with axis := a } : State).pulsed e with axis := b } : State).over
        else ({ s with axis := a } : State).pulsed e) := by
  have moving : s.axis.state.moving = true := moving_of_cases (by tauto)
  have kept : a.state = .rampUp ∨ a.state = .cruise ∨ a.state = .rampDown := by
    by_cases slows : s.ramps r
    · exact .inr (.inr (plan.slows slows))
    · rw [plan.goesOn slows]
      exact motion
  have made : stepRefused a.dir { s with axis := a } = false :=
    stepRefused_of_room soft (plan.dir ▸ plus) (plan.dir ▸ minus)
  have pulse := exec_stepPulse_of_planned head ramp isMove notRun plan.planned made moving kept (plan.found.trans found) off unarmed
  obtain ⟨b, dir, mode, pin, ends⟩ := settle_endMove_of_only (s := ({ s with axis := a } : State).pulsed e) atRest only origin mark
    plan.blend
  refine ⟨b, dir, mode, pin, pulse.trans ?_⟩
  rw [plan.remaining]
  by_cases last : s.axis.remaining - 1 = 0
  · rw [if_pos last, if_pos last, ends]
    rfl
  · rw [if_neg last, if_neg last]
    exact congrArg _ (settle_of_atRest atRest)

end

/-! ### A move with an ungated move behind it (R36, R37) -/

/-- The queue once the move behind is Committed. -/
def Entry.committed (n : Entry) : Entry := { n with state := .committed, consumed := false }

/-- The state once the plan of a blend is Committed and the ramp down begins. -/
def State.blending (e n : Entry) (blend : Nat) (s : State) : State :=
  { s with
    queue := [e, n.committed]
    axis := { s.axis with blend := some blend, committed := true, state := .rampDown } }

section
variable {s : State} {e n : Entry} {r q : Ramp} {y : Position}

theorem dirAt_moveRel (along : s.axis.dir = .minus ↔ y.msb = true) (p : Position) :
    (SegmentBody.moveRel y q).dirAt p = some s.axis.dir := by
  rw [SegmentBody.dirAt]
  cases sign : y.msb
  · cases dir : s.axis.dir
    · rfl
    · rw [along.mp dir] at sign
      cases sign
  · rw [along.mpr sign]
    rfl

/-- R36: the blend speed of two moves in one direction. -/
theorem planOf_of_next (queue : s.queue = [e, n]) (ramp : e.segment.body.ramp = some r)
    (body : n.segment.body = .moveRel y q) (ungated : n.segment.gate = .absent) (along : s.axis.dir = .minus ↔ y.msb = true)
    (chain : e.segment.chain = true) (waits : n.state = .waiting) : planOf s = some (min r.top q.top) := by
  have blends : blendsInto e n s = true := by
    have dir : successorDir e n s = some s.axis.dir := by
      rw [successorDir, body]
      exact dirAt_moveRel (q := q) along _
    rw [blendsInto, dir, chain, waits, body, ungated]
    simp [State.gateOpen, SegmentBody.blendable, SegmentBody.mayChain]
  have next : n.segment.body.ramp = some q := by rw [body]; rfl
  rw [planOf, queue]
  simp only [ramp, next, blends, if_true]

theorem commitPlan_of_next {b : Nat} (queue : s.queue = [e, n]) (ungated : n.segment.gate = .absent)
    (opened : s.axis.committed = false) (blend : s.axis.blend = some b) : commitPlan s =
      { s with queue := [e, n.committed], axis := { s.axis with committed := true } } := by
  have consumes : consumeSecond s = some s := by
    rw [consumeSecond, queue]
    simp only [ungated]
    cases n.consumed <;> rfl
  rw [commitPlan, opened, blend, consumes]
  simp only [Bool.false_eq_true, if_false, commitSecond, queue]
  rfl

/-- R14, R37: the Committed move takes over. -/
theorem junction_of_next {d : Dir} (queue : s.queue = [e, n]) (ramp : n.segment.body.ramp = some q)
    (dir : n.segment.body.dirAt s.command = some d) (along : d = s.axis.dir) (start : n.segment.startMark = none)
    (origin : e.origin = .localPort) (mark : e.segment.endMark = none) : junction s =
      takeOver n q d (notify (.segmentRetired e.segment.tag .localPort .completed s.command)
        { s with queue := [{ n with state := .running, consumed := false }] }) := by
  unfold junction
  rw [queue]
  simp only [ramp, dir, if_pos along, start, requestMark?, retireEffects, origin, mark]

/-- R37: at the deceleration point of a blend the move behind is Committed. -/
theorem decelerationPoint_of_next (queue : s.queue = [e, n]) (ramp : e.segment.body.ramp = some r)
    (isMove : e.segment.body.isMove = true)
    (body : n.segment.body = .moveRel y q) (ungated : n.segment.gate = .absent) (along : s.axis.dir = .minus ↔ y.msb = true)
    (chain : e.segment.chain = true) (waits : n.state = .waiting) (opened : s.axis.committed = false)
    (cruise : s.axis.state = .cruise) (some_left : 1 ≤ s.axis.remaining)
    (pos : 0 < 1000 * (if r.decel = 0 then r.accel else r.decel))
    (fast : max (min r.top q.top * 65536) (s.config.baseSpeed.toNat * 65536) < s.axis.speed)
    (near : (s.axis.remaining - 1) * (2 * (1000 * (if r.decel = 0 then r.accel else r.decel)) * (65536 * 65536)) <
      s.axis.speed * s.axis.speed - max (min r.top q.top * 65536) (s.config.baseSpeed.toNat * 65536) *
        max (min r.top q.top * 65536) (s.config.baseSpeed.toNat * 65536)) :
    decelerationPoint e (replan s) = s.blending e n (min r.top q.top) := by
  have blend : s.replanned.axis.blend = some (min r.top q.top) :=
    (if_neg (by rw [opened]; decide)).trans (planOf_of_next queue ramp body ungated along chain waits)
  have floor : s.replanned.floorUnits = max (min r.top q.top * 65536) (s.config.baseSpeed.toNat * 65536) := by
    rw [State.floorUnits, blend]
    rfl
  have point : atDecelerationPoint e s.replanned = true := by
    refine (atDecelerationPoint_iff (s := s.replanned) ramp isMove some_left pos).mpr ⟨.inr cruise, ?_, ?_⟩
    · rw [floor]
      exact fast
    · rw [floor]
      exact near
  rw [replan_eq, decelerationPoint_of_at point, commitPlan_of_next (s := s.replanned) queue ungated opened blend]
  show _ = { s with queue := _, axis := _ }
  rw [← blend]
  rfl

/-- R37: the pulse at the deceleration point of a blend. -/
theorem exec_stepPulse_blending {u : State} (atRest : AtRest s) (head : s.runningHead = some e)
    (running : u.runningHead = some e) (isMove : e.segment.body.isMove = true)
    (notRun : e.segment.body.isRun = false) (ramp : e.segment.body.ramp = some r) (cruise : s.axis.state = .cruise)
    (planned : decelerationPoint e (replan s) = u) (handed : u.handed = s.handed) (config : u.config = s.config)
    (made : stepRefused u.axis.dir u = false) (down : u.axis.state = .rampDown) (found : u.axis.found = false)
    (off : s.config.encoder = .off) (unarmed : NoWatchArmed u) (left : 2 ≤ u.axis.remaining) :
    exec .stepPulse s = .next (u.pulsed e) := by
  have after := speedAfter_motion (s := u) ramp (.inr (.inr down))
  have remaining : (u.pulsed e).axis.remaining = u.axis.remaining - 1 := if_pos isMove
  rw [exec_stepPulse_of_made head (moving_of_cases (.inl cruise)) planned made (by rw [config]; exact off) unarmed,
    endMotion_of_move (s := u.pulsed e) running isMove notRun found after, remaining, if_neg (by omega)]
  exact congrArg _ (settle_of_atRest (handed.trans atRest))

/-- R37: the last pulse before the junction of a blend. -/
theorem exec_stepPulse_junction {b : Nat} (atRest : AtRest s) (head : s.runningHead = some e) (queue : s.queue = [e, n])
    (isMove : e.segment.body.isMove = true) (notRun : e.segment.body.isRun = false) (ramp : e.segment.body.ramp = some r)
    (origin : e.origin = .localPort) (mark : e.segment.endMark = none)
    (body : n.segment.body = .moveRel y q) (along : s.axis.dir = .minus ↔ y.msb = true) (start : n.segment.startMark = none)
    (committed : s.axis.committed = true) (blend : s.axis.blend = some b) (down : s.axis.state = .rampDown)
    (one : s.axis.remaining = 1) (made : stepRefused s.axis.dir s = false) (found : s.axis.found = false)
    (off : s.config.encoder = .off) (unarmed : NoWatchArmed s) : exec .stepPulse s = .next (takeOver n q s.axis.dir
      (notify (.segmentRetired e.segment.tag .localPort .completed (s.pulsed e).command)
        { s.pulsed e with queue := [{ n with state := .running, consumed := false }] })) := by
  have after := speedAfter_motion (s := s) ramp (.inr (.inr down))
  have remaining : (s.pulsed e).axis.remaining = 0 := by
    show (if _ then s.axis.remaining - 1 else _) = 0
    rw [if_pos isMove, one]
  have planned : decelerationPoint e (replan s) = s := by
    rw [replan_of_committed committed]
    exact decelerationPoint_of_not (by rw [atDecelerationPoint, down]; simp)
  have ends : endMove (s.pulsed e) = junction (s.pulsed e) := by
    show (if (commitPlan (replan (s.pulsed e))).blendCommitted = true then junction (commitPlan (replan (s.pulsed e)))
      else retireHead .completed (commitPlan (replan (s.pulsed e)))) = _
    rw [replan_of_committed (s := s.pulsed e) committed, commitPlan_of_committed (s := s.pulsed e) committed, if_pos]
    show (s.axis.committed && s.axis.blend.isSome) = true
    rw [committed, blend]
    rfl
  rw [exec_stepPulse_of_made head (moving_of_cases (by tauto)) planned made off unarmed,
    endMotion_of_move (s := s.pulsed e) head isMove notRun found after, if_pos remaining, ends,
    junction_of_next (s := s.pulsed e) (q := q) queue (by rw [body]; rfl) (by rw [body]; exact dirAt_moveRel along _) rfl start
      origin mark]
  have handed (x : Notice) (t : State) : (takeOver n q s.axis.dir (notify x t)).handed = t.handed := by
    rw [notify_eq]
    rfl
  exact congrArg _ (settle_of_atRest ((handed _ _).trans atRest))

end

theorem startSpeed_speed (top base units : Nat) : (startSpeed top base units).2 =
    if top * 65536 ≤ base then top * 65536 else max units base := by
  unfold startSpeed
  split <;> rfl

theorem startSpeed_state_iff (top base units : Nat) : (startSpeed top base units).1 =
    if (startSpeed top base units).2 = top * 65536 then .cruise else .rampUp := by
  unfold startSpeed
  split
  · exact (if_pos rfl).symm
  · rfl

/-- What the successor finds at the junction (R37). -/
structure TookOver (n : Entry) (q : Ramp) (d : Dir) (s t : State) : Prop where
  dir : t.axis.dir = d
  remaining : t.axis.remaining = n.segment.body.pulsesAt s.command
  opened : t.axis.committed = false
  blend : t.axis.blend = none
  speed : t.axis.speed = if q.top * 65536 ≤ s.config.baseSpeed.toNat * 65536 then q.top * 65536 else
    max s.axis.speed (s.config.baseSpeed.toNat * 65536)
  state : t.axis.state = if t.axis.speed = q.top * 65536 then .cruise else .rampUp
  timer : t.axis.pulseTimer = max 1 (interval t.axis.speed - s.axis.sincePulse)
  same : { t with axis := s.axis } = s

theorem tookOver (n : Entry) (q : Ramp) (d : Dir) (s : State) : TookOver n q d s (takeOver n q d s) :=
  ⟨rfl, rfl, rfl, rfl, startSpeed_speed _ _ _, startSpeed_state_iff _ _ _, rfl, rfl⟩

/-- The body of a MOVE_REL or MOVE_ABS. -/
theorem body_of_move {b : SegmentBody} {x : Position} {r : Ramp} (body : b = .moveRel x r ∨ b = .moveAbs x r) :
    b.ramp = some r ∧ b.isMove = true ∧ b.isRun = false := by
  rcases body with rfl | rfl <;> exact ⟨rfl, rfl, rfl⟩

/-- Settles O35: the plan before the pulse, the pulse, and the end of the move or the junction after the last one. -/
theorem movesRampDownAndComplete : Obligations.MovesRampDownAndComplete := by
  intro s e n x y r q atRest unarmed state body origin mark off soft motion found some_left plus minus v base decel up slows pos
  obtain ⟨ramp, isMove, notRun⟩ := body_of_move body
  have made : stepRefused s.axis.dir s = false := stepRefused_of_room soft plus minus
  have moving : s.axis.state.moving = true := moving_of_cases (by tauto)
  have position : stepTo s.axis.dir s.command = (match s.axis.dir with | .plus => s.command + 1 | .minus => s.command - 1) := by
    cases s.axis.dir <;> rfl
  have isHead {rest : List Entry} (queue : s.queue = e :: rest) : s.runningHead = some e :=
    runningHead_eq_some.mpr ⟨rest, queue, state⟩
  refine ⟨fun only braking => ?braking, fun only notBraking plain => ?alone, fun queue behind ungated start along => ?chained⟩
  case braking =>
    intro down
    have head := isHead only
    have planned : decelerationPoint e (replan s) = s.replanned := by
      rw [replan_eq]
      exact decelerationPoint_of_not (by rw [atDecelerationPoint, show s.replanned.axis.state = .braking from braking]; simp)
    have real : s.axis.braking ≠ .none := by
      rcases motion with h | h | h | ⟨-, h⟩
      · rw [braking] at h; cases h
      · rw [braking] at h; cases h
      · rw [braking] at h; cases h
      · exact h
    have pulse := exec_stepPulse_of_made head moving planned made off unarmed
    obtain ⟨after, speed, settled⟩ := settle_pulsed_braking atRest head only origin mark braking
    have left : (s.replanned.pulsed e).axis.remaining = s.axis.remaining - 1 := if_pos isMove
    have timer : (s.replanned.pulsed e).axis.pulseTimer = interval (s.replanned.pulsed e).axis.speed := rfl
    have outcome : brakeOutcome s.axis.braking e = if s.axis.braking = .stop then .stopped else .cut := by
      rw [brakeOutcome_eq real, notRun]
      rfl
    rw [settled, left, outcome] at pulse
    have pulsed : PulseMade s (s.replanned.pulsed e) := pulseMade_pulsed (s := s) (a := s.replanned.axis) rfl rfl e
    by_cases ends : (e.segment.body.isMove = true ∧ s.axis.remaining - 1 = 0) ∨ down ≤ s.config.baseSpeed.toNat * 65536
    · rw [if_pos ends] at pulse
      have made := pulseMade_retired (e := e) (o := if s.axis.braking = .stop then .stopped else .cut) pulsed
      obtain ⟨idle, still, empty, told⟩ :=
        retired_facts (e := e) (o := if s.axis.braking = .stop then .stopped else .cut) (v := s.replanned.pulsed e)
      refine ⟨_, pulse, made.command.trans position, made.measured, made.dir, fun two fast => ?_,
        fun _ => ⟨empty, idle, still, told⟩, made.same⟩
      rcases ends with ⟨-, one⟩ | slow
      · omega
      · exact absurd slow (Nat.not_le_of_lt fast)
    · rw [if_neg ends] at pulse
      refine ⟨_, pulse, pulsed.command.trans position, pulsed.measured, pulsed.dir,
        fun _ _ => ⟨rfl, after, rfl, speed, left, timer.trans (congrArg interval speed), rfl⟩, fun last => ?_, pulsed.same⟩
      refine absurd ?_ ends
      rcases last with one | slow
      · exact .inl ⟨isMove, by rw [one]⟩
      · exact .inr slow
  case alone =>
    have motion : s.axis.state = .rampUp ∨ s.axis.state = .cruise ∨ s.axis.state = .rampDown := by tauto
    obtain ⟨a, plan⟩ := exists_planned ramp isMove motion some_left pos only plain
    obtain ⟨b, dir, mode, pin, pulse⟩ := exec_stepPulse_of_only atRest (isHead only) ramp isMove notRun plan soft plus minus
      motion found off unarmed only origin mark
    have pulsed := pulseMade_pulsed plan.dir plan.mode e
    by_cases last : s.axis.remaining - 1 = 0
    · rw [if_pos last] at pulse
      have ended : PulseMade s ({ ({ s with axis := a } : State).pulsed e with axis := b } : State) :=
        ⟨pulsed.command, rfl, dir.trans plan.dir, mode.trans plan.mode, pin.trans pulsed.pin, rfl⟩
      have made := pulseMade_retired (e := e) (o := .completed) ended
      obtain ⟨idle, still, empty, told⟩ := retired_facts (e := e) (o := .completed)
        (v := { ({ s with axis := a } : State).pulsed e with axis := b })
      exact ⟨_, pulse, made.command.trans position, made.measured, made.dir, fun _ => ⟨empty, idle, still, told⟩,
        fun two => by omega, made.same⟩
    · rw [if_neg last] at pulse
      have left : (({ s with axis := a } : State).pulsed e).axis.remaining = a.remaining - 1 := if_pos isMove
      refine ⟨_, pulse, pulsed.command.trans position, pulsed.measured, pulsed.dir, fun one => absurd (by rw [one]) last,
        fun _ => ⟨rfl, left.trans (by rw [plan.remaining]), rfl, rfl, fun ramps => ?_, fun before cruise => ?_, fun before rampUp => ?_⟩,
        pulsed.same⟩
      · have after := speedAfter_rampDown (s := { s with axis := a }) (plan.slows ramps) ramp
        rw [floorUnits_of_plain (s := { s with axis := a }) plan.blend] at after
        refine ⟨congrArg Prod.fst after, (congrArg Prod.snd after).trans ?_⟩
        show (if a.speed ≤ _ then a.speed else max _ (a.speed - _ / a.speed)) = _
        rw [plan.speed]
      · have after := speedAfter_cruise (e := e) (s := { s with axis := a }) ((plan.goesOn before).trans cruise)
        exact ⟨congrArg Prod.fst after, (congrArg Prod.snd after).trans plan.speed⟩
      · have after := speedAfter_rampUp (s := { s with axis := a }) ((plan.goesOn before).trans rampUp) ramp
        have value : a.speed + 1000 * r.accel * 65536 * 65536 / a.speed = up := by rw [plan.speed]
        refine ⟨fun reached => ?_, fun below => ?_⟩
        · have after := after.trans (if_pos (by rw [value]; exact reached))
          exact ⟨congrArg Prod.fst after, congrArg Prod.snd after⟩
        · have after := after.trans (if_neg (by rw [value]; exact Nat.not_le_of_lt below))
          exact ⟨congrArg Prod.fst after, (congrArg Prod.snd after).trans value⟩
  case chained =>
    intro blend floor
    have head := isHead queue
    refine ⟨fun chain waits opened cruise two fast near => ?_, fun _ committed isBlend down one => ?_⟩
    · have planned := decelerationPoint_of_next queue ramp isMove behind ungated along chain waits opened cruise some_left pos
        fast near
      have pulse := exec_stepPulse_blending atRest head (u := s.blending e n blend) (runningHead_eq_some.mpr ⟨_, rfl, state⟩)
        isMove notRun ramp cruise planned rfl rfl (stepRefused_of_room (s := s.blending e n blend) soft plus minus) rfl found off unarmed two
      have after := speedAfter_rampDown (s := s.blending e n blend) rfl ramp
      have left : ((s.blending e n blend).pulsed e).axis.remaining = s.axis.remaining - 1 := if_pos isMove
      exact ⟨_, pulse, rfl, congrArg Prod.fst after, rfl, rfl,
        (congrArg Prod.snd after).trans (if_neg (Nat.not_le_of_lt fast)), left, rfl⟩
    · intro last
      have pulse := exec_stepPulse_junction atRest head queue isMove notRun ramp origin mark behind along start committed isBlend
        down one made found off unarmed
      have floors : s.floorUnits = floor := by
        rw [State.floorUnits, isBlend]
        rfl
      have after := speedAfter_rampDown down ramp
      rw [floors] at after
      have speed : (s.pulsed e).axis.speed = last := congrArg Prod.snd after
      have since : (s.pulsed e).axis.sincePulse = 0 := Nat.sub_self _
      have pulsed : PulseMade s (s.pulsed e) := pulseMade_pulsed (s := s) (a := s.axis) rfl rfl e
      have told := notify_eq (.segmentRetired e.segment.tag .localPort .completed (s.pulsed e).command)
        { s.pulsed e with queue := [{ n with state := .running, consumed := false }] }
      have notices (room : s.notices.length < 16) := notify_notices_of_room (s := { s.pulsed e with
        queue := [{ n with state := .running, consumed := false }] })
        (n := .segmentRetired e.segment.tag .localPort .completed (s.pulsed e).command) room
      obtain ⟨w, hw⟩ : ∃ w, w = notify (.segmentRetired e.segment.tag .localPort .completed (s.pulsed e).command)
        { s.pulsed e with queue := [{ n with state := .running, consumed := false }] } := ⟨_, rfl⟩
      rw [← hw] at pulse told notices
      have axis : w.axis = (s.pulsed e).axis := by rw [told]
      have command : w.command = (s.pulsed e).command := by rw [told]
      have took := tookOver n q s.axis.dir w
      obtain ⟨t, ht⟩ : ∃ t, t = takeOver n q s.axis.dir w := ⟨_, rfl⟩
      rw [← ht] at pulse took
      have timer := took.timer
      have reached := took.speed
      rw [axis, since, Nat.sub_zero] at timer
      rw [axis, speed, show w.config = s.config by rw [told]; rfl] at reached
      have kept : { t with axis := (s.pulsed e).axis } = w := by rw [← axis]; exact took.same
      refine ⟨t, pulse, ?_, took.dir, took.remaining.trans (by rw [behind]; rfl), took.opened, took.blend, reached, took.state,
        fun long => timer.trans (max_eq_right (Nat.le_trans (by decide) long)), fun room => ?_, ?_⟩
      · exact (congrArg State.queue kept :).trans (by rw [told])
      · rw [show t.notices = w.notices from (congrArg State.notices kept :), notices room,
          show t.command = w.command from (congrArg State.command kept :), command]
        rfl
      · rw [told] at kept
        exact (show _ = _ from congrArg (fun v : State => { v with
          axis := s.axis, command := s.command, measured := s.measured, queue := s.queue
          notices := s.notices, lost := s.lost }) kept)

end Sys2Proof.Machine

/-! PROOFS. A step that is refused, and a hard limit in the way of the motion (R34, R41, R46, R84, R86, R87). -/

namespace Sys2Proof.Machine

/-! ### A cause that no mask propagates (R84, R94) -/

theorem raiseCause_of_quiet {c : Cause} {s : State} (new : s.faults.has c = false) (quiet : propagates s.config c = false) :
    raiseCause c s = orderStop (stopKindOf s.config c) (notify (.fault c s.command) { s with faults := s.faults.put c true }) := by
  have stops := (frames_notify (.fault c s.command) { s with faults := s.faults.put c true }).stops.trans
    (stops_orderStop (stopKindOf s.config c) _)
  rw [raiseCause, if_neg (by rw [new]; decide), raiseByCause, show _ = s.config from stops.config, quiet]
  rfl

/-- The state but for what the entry of such a cause changes. -/
theorem Enters.back_of_quiet {c : Cause} {s u : State} (h : Enters c s u) (quiet : propagates s.config c = false)
    (atRest : AtRest s) : { u with
      faults := s.faults, queue := s.queue, axis := s.axis, notices := s.notices, lost := s.lost
      outbound := s.outbound, nextFrame := s.nextFrame, lif := s.lif, handed := .empty } = s := by
  have back := h.back atRest
  rw [← h.unraised (.inl quiet)] at back
  exact back

/-- R84, R19: behind the entry of a cause no Waiting head is left. -/
theorem Enters.headStays {c : Cause} {s u : State} (h : Enters c s u) (order : QueueInOrder s) : HeadStays u := by
  obtain ⟨v, queue, axis, vq, va, -⟩ := h.stop
  have ordered : QueueInOrder v := (queueInOrder_iff v).2 (((queueInOrder_iff s).1 order).of_same vq (by rw [va]))
  rcases queue_orderStop (stopKindOf s.config c) ordered with none_left | ⟨e, running, only⟩
  · exact headStays_of_nil (queue.trans none_left)
  · exact headStays_of_running (by rw [runningHead_eq_some.mpr ⟨[], queue.trans only, running⟩]; rfl)

/-- R42: an immediate stop by such a cause tells of the head behind the FAULT. -/
theorem raiseCause_tells_second {c : Cause} {e : Entry} {s : State} (order : QueueInOrder s) (head : s.runningHead = some e)
    (new : s.faults.has c = false) (quiet : propagates s.config c = false) (kind : stopKindOf s.config c = .immediate)
    (room : s.notices.length < 15) : ((raiseCause c s).notices.drop (s.notices.length + 1)).head? =
      some (.segmentRetired e.segment.tag e.origin .stopped s.command) := by
  have told := notify_eq (.fault c s.command) { s with faults := s.faults.put c true }
  have notices := notify_notices_of_room (n := .fault c s.command) (s := { s with faults := s.faults.put c true })
    (Nat.lt_succ_of_lt room)
  rw [raiseCause_of_quiet new quiet, kind]
  obtain ⟨v, hv⟩ : ∃ v, v = notify (.fault c s.command) { s with faults := s.faults.put c true } := ⟨_, rfl⟩
  rw [← hv] at told notices ⊢
  have vq : v.queue = s.queue := by rw [told]
  have va : v.axis = s.axis := by rw [told]
  have vc : v.command = s.command := by rw [told]
  have ordered : QueueInOrder v := (queueInOrder_iff v).2 (((queueInOrder_iff s).1 order).of_same vq (by rw [va]))
  obtain ⟨-, -, tells⟩ := orderStop_immediate_running ordered ((runningHead_of_queue vq).trans head)
  obtain ⟨more, all⟩ := tells (by rw [notices, List.length_append]; exact Nat.succ_lt_succ room)
  rw [← all, notices, vc]
  simp

/-! ### A step refused (R46, R87) -/

theorem refuseStep_of_braking {s : State} (braking : s.axis.state = .braking) :
    refuseStep s = raiseCause (softCause s.axis.dir) (retireHead .stopped s) := if_pos braking

theorem refuseStep_of_not {s : State} (not : s.axis.state ≠ .braking) :
    refuseStep s = rearmPulse (raiseCause (softCause s.axis.dir) s) := if_neg not

theorem rearmPulse_same (s : State) : { rearmPulse s with axis := s.axis } = s := by
  unfold rearmPulse
  split <;> rfl

theorem rearmPulse_of_still {s : State} (still : s.axis.state.moving = false) : rearmPulse s = s :=
  if_neg (by rw [still]; decide)

theorem rearmPulse_of_moving {s : State} (moving : s.axis.state.moving = true) :
    rearmPulse s = { s with axis := { s.axis with pulseTimer := interval s.axis.speed } } := if_pos moving

/-- R46, R87: a step refused while not braking, its evaluation taken. -/
theorem settle_rearmPulse {c : Cause} {u v : State} (h : Enters c u v) (order : QueueInOrder u) (atRest : AtRest u) :
    settle (rearmPulse v) = { rearmPulse v with handed := .empty } := by
  have same := rearmPulse_same v
  have handed : (rearmPulse v).handed = v.handed := (congrArg State.handed same :)
  have stays : HeadStays (rearmPulse v) := by
    unfold rearmPulse
    split
    · exact h.headStays order
    · exact h.headStays order
  exact settle_of_onlyEvaluates (by rw [OnlyEvaluates, handed]; exact h.onlyEvaluates atRest) stays

/-- A running move or motion without its chain flag has no plan but base speed (R36). -/
theorem planOf_of_unchained {e : Entry} {s : State} (head : s.runningHead = some e) (chain : e.segment.chain = false) :
    planOf s = none := by
  obtain ⟨rest, queue, -⟩ := runningHead_eq_some.mp head
  cases rest with
  | nil => exact planOf_of_only queue
  | cons n rest =>
    have not : blendsInto e n s = false := by rw [blendsInto, chain]; rfl
    rw [planOf, queue]
    simp only [not]
    split <;> rfl

/-- R29: the deceleration point of an unchained head changes the plan and the axis state alone. -/
theorem decelerationPoint_of_unchained {e : Entry} {s : State} (head : s.runningHead = some e) (chain : e.segment.chain = false)
    (motion : s.axis.state = .cruise ∨ s.axis.state = .rampUp) :
    ∃ a : Axis, decelerationPoint e (replan s) = { s with axis := a } ∧
      (a.state = .cruise ∨ a.state = .rampUp ∨ a.state = .rampDown) ∧
      { a with state := s.axis.state, blend := s.axis.blend, committed := s.axis.committed } = s.axis := by
  have commits : ∃ a : Axis, commitPlan s.replanned = { s with axis := a } ∧
      { a with blend := s.axis.blend, committed := s.axis.committed } = s.axis := by
    cases committed : s.axis.committed with
    | true => exact ⟨_, commitPlan_of_committed (s := s.replanned) committed, by rw [← committed]⟩
    | false =>
      have plain : s.replanned.axis.blend = none :=
        (if_neg (by rw [committed]; decide)).trans (planOf_of_unchained head chain)
      exact ⟨_, commitPlan_of_plain plain, by rw [← committed]; rfl⟩
  rw [replan_eq]
  cases point : atDecelerationPoint e s.replanned with
  | false => exact ⟨s.replanned.axis, decelerationPoint_of_not point, motion.elim .inl fun h => .inr (.inl h), rfl⟩
  | true =>
    obtain ⟨a, commit, same⟩ := commits
    rw [decelerationPoint_of_at point, commit]
    exact ⟨{ a with state := .rampDown }, rfl, .inr (.inr rfl), (show _ = _ from congrArg (fun x : Axis => { x with state := s.axis.state }) same)⟩

theorem exec_stepPulse_of_refused {e : Entry} {s u : State} (head : s.runningHead = some e) (moving : s.axis.state.moving = true)
    (planned : decelerationPoint e (replan s) = u) (refused : stepRefused u.axis.dir u = true) :
    exec .stepPulse s = .next (settle (refuseStep u)) := by
  rw [exec_stepPulse, pulse_of_moving head moving, planned]
  simp only [refused, if_true]

/-- Whether a direction has no room for a step. -/
theorem stepRefused_at_rangeEnd {d : Dir} {s : State}
    (last : s.command.toInt = (match d with | .plus => 2147483647 | .minus => -2147483648)) : stepRefused d s = true := by
  cases d with
  | plus =>
    simp only at last
    simp [stepRefused, last]
  | minus =>
    simp only at last
    simp [stepRefused, last]

/-- R46: in a braking without its cause a software limit refuses a step. -/
theorem stepRefused_at_limit_of_absent {d : Dir} {s : State} (enabled : s.config.softEnabled = true)
    (absent : s.faults.has (softCause d) = false)
    (edge : (match d with | .plus => s.config.softMax | .minus => s.config.softMin) = s.command) :
    stepRefused d s = true := by
  have compared : softCompared d s = true := by simp [softCompared, enabled, absent]
  cases d with
  | plus =>
    simp only at edge
    simp [stepRefused, compared, edge]
  | minus =>
    simp only at edge
    simp [stepRefused, compared, edge]

/-- R46: in a braking its cause present, only the range ends refuse a step. -/
theorem stepRefused_of_present {d : Dir} {s : State} (braking : s.axis.state = .braking) (present : s.faults.has (softCause d) = true)
    (inside : s.command.toInt ≠ (match d with | .plus => 2147483647 | .minus => -2147483648)) : stepRefused d s = false := by
  have free : softCompared d s = false := by rw [softCompared, braking, present]; simp
  have below := BitVec.toInt_lt (x := s.command)
  have above := BitVec.le_toInt s.command
  cases d with
  | plus =>
    simp only at inside
    rw [stepRefused, free, Bool.false_and, Bool.or_false, decide_eq_false_iff_not]
    omega
  | minus =>
    simp only at inside
    rw [stepRefused, free, Bool.false_and, Bool.or_false, decide_eq_false_iff_not]
    omega

theorem softCause_quiet (c : ConfigBlock) (d : Dir) : propagates c (softCause d) = false := by cases d <;> rfl

theorem softCause_kind (c : ConfigBlock) (d : Dir) : stopKindOf c (softCause d) = c.softStop := by cases d <;> rfl

theorem limitCause_quiet (c : ConfigBlock) (d : Dir) : propagates c (limitCause d) = false := by cases d <;> rfl

theorem limitCause_kind (c : ConfigBlock) (d : Dir) : stopKindOf c (limitCause d) = c.hardStop := by cases d <;> rfl

/-! ### A hard limit that becomes Active (R34, R86) -/

/-- R19: a stop of a moving head leaves it alone in the queue, or nothing. -/
theorem StopMade.queue_of_moving {k : StopKind} {e : Entry} {s t : State} (h : StopMade k s t) (head : s.runningHead = some e)
    (moving : s.axis.state.moving = true) : t.queue = [] ∨ t.queue = [e] := by
  obtain ⟨slows, ends, -⟩ := h
  cases k with
  | immediate => exact .inl (ends (.inl rfl)).1
  | decelerating =>
    obtain ⟨brakes, above, below⟩ := slows e head rfl
    by_cases braking : s.axis.state = .braking
    · exact .inr (brakes braking).1
    · by_cases fast : s.config.baseSpeed.toNat * 65536 < s.axis.speed
      · have motion : s.axis.state = .rampUp ∨ s.axis.state = .cruise ∨ s.axis.state = .rampDown := by
          cases h : s.axis.state <;> simp_all [AxisState.moving]
        exact .inr (above motion fast).1
      · exact .inl (below braking (.inl (Nat.le_of_not_lt fast))).1

theorem seekInputChange_of_other {watch : WatchTake} {e : Entry} {i : Input} {s : State} (head : s.runningHead = some e)
    (other : ∀ x z k r, e.segment.body ≠ .seek x i z k r) : seekInputChange watch i s = s := by
  unfold seekInputChange
  rw [head]
  dsimp only
  split
  · rename_i x j z k r body
    have ne : (j == i) = false := beq_eq_false_iff_ne.mpr fun h => other x z k r (h ▸ body)
    rw [ne, Bool.false_and, Bool.false_and, Bool.false_and, if_neg Bool.false_ne_true]
  · rfl

theorem stopOnInput_of_limit (d : Dir) (s : State) : stopOnInput (limitInput d) s =
    if limitStops d s then raiseCause (limitCause d) s else s := by cases d <;> rfl

theorem limitStops_of_running {d : Dir} {e : Entry} {s : State} (head : s.runningHead = some e)
    (active : s.inputActive (limitInput d) = true) (other : ∀ x z k r, e.segment.body ≠ .seek x (limitInput d) z k r) :
    limitStops d s = (s.axis.state.moving && s.axis.dir == d) := by
  have counts : e.segment.body.exemptLimit d = false := by
    cases body : e.segment.body with
    | seek x j z k r =>
      have ne : (j == limitInput d) = false := beq_eq_false_iff_ne.mpr fun h => other x z k r (h ▸ body)
      rw [SegmentBody.exemptLimit, ne, Bool.and_false]
    | _ => rfl
  rw [limitStops, head, active]
  simp [counts]

/-- What a running head that does not seek on the input, or none, leaves to do. -/
theorem moveOnInput_of_other {e : Entry} {i : Input} {s : State} (runs : s.queue = [] ∨ s.runningHead = some e)
    (other : ∀ x z k r, e.segment.body ≠ .seek x i z k r) : moveOnInput i s = settle s := by
  rcases runs with empty | head
  · exact moveOnInput_of_empty empty
  · rw [moveOnInput, seekInputChange_of_other head other, handInput_of_running (by rw [head]; rfl)]

theorem edgeOf_limit (d : Dir) (active : Bool) : edgeOf (limitInput d) active = .none := by cases d <;> rfl

/-- What a cause that no mask propagates makes of a state that differs from s in its inputs alone. -/
theorem Enters.over_inputs {c : Cause} {s u v : State} (h : Enters c u v) (order : QueueInOrder u) (rest : AtRest u)
    (quiet : propagates u.config c = false) (same : { u with inputs := s.inputs } = s) :
    v.inputs = u.inputs ∧ v.config = u.config ∧ v.faults = s.faults.put c true ∧ StopMade (stopKindOf s.config c) s v ∧
      (s.notices.length < 16 → (v.notices.drop s.notices.length).head? = some (.fault c s.command)) ∧
      { v with
        inputs := s.inputs, faults := s.faults, queue := s.queue, axis := s.axis, notices := s.notices, lost := s.lost
        outbound := s.outbound, nextFrame := s.nextFrame, lif := s.lif, handed := .empty } = s := by
  have queue : u.queue = s.queue := (congrArg State.queue same :)
  have axis : u.axis = s.axis := (congrArg State.axis same :)
  have config : u.config = s.config := (congrArg State.config same :)
  have faults : u.faults = s.faults := (congrArg State.faults same :)
  have notices : u.notices = s.notices := (congrArg State.notices same :)
  have command : u.command = s.command := (congrArg State.command same :)
  have made := h.stopMade order
  have told := h.toldFirst
  rw [config] at made
  rw [notices, command] at told
  have back := congrArg (fun t : State => { t with
    inputs := s.inputs, faults := s.faults, queue := s.queue, axis := s.axis, notices := s.notices, lost := s.lost
    outbound := s.outbound, nextFrame := s.nextFrame, lif := s.lif }) (h.back_of_quiet quiet rest)
  have forth := congrArg (fun t : State => { t with
    faults := s.faults, queue := s.queue, axis := s.axis, notices := s.notices, lost := s.lost
    outbound := s.outbound, nextFrame := s.nextFrame, lif := s.lif }) same
  exact ⟨(congrArg State.inputs h.same :), (congrArg State.config h.same :), h.faults.trans (by rw [faults]),
    made.congr queue axis config rfl rfl, told, (show _ = _ from back).trans (show _ = _ from forth)⟩

/-- R86: the limit stops the motion toward it. -/
theorem exec_limit_stops {d : Dir} {e : Entry} {s : State} (atRest : AtRest s) (order : QueueInOrder s)
    (head : s.runningHead = some e) (inactive : s.inputActive (limitInput d) = false)
    (other : ∀ x z k r, e.segment.body ≠ .seek x (limitInput d) z k r) (moving : s.axis.state.moving = true)
    (toward : s.axis.dir = d) (new : s.faults.has (limitCause d) = false) :
    ∃ v, exec (.inputChange (limitInput d) (activeLevel s.config (limitInput d))) s = .next { v with handed := .empty } ∧
      v.inputActive (limitInput d) = true ∧ v.faults = s.faults.put (limitCause d) true ∧ StopMade s.config.hardStop s v ∧
      (s.notices.length < 16 → (v.notices.drop s.notices.length).head? = some (.fault (limitCause d) s.command)) ∧
      { v with
        inputs := s.inputs, faults := s.faults, queue := s.queue, axis := s.axis, notices := s.notices, lost := s.lost
        outbound := s.outbound, nextFrame := s.nextFrame, lif := s.lif, handed := .empty } = s := by
  have active := flipped_active s (limitInput d)
  have taken := exec_inputChange_of_inactive inactive
  obtain ⟨u, hu⟩ : ∃ u, u = s.flipped (limitInput d) (activeLevel s.config (limitInput d)) := ⟨_, rfl⟩
  have ordered : QueueInOrder u := by rw [hu]; exact order
  have rest : AtRest u := by rw [hu]; exact atRest
  have runs : u.runningHead = some e := by rw [hu]; exact head
  have moves : u.axis.state.moving = true := by rw [hu]; exact moving
  have stops : limitStops d u = true := by
    rw [limitStops_of_running runs (by rw [hu]; exact active) other, moves, show u.axis.dir = d by rw [hu]; exact toward]
    simp
  rw [← hu] at taken
  have h : Enters (limitCause d) u (raiseCause (limitCause d) u) := raiseCause_enters (by rw [hu]; exact new)
  have remains : (raiseCause (limitCause d) u).queue = [] ∨ (raiseCause (limitCause d) u).runningHead = some e := by
    rcases (h.stopMade ordered).queue_of_moving runs moves with empty | only
    · exact .inl empty
    · obtain ⟨-, -, running⟩ := runningHead_eq_some.mp head
      exact .inr (runningHead_eq_some.mpr ⟨[], only, running⟩)
  have settled := settle_of_onlyEvaluates (h.onlyEvaluates rest) (h.headStays ordered)
  rw [inputChanged_of_no_edge (edgeOf_limit d), stopOnInput_of_limit, if_pos stops, moveOnInput_of_other remains other,
    settled, settle_of_atRest rfl] at taken
  have same : { u with inputs := s.inputs } = s := by rw [hu]; rfl
  have quiet := limitCause_quiet u.config d
  have on : u.inputActive (limitInput d) = true := by rw [hu]; exact active
  clear hu
  obtain ⟨inputs, config, faults, made, told, back⟩ := h.over_inputs ordered rest quiet same
  rw [limitCause_kind] at made
  exact ⟨_, taken, (inputActive_congr inputs config _).trans on, faults, made, told, back⟩

/-- R34, R86: the limit passes a motion away from it, and an axis that does not move. -/
theorem exec_limit_passes {d : Dir} {e : Entry} {s : State} (atRest : AtRest s)
    (head : s.runningHead = some e) (inactive : s.inputActive (limitInput d) = false)
    (other : ∀ x z k r, e.segment.body ≠ .seek x (limitInput d) z k r)
    (away : s.axis.state.moving = false ∨ s.axis.dir ≠ d) :
    exec (.inputChange (limitInput d) (activeLevel s.config (limitInput d))) s =
      .next (s.flipped (limitInput d) (activeLevel s.config (limitInput d))) := by
  have active := flipped_active s (limitInput d)
  have taken := exec_inputChange_of_inactive inactive
  obtain ⟨u, hu⟩ : ∃ u, u = s.flipped (limitInput d) (activeLevel s.config (limitInput d)) := ⟨_, rfl⟩
  have rest : AtRest u := by rw [hu]; exact atRest
  have runs : u.runningHead = some e := by rw [hu]; exact head
  have passes : limitStops d u = false := by
    rw [limitStops_of_running runs (by rw [hu]; exact active) other, show u.axis = s.axis by rw [hu]; rfl]
    rcases away with still | off
    · rw [still, Bool.false_and]
    · rw [beq_eq_false_iff_ne.mpr off, Bool.and_false]
  rw [← hu] at taken ⊢
  rw [inputChanged_of_no_edge (edgeOf_limit d), stopOnInput_of_limit, if_neg (by rw [passes]; decide),
    moveOnInput_of_other (.inr runs) other, settle_of_atRest rest, settle_of_atRest rest] at taken
  exact taken

/-! ### The step refused (R46, R84, R87) -/

/-- What a step refused in CRUISE or RAMP_UP comes to. -/
theorem exec_stepPulse_refused {e : Entry} {s : State} (atRest : AtRest s) (order : QueueInOrder s)
    (head : s.runningHead = some e) (chain : e.segment.chain = false)
    (motion : s.axis.state = .cruise ∨ s.axis.state = .rampUp)
    (refused : ∀ u : State, u.config = s.config → u.command = s.command → u.axis.state ≠ .braking →
      stepRefused s.axis.dir u = true) (new : s.faults.has (softCause s.axis.dir) = false) :
    ∃ (a : Axis) (v : State), { a with
        state := s.axis.state, blend := s.axis.blend, committed := s.axis.committed } = s.axis ∧
      (a.state = .cruise ∨ a.state = .rampUp ∨ a.state = .rampDown) ∧ QueueInOrder ({ s with axis := a } : State) ∧
      v = raiseCause (softCause s.axis.dir) { s with axis := a } ∧
      Enters (softCause s.axis.dir) { s with axis := a } v ∧
      exec .stepPulse s = .next { rearmPulse v with handed := .empty } := by
  obtain ⟨a, planned, after, same⟩ := decelerationPoint_of_unchained head chain motion
  have dir : a.dir = s.axis.dir := (congrArg Axis.dir same :)
  have notBraking : a.state ≠ .braking := by rcases after with h | h | h <;> rw [h] <;> decide
  have ordered : QueueInOrder ({ s with axis := a } : State) := by
    obtain ⟨rest, queue, running⟩ := runningHead_eq_some.mp head
    refine ⟨order.1, fun empty => ?_, fun x first => ⟨fun waits => ?_, fun _ => .inl ?_⟩⟩
    · rw [show s.queue = [] from empty] at queue
      cases queue
    · rw [show _ = _ from congrArg List.head? queue] at first
      cases first
      rw [running] at waits
      cases waits
    · show a.state.moving = true
      rcases after with h | h | h <;> rw [h] <;> rfl
  have h : Enters (softCause s.axis.dir) { s with axis := a } (raiseCause (softCause s.axis.dir) { s with axis := a }) :=
    raiseCause_enters new
  refine ⟨a, _, same, after, ordered, rfl, h, ?_⟩
  have moving : s.axis.state.moving = true := by rcases motion with h | h <;> rw [h] <;> rfl
  rw [exec_stepPulse_of_refused head moving planned (by rw [dir]; exact refused { s with axis := a } rfl rfl notBraking),
    refuseStep_of_not (s := { s with axis := a }) notBraking]
  show _ = Host.Outcome.next { rearmPulse (raiseCause (softCause s.axis.dir) { s with axis := a }) with handed := .empty }
  rw [← dir] at h ⊢
  exact congrArg _ (settle_rearmPulse h ordered atRest)

theorem notify_handEvaluate (n : Notice) (s : State) : notify n (handEvaluate s) = handEvaluate (notify n s) := by
  by_cases room : s.notices.length < 16
  · rw [notify_of_room room, notify_of_room (by exact room)]
    rfl
  · rw [notify_of_full (Nat.le_of_not_lt room), notify_of_full (by exact Nat.le_of_not_lt room)]
    rfl

/-- A step refused in BRAKING, its evaluation taken. -/
theorem exec_stepPulse_refused_braking {e : Entry} {s : State} (atRest : AtRest s) (head : s.runningHead = some e)
    (only : s.queue = [e]) (origin : e.origin = .localPort) (braking : s.axis.state = .braking)
    (refused : stepRefused s.axis.dir s = true) :
    ∃ v : State, v = notify (.segmentRetired e.segment.tag .localPort .stopped s.command) s.replanned.over ∧
      exec .stepPulse s = .next (if s.faults.has (softCause s.axis.dir) then v
        else notify (.fault (softCause s.axis.dir) s.command)
          { v with faults := s.faults.put (softCause s.axis.dir) true }) := by
  have planned : decelerationPoint e (replan s) = s.replanned := by
    rw [replan_eq]
    exact decelerationPoint_of_not (by rw [atDecelerationPoint, show s.replanned.axis.state = .braking from braking]; simp)
  have moving : s.axis.state.moving = true := by rw [braking]; rfl
  have retires : retireHead .stopped s.replanned =
      handEvaluate (notify (.segmentRetired e.segment.tag .localPort .stopped s.command) s.replanned.over) := by
    rw [retireHead_cons (s := s.replanned) .stopped only]
    simp only [retireEffects, origin]
    rfl
  have told := notify_eq (.segmentRetired e.segment.tag .localPort .stopped s.command) s.replanned.over
  refine ⟨_, rfl, ?_⟩
  rw [exec_stepPulse_of_refused head moving planned refused, refuseStep_of_braking (s := s.replanned) braking, retires]
  obtain ⟨v, hv⟩ : ∃ v, v = notify (.segmentRetired e.segment.tag .localPort .stopped s.command) s.replanned.over := ⟨_, rfl⟩
  rw [← hv] at told ⊢
  have faults : v.faults = s.faults := by rw [told]; rfl
  have queue : v.queue = [] := by rw [told]; rfl
  have command : v.command = s.command := by rw [told]; rfl
  have calm : AtRest v := by rw [told]; exact atRest
  show _ = Host.Outcome.next _
  rw [show s.replanned.axis.dir = s.axis.dir from rfl]
  obtain ⟨c, hc⟩ : ∃ c, c = softCause s.axis.dir := ⟨_, rfl⟩
  have quiet : propagates v.config c = false := by rw [hc]; exact softCause_quiet _ _
  rw [← hc]
  cases present : s.faults.has c with
  | true =>
    rw [raiseCause_of_present (s := handEvaluate v) (by rw [← present, ← faults]; rfl), if_pos rfl]
    exact congrArg _ (settle_handEvaluate_of_headStays calm (headStays_of_nil queue))
  | false =>
    have new : (handEvaluate v).faults.has c = false := by rw [← present, ← faults]; rfl
    have enters : raiseCause c (handEvaluate v) = handEvaluate (notify (.fault c s.command)
        { v with faults := s.faults.put c true }) := by
      have empty := (frames_notify (.fault c (handEvaluate v).command)
        { handEvaluate v with faults := (handEvaluate v).faults.put c true }).marks.queue.trans queue
      rw [raiseCause_of_quiet new quiet, orderStop_of_empty _ empty, ← command, ← faults]
      exact notify_handEvaluate _ { v with faults := v.faults.put c true }
    rw [enters, if_neg (by decide)]
    exact congrArg _ (settle_told_of_empty (s := { v with faults := s.faults.put c true }) calm queue)

/-- Settles O36. -/
theorem refusedStepStopsTheAxis : Obligations.RefusedStepStopsTheAxis := by
  intro s e d atRest order head active seeks soft atRangeEnd atLimit base
  have cause : soft = softCause d := by
    show (match d with | .plus => Cause.softPlus | .minus => .softMinus) = _
    cases d <;> rfl
  refine ⟨fun chain motion toward full new => ?rejected, fun braking toward committed present off unarmed inside some_left => ?onward,
    fun braking toward only origin full => ?inBraking, fun inactive unsought => ⟨fun moving toward new => ?stops, fun away => ?passes⟩⟩
  case rejected =>
    rw [cause, ← toward] at new
    have refused (u : State) (config : u.config = s.config) (command : u.command = s.command)
        (motion : u.axis.state ≠ .braking) : stepRefused s.axis.dir u = true := by
      rw [toward]
      rcases full with ⟨enabled, edge⟩ | last
      · refine stepRefused_at_limit (by rw [config]; exact enabled) motion ?_
        rw [config, command]
        refine Eq.trans ?_ edge
        cases d <;> rfl
      · refine stepRefused_at_rangeEnd ?_
        rw [command]
        refine last.trans ?_
        cases d <;> rfl
    obtain ⟨a, v, same, after, ordered, isV, h, taken⟩ := exec_stepPulse_refused atRest order head chain motion refused new
    have quiet := softCause_quiet s.config s.axis.dir
    have kind := softCause_kind s.config s.axis.dir
    have made : StopMade (stopKindOf s.config (softCause s.axis.dir)) { s with axis := a } v := h.stopMade ordered
    have speed : a.speed = s.axis.speed := (congrArg Axis.speed same :)
    have rearmed := rearmPulse_same v
    have notices : (rearmPulse v).notices = v.notices := (congrArg State.notices rearmed :)
    rw [kind] at made
    rw [cause, ← toward]
    refine ⟨_, taken, (congrArg State.faults rearmed :).trans h.faults, fun ends => ?_, fun slows fast => ?_, fun room => ?_,
      fun room atOnce => ?_, ?_⟩
    · have gone : v.queue = [] ∧ v.axis.state = .idle ∧ v.axis.speed = 0 := by
        cases stop : s.config.softStop with
        | immediate => exact ⟨(made.2.1 (.inl stop)).1, (made.2.1 (.inl stop)).2, made.2.2 stop (by
            show s.runningHead.isSome = true
            rw [head]
            rfl)⟩
        | decelerating =>
          refine (made.1 e head stop).2.2 ?_ (.inl ?_)
          · show a.state ≠ .braking
            rcases after with h | h | h <;> rw [h] <;> decide
          · show a.speed ≤ _
            rw [speed]
            exact ends.resolve_left (by rw [stop]; decide)
      rw [rearmPulse_of_still (by rw [gone.2.1]; rfl)]
      exact gone
    · obtain ⟨only, axis⟩ := (made.1 e head slows).2.1 (by show a.state = _ ∨ a.state = _ ∨ a.state = _; tauto)
        (by show _ < a.speed; rw [speed]; exact fast)
      rw [rearmPulse_of_moving (by rw [axis]; rfl)]
      refine ⟨only, ?_⟩
      show { v.axis with pulseTimer := interval v.axis.speed } = _
      rw [axis]
      exact (show _ = _ from congrArg (fun x : Axis => { x with
        state := .braking, braking := .stop, brakeRate := max e.decelRate (1000 * s.config.stopRate.toNat)
        blend := none, committed := true, found := false, pulseTimer := interval x.speed }) same)
    · show ((rearmPulse v).notices.drop _).head? = _
      rw [notices]
      exact h.toldFirst room
    · show ((rearmPulse v).notices.drop _).head? = _
      rw [notices, isV]
      exact raiseCause_tells_second (s := { s with axis := a }) ordered head new quiet (kind.trans atOnce) room
    · have back := h.back_of_quiet quiet atRest
      have kept := congrArg (fun t : State => { t with
        faults := s.faults, queue := s.queue, axis := s.axis, notices := s.notices, lost := s.lost
        outbound := s.outbound, nextFrame := s.nextFrame, lif := s.lif, handed := .empty }) rearmed
      have back := congrArg (fun t : State => { t with axis := s.axis }) back
      exact (show _ = _ from kept).trans (show _ = _ from back)
  case onward =>
    intro p down fast
    have planned : decelerationPoint e (replan s) = s := by
      rw [replan_of_committed committed]
      exact decelerationPoint_of_not (by rw [atDecelerationPoint, braking]; simp)
    have made : stepRefused s.axis.dir s = false := by
      rw [toward]
      refine stepRefused_of_present braking (by rw [← cause]; exact present) fun last => inside ?_
      exact last.trans (by cases d <;> rfl)
    have moving : s.axis.state.moving = true := by rw [braking]; rfl
    have after : speedAfter e s = (.braking, down) := speedAfter_braking braking
    have speed : (s.pulsed e).axis.speed = down := congrArg Prod.snd after
    have left : (s.pulsed e).axis.remaining = if e.segment.body.isMove then s.axis.remaining - 1 else s.axis.remaining := rfl
    have config : (s.pulsed e).config = s.config := rfl
    have goesOn : endMotion (s.pulsed e) = s.pulsed e := by
      rw [endMotion_braking (s := s.pulsed e) head (congrArg Prod.fst after), speed, left, config, if_neg]
      rintro (⟨isMove, none_left⟩ | slow)
      · rw [if_pos isMove] at none_left
        have := some_left isMove
        omega
      · exact absurd slow (Nat.not_le_of_lt fast)
    rw [exec_stepPulse_of_made head moving planned made off unarmed, goesOn, settle_of_atRest (by exact atRest), State.pulsed,
      after, pulsePin_eq, toward, ← braking]
    show Host.Outcome.next { s with command := stepTo d s.command, measured := stepTo d s.command, axis := _ } = _
    have position : stepTo d s.command = p := by
      show _ = (match d with | .plus => s.command + 1 | .minus => s.command - 1)
      cases d <;> rfl
    rw [position]
  case inBraking =>
    have refused : stepRefused s.axis.dir s = true := by
      rw [toward]
      rcases full with ⟨⟨enabled, edge⟩, absent⟩ | last
      · rw [cause] at absent
        refine stepRefused_at_limit_of_absent enabled absent (Eq.trans ?_ edge)
        cases d <;> rfl
      · exact stepRefused_at_rangeEnd (last.trans (by cases d <;> rfl))
    obtain ⟨v, isV, taken⟩ := exec_stepPulse_refused_braking atRest head only origin braking refused
    have told := notify_eq (.segmentRetired e.segment.tag .localPort .stopped s.command) s.replanned.over
    have notices (room : s.notices.length < 15) := notify_notices_of_room (s := s.replanned.over)
      (n := .segmentRetired e.segment.tag .localPort .stopped s.command) (Nat.lt_succ_of_lt room)
    rw [← isV] at told notices
    rw [toward, ← cause] at taken
    cases present : s.faults.has soft with
    | true =>
      rw [present, if_pos rfl] at taken
      refine ⟨v, taken, ?_, by rw [told]; rfl, by rw [told]; rfl, by rw [told]; rfl, notices, by rw [told]; rfl⟩
      rw [put_of_has present, told]
      rfl
    | false =>
      rw [present, if_neg (by decide)] at taken
      have second := notify_eq (.fault soft s.command) { v with faults := s.faults.put soft true }
      refine ⟨_, taken, by rw [second], by rw [second, told]; rfl, by rw [second, told]; rfl, by rw [second, told]; rfl,
        fun room => ?_, by rw [second, told]; rfl⟩
      have has_room : v.notices.length < 16 := by
        rw [notices room, List.length_append]
        exact Nat.succ_lt_succ room
      rw [notify_notices_of_room (s := { v with faults := s.faults.put soft true }) has_room]
      show v.notices ++ _ = _
      rw [notices room]
      simp [State.over, State.replanned]
  case stops =>
    obtain ⟨v, taken, on, faults, made, told, back⟩ := exec_limit_stops atRest order head inactive
      (fun x z k r body => unsought ⟨x, z, k, r, body⟩) moving toward new
    exact ⟨_, taken, on, faults, made, told, back⟩
  case passes =>
    exact ⟨_, exec_limit_passes atRest head inactive (fun x z k r body => unsought ⟨x, z, k, r, body⟩) away,
      flipped_active s _, rfl⟩

end Sys2Proof.Machine

/-! PROOFS. DWELL_EXPIRY (R11, R12, R17, R35, R50, R51). -/

namespace Sys2Proof.Machine

theorem exec_dwellExpiry {e : Entry} {s : State} (head : s.runningHead = some e) (dwell : s.axis.state = .dwell) :
    exec .dwellExpiry s = .next (settle (retireHead .completed s)) := by
  have done : dwellDone s = retireHead .completed s := by
    unfold dwellDone
    rw [head]
    exact if_pos dwell
  exact congrArg (fun t => Host.Outcome.next (settle t)) done

/-! ### An only head without an end mark -/

/-- R17: without an end mark every retirement has the same effects. -/
theorem retireEffects_of_unmarked {e : Entry} (mark : e.segment.endMark = none) (o : Retirement) (s : State) :
    retireEffects e o s = e.answered o (notify (.segmentRetired e.segment.tag e.origin o s.command) s) := by
  unfold retireEffects
  rw [mark]
  cases o <;> rfl

theorem settle_retireHead_answered {e : Entry} {s : State} (atRest : AtRest s) (only : s.queue = [e])
    (mark : e.segment.endMark = none) (o : Retirement) : settle (retireHead o s) =
      e.answered o (notify (.segmentRetired e.segment.tag e.origin o s.command) s.over) := by
  have frames : Frames s.over (e.answered o (notify (.segmentRetired e.segment.tag e.origin o s.command) s.over)) :=
    (frames_notify _ _).trans (frames_answered e o _)
  rw [retireHead_cons o only, retireEffects_of_unmarked mark]
  exact settle_handEvaluate_of_headStays (frames.atRest atRest) (headStays_of_nil frames.marks.queue)

theorem answerPeer_of_open {s : State} (sends : s.canSend = true) (room : s.outbound.length < 10) (n : Station) (q : Seq)
    (k : AnswerKind) (tag : Byte) : (answerPeer n q k tag s).outbound = s.outbound ++ [s.newFrame (.station n) (.answer q k tag)] := by
  have admitted := admission_of_open sends room (.station n) (.answer q k tag)
  rw [answerPeer, admitted]
  exact outbound_of_admission admitted

/-! ### An end mark that is not sent (R50, R51) -/

theorem settle_handEvaluate_of_empty {s : State} (values : s.handed.values = []) (calm : s.handed.evaluate = false)
    (empty : s.queue = []) : settle (handEvaluate s) = settle s := by
  have same : { s with handed := { s.handed with evaluate := false } } = s := by rw [← calm]
  rw [settle_of_evaluate (s := handEvaluate s) values rfl]
  show settle (evaluateHead watchNow { s with handed := { s.handed with evaluate := false } }) = _
  rw [same, evaluateHead_of_empty _ empty]

theorem notify_handLoopBack (n : Notice) (m : Mark) (stamp : Option Position) (s : State) :
    notify n (handLoopBack m stamp s) = handLoopBack m stamp (notify n s) := by
  by_cases room : s.notices.length < 16
  · rw [notify_of_room room, notify_of_room (by exact room)]
    rfl
  · rw [notify_of_full (Nat.le_of_not_lt room), notify_of_full (by exact Nat.le_of_not_lt room)]
    rfl

theorem settle_retireHead_not_sent {o : Retirement} {e : Entry} {m : Mark} {s : State} (atRest : AtRest s)
    (ends : o = .completed ∨ o = .cut) (only : s.queue = [e]) (origin : e.origin = .localPort)
    (mark : e.segment.endMark = some m) (shut : s.canSend = false ∨ 10 ≤ s.outbound.length)
    (none_acts : NoEntryActs m (some s.command) s) : settle (retireHead o s) =
      notify (.segmentRetired e.segment.tag .localPort o s.command)
        (notify (.markNotSent m s.whyNotSent .finish e.segment.tag) s.over) := by
  have not_sent : requestMark m (some s.command) .finish e.segment.tag s.over =
      handLoopBack m (some s.command) (notify (.markNotSent m s.whyNotSent .finish e.segment.tag) s.over) :=
    requestMark_not_sent (s := s.over) shut m _ _ _
  rw [retireHead_of_only ends only origin, mark]
  show settle (handEvaluate (notify _ (requestMark m (some s.command) .finish e.segment.tag s.over))) = _
  rw [not_sent, notify_handLoopBack]
  have told : Frames s.over (notify (.segmentRetired e.segment.tag .localPort o s.command)
    (notify (.markNotSent m s.whyNotSent .finish e.segment.tag) s.over)) := (frames_notify _ _).trans (frames_notify _ _)
  obtain ⟨u, hu⟩ : ∃ u, u = notify (.segmentRetired e.segment.tag .localPort o s.command)
    (notify (.markNotSent m s.whyNotSent .finish e.segment.tag) s.over) := ⟨_, rfl⟩
  rw [← hu] at told ⊢
  have rest : AtRest u := told.atRest atRest
  have empty : u.queue = [] := told.marks.queue
  have reactions : u.reactions = s.reactions := (congrArg State.reactions told.same :)
  have station : u.station = s.station := (congrArg State.station told.same :)
  rw [settle_handEvaluate_of_empty (s := handLoopBack m _ u) (congrArg Handed.values rest) (congrArg Handed.evaluate rest) empty,
    settle_handLoopBack rest, takeArrival_of_none_acts (by rw [reactions, station]; exact none_acts)]
  exact settle_of_atRest rest

/-! ### An entry behind the DWELL (R11, R12) -/

theorem map_uncommit_of_waiting {es : List Entry} (waits : ∀ e ∈ es, e.state = .waiting) : es.map Entry.uncommit = es := by
  refine List.map_congr_left (g := id) (fun e held => ?_) |>.trans (List.map_id es)
  rw [Entry.uncommit, if_neg (by rw [waits e held]; decide)]
  rfl

/-- The state once the head has retired with x behind it. -/
def State.succeeded (s : State) (x : Entry) (rest : List Entry) : State :=
  { s with queue := x :: rest, axis := { s.axis.ended with state := .gated } }

theorem retireHead_behind {o : Retirement} {e x : Entry} {rest : List Entry} {s : State} (queue : s.queue = e :: x :: rest)
    (order : QueueInOrder s) (waits : x.state = .waiting) (origin : e.origin = .localPort) (mark : e.segment.endMark = none) :
    retireHead o s = handEvaluate (notify (.segmentRetired e.segment.tag .localPort o s.command) (s.succeeded x rest)) := by
  have others : ∀ n ∈ rest, n.state = .waiting := by
    obtain ⟨⟨-, -, behind, -⟩, -⟩ := order
    rw [queue] at behind
    exact behind
  have kept : (x :: rest).map Entry.uncommit = x :: rest := map_uncommit_of_waiting (by
    intro n held
    rcases List.mem_cons.mp held with rfl | held
    · exact waits
    · exact others n held)
  have headless : s.headless (x :: rest) = s.succeeded x rest := by
    rw [State.headless, kept]
    rfl
  rw [retireHead_cons o queue, retireEffects_of_unmarked mark, headless, Entry.answered, origin]
  rfl

/-- R12: the DWELL at the head starts, its gate open or consumed. -/
theorem evaluateHead_starts_dwell {watch : WatchTake} {x : Entry} {rest : List Entry} {k : Nat} {s : State}
    (queue : s.queue = x :: rest) (waits : x.state = .waiting) (may : s.mayStart = true)
    (opened : x.consumed = true ∨ s.gateOpen x.segment.gate = true) (body : x.segment.body = .dwell k)
    (mark : x.segment.startMark = none) : evaluateHead watch s = { s with
      queue := { x with state := .running, consumed := false } :: rest
      axis := { s.axis.ended with state := .dwell, dwellTimer := 16000 * k }
      reactions := if x.consumed then s.reactions else s.consumed x.segment.gate } := by
  have starts : (x.state == .waiting && s.mayStart && (x.consumed || s.gateOpen x.segment.gate)) = true := by
    rw [waits, may]
    simpa using opened
  have consumes : (if x.consumed then some s else consumeGate x.segment.gate s) =
      some { s with reactions := if x.consumed then s.reactions else s.consumed x.segment.gate } := by
    cases already : x.consumed with
    | true => rfl
    | false =>
      rw [if_neg (by decide), consumeGate_of_open (opened.resolve_left (by rw [already]; decide))]
      rfl
  unfold evaluateHead
  rw [queue]
  refine (if_pos starts).trans ?_
  rw [startHead, consumes]
  show runHead watch x.segment _ = _
  unfold runHead
  rw [body, mark]
  rfl

/-- Settles O37. -/
theorem dwellExpiryCompletesTheDwell : Obligations.DwellExpiryCompletesTheDwell := by
  intro s e x rest k atRest runs dwell
  have expiry {es : List Entry} (queue : s.queue = e :: es) := exec_dwellExpiry (runningHead_eq_some.mpr ⟨es, queue, runs⟩) dwell
  refine ⟨fun only unmarked => ?alone, fun m mark only origin => ⟨fun sends room => ?sent, fun shut none_acts => ?notSent⟩,
    fun queue order unmarked origin waits => ?behind⟩
  case alone =>
    have settled := settle_retireHead_answered atRest only unmarked .completed
    have told := frames_notify (.segmentRetired e.segment.tag e.origin .completed s.command) s.over
    have notices (room : s.notices.length < 15) := notify_notices_of_room (s := s.over)
      (n := .segmentRetired e.segment.tag e.origin .completed s.command) (Nat.lt_succ_of_lt room)
    have same := notify_eq (.segmentRetired e.segment.tag e.origin .completed s.command) s.over
    obtain ⟨u, hu⟩ : ∃ u, u = notify (.segmentRetired e.segment.tag e.origin .completed s.command) s.over := ⟨_, rfl⟩
    rw [← hu] at settled told notices same
    have answered := frames_answered e .completed u
    have both := told.trans answered
    refine ⟨_, (expiry only).trans (congrArg _ settled), both.marks.queue, ?_, ?_, fun room => ?_, fun n q peer => ⟨fun sends room => ?_, fun closed room => ?_⟩, ?_⟩
    · rw [both.marks.axis]
      rfl
    · rw [both.marks.axis]
      rfl
    · obtain ⟨more, all⟩ := answered.notices
      rw [← all, notices room, List.append_assoc]
      show (List.drop s.notices.length (s.notices ++ _)).head? = _
      rw [List.drop_left]
      rfl
    · rw [Entry.answered, peer]
      have sends : u.canSend = true := by rw [same]; exact sends
      have room : u.outbound.length < 10 := by rw [same]; exact room
      refine (answerPeer_of_open sends room n q _ _).trans ?_
      rw [same]
      rfl
    · rw [Entry.answered, peer]
      have closed : u.canSend = false := by rw [same]; exact closed
      have full : u.notices.length < 16 := by
        rw [notices room, List.length_append]
        exact Nat.succ_lt_succ room
      have dropped := answerPeer_of_closed closed n q (.finished .completed) e.segment.tag
      show List.head? (List.drop _ (answerPeer n q (.finished .completed) e.segment.tag u).notices) = _
      rw [dropped, notify_notices_of_room full, notices room]
      simp [State.over]
    · exact (show _ = _ from congrArg (fun t : State => { t with
        queue := s.queue, axis := s.axis, notices := s.notices, lost := s.lost, outbound := s.outbound
        nextFrame := s.nextFrame, lif := s.lif }) both.same)
  case sent =>
    obtain ⟨l, n, settled⟩ := settle_retireHead_of_marked atRest (.inl rfl) only origin (.inr ⟨sends, room⟩)
    refine ⟨_, (expiry only).trans (congrArg _ settled), ?_⟩
    rw [mark, notify_eq]
    exact ⟨rfl, rfl, rfl, rfl, fun room => notify_notices_of_room (by exact room), rfl⟩
  case notSent =>
    have settled := settle_retireHead_not_sent atRest (.inl rfl) only origin mark shut none_acts
    refine ⟨_, (expiry only).trans (congrArg _ settled), ?_⟩
    have first := notify_eq (.markNotSent m s.whyNotSent .finish e.segment.tag) s.over
    have notices (room : s.notices.length < 15) := notify_notices_of_room (s := s.over)
      (n := .markNotSent m s.whyNotSent .finish e.segment.tag) (Nat.lt_succ_of_lt room)
    obtain ⟨u, hu⟩ : ∃ u, u = notify (.markNotSent m s.whyNotSent .finish e.segment.tag) s.over := ⟨_, rfl⟩
    rw [← hu] at first notices ⊢
    have second := notify_eq (.segmentRetired e.segment.tag .localPort .completed s.command) u
    refine ⟨by rw [second, first]; rfl, by rw [second, first]; rfl, fun room => ?_, by rw [second, first]; rfl⟩
    have full : u.notices.length < 16 := by
      rw [notices room, List.length_append]
      exact Nat.succ_lt_succ room
    rw [notify_notices_of_room full, notices room, List.append_assoc]
    rfl
  case behind =>
    have retires := retireHead_behind (o := .completed) queue order waits origin unmarked
    have same := notify_eq (.segmentRetired e.segment.tag .localPort .completed s.command) (s.succeeded x rest)
    have notices (room : s.notices.length < 16) := notify_notices_of_room (s := s.succeeded x rest)
      (n := .segmentRetired e.segment.tag .localPort .completed s.command) room
    obtain ⟨u, hu⟩ : ∃ u, u = notify (.segmentRetired e.segment.tag .localPort .completed s.command) (s.succeeded x rest) := ⟨_, rfl⟩
    rw [← hu] at retires same notices
    have calm : AtRest u := by rw [same]; exact atRest
    have nextUp : u.queue = x :: rest := by rw [same]; rfl
    have may : u.mayStart = s.mayStart := by rw [same]; rfl
    have gate : u.gateOpen x.segment.gate = s.gateOpen x.segment.gate := by rw [same]; rfl
    have settled : settle (retireHead .completed s) = settle (evaluateHead watchNow u) := by
      rw [retires]
      exact settle_handEvaluate calm
    refine ⟨fun shut => ?_, fun starts opened body start => ?_⟩
    · have stays : evaluateHead watchNow u = u := by
        unfold evaluateHead
        rw [nextUp]
        refine if_neg ?_
        rw [may, gate]
        rcases shut with h | ⟨h, k⟩
        · simp [h]
        · simp [h, k]
      have settled := (settled.trans (congrArg settle stays)).trans (settle_of_atRest calm)
      exact ⟨u, (expiry queue).trans (congrArg _ settled), nextUp, by rw [same]; rfl, notices, by rw [same]; rfl⟩
    · have begins := evaluateHead_starts_dwell (watch := watchNow) nextUp waits (may.trans starts) (by rw [gate]; exact opened) body start
      have settled := (settled.trans (congrArg settle begins)).trans (settle_of_atRest (by exact calm))
      refine ⟨_, (expiry queue).trans (congrArg _ settled), rfl, by rw [same]; rfl, ?_, notices, by rw [same]; rfl⟩
      show (if x.consumed then u.reactions else u.consumed x.segment.gate) = _
      rw [same]
      cases x.consumed <;> cases x.segment.gate <;> rfl

end Sys2Proof.Machine

/-! PROOFS. The idle line: frame starts, activity, quiet periods, idle rounds and the start of an attempt (R109, R112 to
R114, R148). -/

namespace Sys2Proof.Machine

/-! ### A transmitter that sends nothing (R112, R113) -/

theorem dropPick_of_idle {s : State} (idle : s.lif.transmitter = .waiting ∨ s.lif.transmitter = .silent ∧ s.lif.picked = none) :
    dropPick s = { s with lif := { s.lif with transmitter := .silent, picked := none } } := by
  unfold dropPick
  rcases idle with waits | ⟨silent, bare⟩
  · rw [waits]
  · rw [silent]
    show s = _
    rw [← bare, ← silent]

theorem pick_of_none {s : State} (idle : s.lif.transmitter = .silent ∨ s.lif.transmitter = .waiting)
    (nothing : s.outbound = [] ∨ s.canSend = false) :
    pick s = { s with lif := { s.lif with transmitter := .silent, picked := none } } := by
  unfold pick
  rcases nothing with bare | closed
  · rcases idle with h | h <;> rw [h, bare] <;> cases s.canSend <;> rfl
  · rcases idle with h | h <;> rw [h, closed]

theorem listens_of_idle {s : State} (on : s.lif.receiver ≠ .off)
    (idle : s.lif.transmitter = .waiting ∨ s.lif.transmitter = .silent) : s.listens = true := by
  rw [State.listens, bne_iff_ne.mpr on]
  rcases idle with h | h <;> rw [h] <;> rfl

theorem hunts_iff {s : State} (idle : s.lif.transmitter = .waiting ∨ s.lif.transmitter = .silent) :
    s.hunts = true ↔ s.lif.receiver = .hunting := by
  rw [State.hunts]
  rcases idle with h | h <;> rw [h] <;> simp

/-- The state at an idle reference, before the pick. -/
def State.referred (gone : Nat) (s : State) : State :=
  { s with lif := { s.lif with dominant := false, idle := gone, quiet := gone, roundDone := false }, bitPhase := 0 }

theorem setReference_eq_pick (gone : Nat) (s : State) : setReference gone s = pick (s.referred gone) := rfl

/-- Settles O38. -/
theorem frameStartAndActivityEndTheWait : Obligations.FrameStartAndActivityEndTheWait := by
  intro s line grounded
  have idle := waiting_or_silent line grounded
  have waits := idle.imp_right And.left
  refine ⟨fun on => ?_, fun recessive hunting => ?_, fun dominant hunting => ?_, fun other => ?_⟩
  · show Host.Outcome.next (if s.listens then frameStart s else s) = _
    rw [if_pos (listens_of_idle on waits), frameStart, dropPick_of_idle idle]
  · have begins : activityBegins s = dropPick { s with
        lif := { s.lif with dominant := true, idle := 0, quiet := 0, roundDone := false } } :=
      if_pos ((hunts_iff (s := { s with lif := { s.lif with dominant := true } }) waits).mpr hunting)
    show Host.Outcome.next (if s.lif.dominant then activityEnds s else activityBegins s) = _
    rw [recessive, if_neg (by decide), begins, dropPick_of_idle (by exact idle)]
  · have ends : activityEnds s = pick (s.referred 0) :=
      if_pos ((hunts_iff (s := { s with lif := { s.lif with dominant := false } }) waits).mpr hunting)
    obtain ⟨x, p, picked⟩ := pick_eq (s.referred 0)
    refine ⟨_, congrArg Host.Outcome.next ((if_pos dominant).trans ends), ?_, ?_, ?_, ?_, ?_, ?_, fun f first sends => ?_,
      fun nothing => ?_, ?_⟩
    · rw [picked]; rfl
    · rw [picked]; rfl
    · rw [picked]; rfl
    · rw [picked]; rfl
    · rw [picked]; rfl
    · rw [picked]; rfl
    · rw [pick_of_first (s := s.referred 0) waits.symm sends first]
      exact ⟨rfl, rfl⟩
    · rw [pick_of_none (s := s.referred 0) waits.symm nothing]
      exact ⟨rfl, rfl⟩
    · rw [picked]; rfl
  · have not_hunting (level : Bool) : ({ s with lif := { s.lif with dominant := level } } : State).hunts = false := by
      rw [Bool.eq_false_iff]
      exact fun hunts => other ((hunts_iff (s := { s with lif := { s.lif with dominant := level } }) waits).mp hunts)
    show Host.Outcome.next (if s.lif.dominant then activityEnds s else activityBegins s) = _
    cases level : s.lif.dominant with
    | true => exact congrArg Host.Outcome.next (if_neg (Bool.eq_false_iff.mp (not_hunting false)))
    | false => exact congrArg Host.Outcome.next (if_neg (Bool.eq_false_iff.mp (not_hunting true)))

/-! ### Observations of a Withdrawn station (R148) -/

theorem observe_of_other {s : State} (other : s.standing ≠ .withdrawn) : observe s = s :=
  if_neg (by rw [beq_eq_false_iff_ne.mpr other, Bool.false_and]; decide)

theorem observe_of_withdrawn {s : State} (withdrawn : s.standing = .withdrawn) (onLine : s.onLine = true) : observe s =
    if min 48 (s.recovery + 1) = 48 ∧ s.config.autoRejoin = true then
      returnEngaged .recovery { s with recovery := min 48 (s.recovery + 1) }
    else { s with recovery := min 48 (s.recovery + 1) } := by
  unfold observe
  rw [withdrawn, onLine, if_pos (by decide)]
  simp only [Bool.and_eq_true, beq_iff_eq]

theorem observe_counts {s : State} (withdrawn : s.standing = .withdrawn) (onLine : s.onLine = true)
    (few : s.recovery < 47 ∨ s.config.autoRejoin = false) : observe s = { s with recovery := min 48 (s.recovery + 1) } := by
  rw [observe_of_withdrawn withdrawn onLine, if_neg]
  rintro ⟨all, auto⟩
  rcases few with few | off
  · omega
  · rw [off] at auto
    cases auto

/-- R149: a return to Engaged leaves the score and the recovery count at 0. -/
theorem returnEngaged_standing (c : StandingCause) (s : State) : (returnEngaged c s).standing = .engaged ∧
    (returnEngaged c s).score = 0 ∧ (returnEngaged c s).recovery = 0 := by
  have set : (setStanding .engaged c { s with score := 0, recovery := 0 }).standing = .engaged ∧
      (setStanding .engaged c { s with score := 0, recovery := 0 }).score = 0 ∧
      (setStanding .engaged c { s with score := 0, recovery := 0 }).recovery = 0 := by
    unfold setStanding
    split
    · rename_i same
      exact ⟨same.symm, rfl, rfl⟩
    · rw [notify_eq]
      exact ⟨rfl, rfl, rfl⟩
  obtain ⟨u, hu⟩ : ∃ u, u = setStanding .engaged c { s with score := 0, recovery := 0 } := ⟨_, rfl⟩
  have returned : returnEngaged c s = if u.lifecycle = .online then openLine u else u := by rw [hu]; rfl
  rw [← hu] at set
  rw [returned]
  split
  · have kept := (tame_openLine u).kept
    exact ⟨(congrArg Kept.standing kept :).trans set.1, (congrArg Kept.score kept :).trans set.2.1,
      (congrArg Kept.recovery kept :).trans set.2.2⟩
  · exact set

theorem receives_of_idle {s : State} (onLine : s.onLine = true) (on : s.lif.receiver ≠ .off)
    (idle : s.lif.transmitter = .waiting ∨ s.lif.transmitter = .silent) : s.receives = true := by
  rw [State.receives, onLine, bne_iff_ne.mpr on]
  rcases idle with h | h <;> rw [h] <;> rfl

/-- R109: what a hunt makes of the line. -/
theorem hunt_eq (gone : Nat) (s : State) : ∃ l, hunt gone s = { s with lif := l, bitPhase := 0 } ∧ l.receiver = .hunting ∧
    l.idle = gone ∧ l.quiet = gone ∧ l.rejectDriven = s.lif.rejectDriven := by
  obtain ⟨x, p, eq⟩ := setReference_eq gone { s with lif := { s.lif with receiver := .hunting, reception := none } }
  exact ⟨_, eq, rfl, rfl, rfl, rfl⟩

theorem clearYieldAfterEcho_eq (s : State) : ∃ y, clearYieldAfterEcho s = { s with lif := { s.lif with yielding := y } } := by
  unfold clearYieldAfterEcho
  split
  · split
    · exact ⟨_, rfl⟩
    · exact ⟨s.lif.yielding, rfl⟩
  · exact ⟨s.lif.yielding, rfl⟩

theorem exec_receivedFrameEnd {f : RxFrame} {s : State} (receives : s.receives = true) : exec (.receivedFrameEnd f) s =
    .next (settle (hunt 0 ({ receiveResult (rxClean f) (clearYieldAfterEcho s) with
      lif := { (receiveResult (rxClean f) (clearYieldAfterEcho s)).lif with rejectDriven := s.rejects f } } : State))) :=
  congrArg (fun t => Host.Outcome.next (settle t)) (if_pos receives)

/-- R148: a result at a Withdrawn station. -/
theorem receiveResult_of_withdrawn {clean : Bool} {s : State} (withdrawn : s.standing = .withdrawn) (onLine : s.onLine = true) :
    receiveResult clean s = if clean then observe s else s := by
  unfold receiveResult
  rw [onLine, if_pos rfl]
  cases clean with
  | true => exact if_pos withdrawn
  | false => exact if_pos withdrawn

/-- Settles O39. -/
theorem quietPeriodsAndIdleRounds : Obligations.QuietPeriodsAndIdleRounds := by
  intro s line on grounded
  have idle := waiting_or_silent line grounded
  have waits := idle.imp_right And.left
  have listens := listens_of_idle on waits
  have quiet : exec .quietPeriod s = .next (observe { s with lif := { s.lif with quiet := 0 } }) :=
    congrArg Host.Outcome.next (if_pos listens)
  refine ⟨fun other => ?_, fun withdrawn onLine few => ?_, fun withdrawn onLine most auto => ?_, ?_,
    fun atRest withdrawn onLine few => ⟨fun f => ?_, ?_⟩⟩
  · rw [quiet, observe_of_other (by exact other)]
  · rw [quiet, observe_counts (by exact withdrawn) (by exact onLine) (by exact few)]
  · refine ⟨_, quiet, ?_⟩
    rw [observe_of_withdrawn (by exact withdrawn) (by exact onLine), if_pos ⟨by show min 48 (s.recovery + 1) = 48; omega, auto⟩]
    exact returnEngaged_standing _ _
  · obtain ⟨x, p, picked⟩ := pick_eq { s with lif := { s.lif with idle := 0, roundDone := true } }
    refine ⟨_, congrArg Host.Outcome.next (if_pos listens), by rw [picked], by rw [picked], by rw [picked],
      fun f first sends => ?_, by rw [picked]⟩
    rw [pick_of_first (s := { s with lif := { s.lif with idle := 0, roundDone := true } }) waits.symm sends first]
    exact ⟨rfl, rfl⟩
  · obtain ⟨y, cleared⟩ := clearYieldAfterEcho_eq s
    have rejects : s.rejects f = false := by rw [State.rejects, withdrawn]; simp
    have result : receiveResult (rxClean f) (clearYieldAfterEcho s) = { s with
        lif := { s.lif with yielding := y }
        recovery := if rxClean f then min 48 (s.recovery + 1) else s.recovery } := by
      rw [cleared, receiveResult_of_withdrawn (by exact withdrawn) (by exact onLine)]
      cases rxClean f with
      | true => exact observe_counts (by exact withdrawn) (by exact onLine) (by exact few)
      | false => rfl
    have ended := exec_receivedFrameEnd (f := f) (receives_of_idle onLine on waits)
    rw [result, rejects] at ended
    obtain ⟨l, hunts, receiver, idle, quiet, reject⟩ := hunt_eq 0 { s with
      lif := { s.lif with yielding := y, rejectDriven := false }
      recovery := if rxClean f then min 48 (s.recovery + 1) else s.recovery }
    rw [hunts, settle_of_atRest (by exact atRest)] at ended
    exact ⟨_, ended, rfl, receiver, idle, quiet, reject, rfl⟩
  · have own : (if (match s.lif.reception with | some r => r.afterEcho | none => false) then s else receiveResult false s) = s := by
      rw [receiveResult_of_withdrawn withdrawn onLine]
      exact ite_self _
    have truncated : truncate s = hunt 10 (noReject s) :=
      (if_pos (receives_of_idle onLine on waits)).trans (congrArg (fun t => hunt 10 (noReject t)) own)
    obtain ⟨l, hunts, receiver, idle, quiet, reject⟩ := hunt_eq 10 (noReject s)
    refine ⟨_, congrArg Host.Outcome.next ((congrArg settle (truncated.trans hunts)).trans (settle_of_atRest (by exact atRest))),
      receiver, idle, quiet, reject, rfl⟩

/-! ### The start of an attempt (R107, R114, R119) -/

/-- R107: the retry flag of a frame is bit 6 of its second character. -/
theorem frameChars_retry (own : Station) (f : OutFrame) :
    ((frameChars own f).getD 1 0).getLsbD 6 = decide (f.attempts ≠ 0) := by
  have dest : f.dest.code.getLsbD 6 = false := by
    cases f.dest with
    | broadcast => decide
    | station n => exact (by decide : ∀ n : Fin 32, (BitVec.ofNat 8 n.val).getLsbD 6 = false) n
  have retry : f.retry = decide (f.attempts ≠ 0) := by
    rw [OutFrame.retry, bne, decide_not]
    rfl
  show (f.dest.code ||| bitByte f.retry 6 ||| bitByte (16 ≤ f.payload.bytes.length) 7).getLsbD 6 = _
  rw [BitVec.getLsbD_or, BitVec.getLsbD_or, dest, bitByte_getLsbD, bitByte_getLsbD, retry]
  simp

/-- Settles O40. -/
theorem deferralGapStartsTheAttempt : Obligations.DeferralGapStartsTheAttempt := by
  intro s p f picked waits hunting recessive sends held
  have may : s.mayBegin = true := by rw [State.mayBegin, sends, waits, hunting, recessive]; rfl
  have gap (passed : Bool) (is : s.hasPassed p = passed) : exec .deferralGapReached s =
      .next (if !passed then beginAttempt p s else s) := by
    show execDeferralGapReached s = _
    rw [execDeferralGapReached, picked, may, ← is]
    rfl
  refine ⟨fun beyond => gap true (decide_eq_true beyond), fun within => ?_⟩
  have begins := gap false (decide_eq_false (Nat.not_lt_of_le within))
  have named : f.id = p.frame := by simpa using List.find?_some held
  have found : ((beginAttempt p s).outbound.find? fun g => g.id == p.frame) = some { f with inFlight := true } := by
    show ((s.outbound.map fun g => if g.id = p.frame then { g with inFlight := true } else g).find? fun g => g.id == p.frame) = _
    have same : ((fun g : OutFrame => g.id == p.frame) ∘ fun g => if g.id = p.frame then { g with inFlight := true } else g) =
        fun g => g.id == p.frame := by
      funext g
      show ((if g.id = p.frame then { g with inFlight := true } else g).id == p.frame) = _
      split <;> rfl
    rw [List.find?_map, same, held]
    exact congrArg some (if_pos named)
  refine ⟨_, begins, rfl, rfl, rfl, rfl, rfl, ?_, ?_, rfl⟩
  · show ((beginAttempt p s).outbound.find? fun g => g.id == p.frame).map (frameChars s.station) = _
    rw [found]
    rfl
  · exact frameChars_retry s.station f

end Sys2Proof.Machine

/-! PROOFS. The end of an own attempt (R52, R112, R115 to R117, R135, R136, R143, R145). -/

namespace Sys2Proof.Machine

/-! ### What an attempt leaves of the frame's emission (R52, R53) -/

/-- The emissions that are not of a frame. -/
def State.emissionsBut (s : State) (id : Nat) : List Emission := s.emissions.filter fun e => e.frame != id

theorem emissionsBut_of_none {id : Nat} {s : State} (none_found : s.emissions.find? (fun e => e.frame == id) = none) :
    s.emissionsBut id = s.emissions :=
  List.filter_eq_self.mpr fun e held => by
    have other := List.find?_eq_none.mp none_found e held
    simpa using other

/-- Loop-backs on which no entry acts. -/
def EmissionsInert (id : Nat) (s : State) : Prop := ∀ e ∈ s.emissions, e.frame = id → NoEntryActs e.mark e.stamp s

theorem emission_found {id : Nat} {e : Emission} {s : State} (found : s.emissions.find? (fun e => e.frame == id) = some e) :
    e ∈ s.emissions ∧ e.frame = id :=
  ⟨List.mem_of_find?_eq_some found, by simpa using List.find?_some found⟩

/-- A loop-back on which no entry acts. -/
theorem settle_handLoopBack_inert {m : Mark} {stamp : Option Position} {s : State} (atRest : AtRest s)
    (inert : NoEntryActs m stamp s) : settle (handLoopBack m stamp s) = s := by
  rw [settle_handLoopBack atRest, takeArrival_of_none_acts inert, settle_of_atRest atRest]

/-- R117: the carried emission leaves the list. -/
theorem loopBackCarried_eq {id : Nat} {s : State} (atRest : AtRest s) (inert : EmissionsInert id s) :
    loopBackCarried id s = { s with emissions := s.emissionsBut id } := by
  unfold loopBackCarried
  cases found : s.emissions.find? (fun e => e.frame == id) with
  | none => rw [emissionsBut_of_none found]
  | some e =>
    obtain ⟨held, frame⟩ := emission_found found
    exact settle_handLoopBack_inert (s := { s with emissions := s.emissionsBut id }) atRest (inert e held frame)

/-- R53: the emission of a frame that is given up leaves the list. -/
theorem dropEmission_eq {id : Nat} {s : State} (atRest : AtRest s) (inert : EmissionsInert id s) : ∃ n l,
    dropEmission id s = { s with emissions := s.emissionsBut id, notices := n, lost := l } ∧ s.notices <+: n := by
  unfold dropEmission
  cases found : s.emissions.find? (fun e => e.frame == id) with
  | none => exact ⟨_, _, by rw [emissionsBut_of_none found], List.prefix_rfl⟩
  | some e =>
    obtain ⟨held, frame⟩ := emission_found found
    have told := frames_notify (.markNotSent e.mark .dropped e.origin e.index) { s with emissions := s.emissionsBut id }
    have same := notify_eq (.markNotSent e.mark .dropped e.origin e.index) { s with emissions := s.emissionsBut id }
    refine ⟨_, _, (settle_handLoopBack_inert (told.atRest atRest) ?_).trans same, told.notices⟩
    rw [same]
    exact inert e held frame

/-! ### What becomes of the frame (R135, R136) -/

theorem repick_eq (id : Nat) (s : State) :
    ∃ x p, repick id s = { s with lif := { s.lif with transmitter := x, picked := p } } := by
  unfold repick
  split
  · split
    · exact pick_eq s
    · exact ⟨_, _, rfl⟩
  · exact ⟨_, _, rfl⟩

/-- The posts once a frame has left. -/
def State.postsReleased (s : State) (id : Nat) : List PostEntry :=
  s.posts.map fun e => if e.frame = some id then { e with frame := none } else e

/-- The frames but one. -/
def State.outboundBut (s : State) (id : Nat) : List OutFrame := s.outbound.filter fun g => g.id != id

/-- R135: a frame carried leaves. -/
theorem takeResult_clean {f : OutFrame} {s : State} (bare : f.held = none) (paid : s.ownHalt.owed = .none) : ∃ x p,
    takeResult .clean f s = { s with
      outbound := s.outboundBut f.id, posts := s.postsReleased f.id
      lif := { s.lif with transmitter := x, picked := p } } := by
  obtain ⟨x, p, picked⟩ := repick_eq f.id (removeFrame f.id s)
  refine ⟨x, p, ?_⟩
  show askHeld f.held (departed f.id (removeFrame f.id s)) = _
  rw [bare, departed_of_nothing_owed f.id (by exact paid), picked]
  rfl

/-- R136: a frame is abandoned on its eighth attempt. -/
theorem failFrame_abandons {echo : Bool} {f : OutFrame} {s : State} (atRest : AtRest s) (last : 7 ≤ f.attempts)
    (bare : f.held = none) (paid : s.ownHalt.owed = .none) (inert : EmissionsInert f.id s) : ∃ x p n l,
    failFrame echo f s = { s with
      outbound := s.outboundBut f.id, posts := s.postsReleased f.id, emissions := s.emissionsBut f.id
      notices := n, lost := l, lif := { s.lif with transmitter := x, picked := p } } ∧
    (s.notices.length < 16 → s.notices ++ [.frameAbandoned f.payload.kind f.dest f.sequence echo] <+: n) := by
  have same := notify_eq (.frameAbandoned f.payload.kind f.dest f.sequence echo) (removeFrame f.id s)
  have room (h : s.notices.length < 16) := notify_notices_of_room (s := removeFrame f.id s)
    (n := .frameAbandoned f.payload.kind f.dest f.sequence echo) h
  obtain ⟨u, hu⟩ : ∃ u, u = notify (.frameAbandoned f.payload.kind f.dest f.sequence echo) (removeFrame f.id s) := ⟨_, rfl⟩
  have abandoned : failFrame echo f s = askHeld f.held (departed f.id (dropEmission f.id u)) := by
    rw [hu]
    exact if_pos last
  rw [← hu] at same room
  clear hu
  obtain ⟨n, l, dropped, told⟩ := dropEmission_eq (id := f.id) (s := u) (by rw [same]; exact atRest) (by rw [same]; exact inert)
  obtain ⟨x, p, picked⟩ := repick_eq f.id (dropEmission f.id u)
  refine ⟨x, p, n, l, ?_, fun h => ?_⟩
  · rw [abandoned, bare, departed_of_nothing_owed f.id (by rw [dropped, same]; exact paid), picked, dropped, same]
    rfl
  · rw [room h] at told
    exact told

/-! ### The score (R142, R145) -/

theorem setStanding_eq (st : Standing) (c : StandingCause) (s : State) : ∃ n l,
    setStanding st c s = { s with standing := st, notices := n, lost := l } ∧ s.notices <+: n := by
  unfold setStanding
  split
  · rename_i same
    exact ⟨s.notices, s.lost, by rw [same], List.prefix_rfl⟩
  · exact ⟨_, _, notify_eq _ _, (frames_notify _ { s with standing := st }).notices⟩

/-- R142: a score that leaves the station on the line. -/
theorem moveScore_eq {n : Nat} {c : StandingCause} {s : State} (other : s.standing ≠ .withdrawn) (low : n < 192) : ∃ x l,
    moveScore n c s = { s with
      score := n, standing := if s.lifecycle = .online then (if 96 ≤ n then .reticent else .engaged) else s.standing
      notices := x, lost := l } ∧ s.notices <+: x := by
  unfold moveScore
  rw [if_neg other, if_neg (Nat.not_le_of_lt low)]
  split
  · exact setStanding_eq _ _ { s with score := n }
  · exact ⟨_, _, rfl, List.prefix_rfl⟩

/-! ### The result handed on (R117) -/

/-- The state with its attempt over. -/
def State.grounded (s : State) : State := { s with lif := { s.lif with transmitter := .silent, flight := none } }

/-- The state once the emission carried is taken. -/
def State.carried (s : State) (id : Nat) : State := { s.grounded with emissions := s.emissionsBut id }

section
variable {s : State} {fl : Flight} {f : OutFrame}

theorem attemptResult_clean (atRest : AtRest s) (flight : s.lif.flight = some fl)
    (found : (s.outbound.find? fun g => g.id == fl.frame) = some f) (inert : EmissionsInert fl.frame s) :
    attemptResult .clean s =
      let u := takeResult .clean f (s.carried fl.frame)
      moveScore (u.score - 1) .transmit { u with lif := { u.lif with yielding := true } } := by
  have carried : loopBackCarried fl.frame s.grounded = s.carried fl.frame := loopBackCarried_eq (s := s.grounded) atRest inert
  have held : ((s.carried fl.frame).outbound.find? fun g => g.id == fl.frame) = some f := found
  have step : attemptResult .clean s =
      let u := match (loopBackCarried fl.frame s.grounded).outbound.find? fun g => g.id == fl.frame with
        | some f => takeResult .clean f (loopBackCarried fl.frame s.grounded)
        | none => loopBackCarried fl.frame s.grounded
      moveScore (u.score - 1) .transmit { u with lif := { u.lif with yielding := true } } := by
    unfold attemptResult
    rw [flight]
    rfl
  rw [step, carried, held]

theorem attemptResult_rejected (atRest : AtRest s) (flight : s.lif.flight = some fl)
    (found : (s.outbound.find? fun g => g.id == fl.frame) = some f) (inert : EmissionsInert fl.frame s) :
    attemptResult .rejected s =
      let u := failFrame false f (s.carried fl.frame)
      moveScore (u.score + 8) .transmit u := by
  have carried : loopBackCarried fl.frame s.grounded = s.carried fl.frame := loopBackCarried_eq (s := s.grounded) atRest inert
  have held : ((s.carried fl.frame).outbound.find? fun g => g.id == fl.frame) = some f := found
  have step : attemptResult .rejected s =
      let u := match (loopBackCarried fl.frame s.grounded).outbound.find? fun g => g.id == fl.frame with
        | some f => takeResult .rejected f (loopBackCarried fl.frame s.grounded)
        | none => loopBackCarried fl.frame s.grounded
      moveScore (u.score + 8) .transmit u := by
    unfold attemptResult
    rw [flight]
    rfl
  rw [step, carried, held]
  rfl

theorem attemptResult_echo (flight : s.lif.flight = some fl)
    (found : (s.outbound.find? fun g => g.id == fl.frame) = some f) :
    attemptResult .echo s =
      let u := failFrame true f s.grounded
      moveScore (u.score + 8) .transmit u := by
  have held : (s.grounded.outbound.find? fun g => g.id == fl.frame) = some f := found
  have step : attemptResult .echo s =
      let u := match s.grounded.outbound.find? fun g => g.id == fl.frame with
        | some f => takeResult .echo f s.grounded
        | none => s.grounded
      moveScore (u.score + 8) .transmit u := by
    unfold attemptResult
    rw [flight]
    rfl
  rw [step, held]
  rfl

end

theorem exec_attemptEnd {s : State} (sends : s.sends = true) (rejected : Bool) : exec (.attemptEnd rejected) s =
    .next (settle (setReference 0 (attemptResult (if rejected then .rejected else .clean) s))) := if_pos sends

/-- Settles O42. -/
theorem carriedFramesLeaveTheQueue : Obligations.CarriedFramesLeaveTheQueue := by
  intro s fl f atRest flight sends found bare inert paid online other low
  have named : f.id = fl.frame := by simpa using List.find?_some found
  have result := attemptResult_clean atRest flight found inert
  obtain ⟨x, p, taken⟩ := takeResult_clean (f := f) (s := s.carried fl.frame) bare paid
  rw [taken] at result
  obtain ⟨n, l, moved, -⟩ := moveScore_eq (n := s.score - 1) (c := .transmit) (s := { s.carried fl.frame with
    outbound := s.outboundBut f.id, posts := s.postsReleased f.id
    lif := { s.grounded.lif with transmitter := x, picked := p, yielding := true } }) other (by omega)
  have result := result.trans moved
  obtain ⟨y, q, referred⟩ := setReference_eq 0 (attemptResult .clean s)
  rw [result] at referred
  have ended := exec_attemptEnd sends false
  rw [if_neg (by decide), result, referred, settle_of_atRest (by exact atRest)] at ended
  refine ⟨_, ended, ?_, rfl, ?_, rfl, if_pos online, rfl, rfl, rfl, rfl, rfl⟩
  · rw [← named]
    rfl
  · rw [← named]
    rfl

/-- What a failed attempt leaves of the state, its score not yet moved. -/
structure Failed (echo : Bool) (f : OutFrame) (s t : State) : Prop where
  stays : f.attempts < 7 → t.posts = s.posts ∧ t.emissions = s.emissions ∧ t.outbound = s.outbound.map fun g =>
    if g.id = f.id then { f with attempts := f.attempts + 1, inFlight := false } else g
  abandoned : 7 ≤ f.attempts → t.outbound = s.outboundBut f.id ∧ t.emissions = s.emissionsBut f.id ∧
    (s.notices.length < 16 → s.notices ++ [.frameAbandoned f.payload.kind f.dest f.sequence echo] <+: t.notices)
  flight : t.lif.flight = s.lif.flight
  yielding : t.lif.yielding = s.lif.yielding
  receiver : t.lif.receiver = s.lif.receiver
  same : { t with
    emissions := s.emissions, outbound := s.outbound, posts := s.posts, notices := s.notices, lost := s.lost
    lif := s.lif } = s

theorem failed (echo : Bool) {f : OutFrame} {s : State} (atRest : AtRest s) (bare : f.held = none)
    (paid : s.ownHalt.owed = .none) (inert : EmissionsInert f.id s) : Failed echo f s (failFrame echo f s) := by
  by_cases last : 7 ≤ f.attempts
  · obtain ⟨x, p, n, l, eq, told⟩ := failFrame_abandons (echo := echo) atRest last bare paid inert
    rw [eq]
    exact ⟨fun few => absurd last (Nat.not_le_of_lt few), fun _ => ⟨rfl, rfl, told⟩, rfl, rfl, rfl, rfl⟩
  · rw [failFrame_of_stays echo s (Nat.lt_of_not_le last) bare]
    exact ⟨fun _ => ⟨rfl, rfl, rfl⟩, fun all => absurd all last, rfl, rfl, rfl, rfl⟩

theorem head?_drop_of_prefix {α : Type} {l m : List α} {x : α} (h : l ++ [x] <+: m) : (m.drop l.length).head? = some x := by
  obtain ⟨more, rfl⟩ := h
  rw [List.append_assoc, List.drop_left]
  rfl

/-- Settles O41. -/
theorem failedAttemptsRaiseTheScore : Obligations.FailedAttemptsRaiseTheScore := by
  intro s fl f rejected atRest flight sends sending found bare inert paid online other low
  have named : f.id = fl.frame := by simpa using List.find?_some found
  have moves (u : State) (score : u.score = s.score) (standing : u.standing = s.standing) (lifecycle : u.lifecycle = s.lifecycle) :
      ∃ n l, moveScore (u.score + 8) .transmit u = { u with
        score := s.score + 8, standing := if 96 ≤ s.score + 8 then .reticent else .engaged, notices := n, lost := l } ∧
        u.notices <+: n := by
    obtain ⟨n, l, moved, told⟩ := moveScore_eq (n := s.score + 8) (c := .transmit) (s := u) (by rw [standing]; exact other) low
    rw [if_pos (lifecycle.trans online)] at moved
    exact ⟨n, l, by rw [score, moved], told⟩
  cases rejected with
  | true =>
    have h := failed false (f := f) (s := s.carried fl.frame) atRest bare paid (by
      intro e held frame
      rw [named] at frame
      exact inert e (List.mem_of_mem_filter held) frame)
    have result := attemptResult_rejected atRest flight found inert
    obtain ⟨u, hu⟩ : ∃ u, u = failFrame false f (s.carried fl.frame) := ⟨_, rfl⟩
    rw [← hu] at h result
    obtain ⟨n, l, moved, told⟩ := moves u (congrArg State.score h.same :) (congrArg State.standing h.same :)
      (congrArg State.lifecycle h.same :)
    have rest : AtRest u := (congrArg State.handed h.same :).trans atRest
    obtain ⟨y, q, referred⟩ := setReference_eq 0 (attemptResult .rejected s)
    rw [result.trans moved] at referred
    have ended := exec_attemptEnd sends true
    rw [if_pos rfl, result.trans moved, referred, settle_of_atRest (by exact rest)] at ended
    refine ⟨_, ended, rfl, rfl, h.flight, h.yielding, h.receiver, fun few => ?_, fun all => ?_, ?_, ?_⟩
    · obtain ⟨posts, -, outbound⟩ := h.stays few
      exact ⟨posts, outbound.trans (by rw [named]; rfl)⟩
    · obtain ⟨outbound, -, tells⟩ := h.abandoned all
      exact ⟨outbound.trans (by rw [named]; rfl), fun room => head?_drop_of_prefix ((tells room).trans told)⟩
    · refine Eq.trans (b := s.emissionsBut fl.frame) ?_ (if_pos (Or.inl rfl)).symm
      by_cases all : 7 ≤ f.attempts
      · refine (h.abandoned all).2.1.trans ?_
        rw [named]
        show (s.emissions.filter fun e => e.frame != fl.frame).filter (fun e => e.frame != fl.frame) = _
        simp only [List.filter_filter, Bool.and_self, State.emissionsBut]
      · exact (h.stays (Nat.lt_of_not_le all)).2.1
    · exact (show _ = _ from congrArg (fun v : State => { v with
        emissions := s.emissions, score := s.score, standing := s.standing, lif := s.lif, bitPhase := s.bitPhase }) h.same)
  | false =>
    have h := failed true (f := f) (s := (followEcho s).grounded) atRest bare paid (by
      intro e held frame
      rw [named] at frame
      exact inert e held frame)
    have result := attemptResult_echo (s := followEcho s) flight found
    obtain ⟨u, hu⟩ : ∃ u, u = failFrame true f (followEcho s).grounded := ⟨_, rfl⟩
    rw [← hu] at h result
    obtain ⟨n, l, moved, told⟩ := moves u (congrArg State.score h.same :) (congrArg State.standing h.same :)
      (congrArg State.lifecycle h.same :)
    have rest : AtRest u := (congrArg State.handed h.same :).trans atRest
    have ended : exec .echoFault s = .next (settle (attemptResult .echo (followEcho s))) := if_pos (sending rfl)
    rw [result.trans moved, settle_of_atRest (by exact rest)] at ended
    refine ⟨_, ended, rfl, rfl, h.flight, h.yielding, h.receiver, fun few => ?_, fun all => ?_, ?_, ?_⟩
    · obtain ⟨posts, -, outbound⟩ := h.stays few
      exact ⟨posts, outbound.trans (by rw [named]; rfl)⟩
    · obtain ⟨outbound, -, tells⟩ := h.abandoned all
      exact ⟨outbound.trans (by rw [named]; rfl), fun room => head?_drop_of_prefix ((tells room).trans told)⟩
    · by_cases all : 7 ≤ f.attempts
      · refine Eq.trans (b := s.emissionsBut fl.frame) ?_ (if_pos (Or.inr all)).symm
        rw [← named]
        exact (h.abandoned all).2.1
      · refine Eq.trans (b := s.emissions) (h.stays (Nat.lt_of_not_le all)).2.1 (if_neg ?_).symm
        rintro (never | often)
        · exact Bool.false_ne_true never
        · exact all often
    · exact (show _ = _ from congrArg (fun v : State => { v with
        score := s.score, standing := s.standing, lif := s.lif, bitPhase := s.bitPhase }) h.same)

end Sys2Proof.Machine

/-! PROOFS. The results of followed frames reach the score; entry into Withdrawn (R110, R122, R138, R139, R144 to R146). -/

namespace Sys2Proof.Machine

/-! ### The Outbound Queue emptied (R138, R139) -/

/-- What the drop of one frame of a silenced station leaves. -/
structure Dropped (f : OutFrame) (s t : State) : Prop where
  outbound : t.outbound = s.outboundBut f.id
  posts : ∀ e ∈ t.posts, e ∈ s.posts ∧ (f.payload.kind = .post → e.frame ≠ some f.id)
  emissions : ∀ e ∈ t.emissions, e ∈ s.emissions
  notices : s.notices <+: t.notices
  same : { t with
    outbound := s.outbound, posts := s.posts, emissions := s.emissions, notices := s.notices, lost := s.lost
    ownHalt := s.ownHalt } = s

theorem notices_notifyAll (l : List Notice) (s : State) : s.notices <+: (notifyAll l s).notices := by
  induction l generalizing s with
  | nil => exact List.prefix_rfl
  | cons n l ih => exact (frames_notify n s).notices.trans (ih _)

theorem dropped {f : OutFrame} {s : State} (atRest : AtRest s) (inert : ∀ e ∈ s.emissions, NoEntryActs e.mark e.stamp s) :
    Dropped f s (dropFrame .silenced s f) := by
  have bare (other : f.payload.kind ≠ .post) : Dropped f s { s with outbound := s.outboundBut f.id } :=
    ⟨rfl, fun e held => ⟨held, fun post => absurd post other⟩, fun e held => held, List.prefix_rfl, rfl⟩
  unfold dropFrame
  cases payload : f.payload with
  | mark m stamp =>
    obtain ⟨n, l, eq, told⟩ := dropEmission_eq (id := f.id) (s := { s with outbound := s.outboundBut f.id }) atRest
      fun e held _ => inert e held
    show Dropped f s (dropEmission f.id { s with outbound := s.outboundBut f.id })
    rw [eq]
    exact ⟨rfl, fun e held => ⟨held, fun post => by rw [payload] at post; cases post⟩,
      fun e held => List.mem_of_mem_filter held, told, rfl⟩
  | post g =>
    show Dropped f s (losePosts (fun e => e.frame == some f.id) .withdrawn { s with outbound := s.outboundBut f.id })
    have told := notices_notifyAll ((s.posts.filter fun e => e.frame == some f.id).map fun e =>
      .postLost e.dest e.sequence e.tag .withdrawn) { s with
        outbound := s.outboundBut f.id, posts := s.posts.filter fun e => !(e.frame == some f.id) }
    rw [losePosts_eq, notifyAll_eq]
    refine ⟨rfl, fun e held => ⟨List.mem_of_mem_filter held, fun _ is => ?_⟩, fun e held => held, told, rfl⟩
    have other := (List.mem_filter.mp held).2
    rw [is] at other
    simp at other
  | answer q k tag =>
    have bare := bare (by rw [payload]; exact FrameKind.noConfusion)
    cases f.dest with
    | broadcast => exact bare
    | station n =>
      have told := frames_notify (.answerDropped tag n q k) { s with outbound := s.outboundBut f.id }
      show Dropped f s (notify (.answerDropped tag n q k) { s with outbound := s.outboundBut f.id })
      rw [notify_eq]
      exact ⟨bare.outbound, bare.posts, bare.emissions, told.notices, rfl⟩
  | halt r k =>
    obtain ⟨outbound, posts, emissions, notices, -⟩ := bare (by rw [payload]; exact FrameKind.noConfusion)
    exact ⟨outbound, posts, emissions, notices, rfl⟩
  | lift =>
    obtain ⟨outbound, posts, emissions, notices, -⟩ := bare (by rw [payload]; exact FrameKind.noConfusion)
    exact ⟨outbound, posts, emissions, notices, rfl⟩
  | presence p => exact bare (by rw [payload]; exact FrameKind.noConfusion)

/-- What the emptying of the queue of a silenced station leaves. -/
structure Emptied (s t : State) : Prop where
  posts : ∀ e ∈ t.posts, e ∈ s.posts ∧ ∀ g ∈ s.outbound, g.payload.kind = .post → e.frame ≠ some g.id
  notices : s.notices <+: t.notices
  same : { t with
    outbound := s.outbound, posts := s.posts, emissions := s.emissions, notices := s.notices, lost := s.lost
    ownHalt := s.ownHalt } = s

theorem emptied_of_bare {s : State} (bare : s.outbound = []) : Emptied s s := by
  refine ⟨fun e held => ⟨held, fun g mem => ?_⟩, List.prefix_rfl, rfl⟩
  rw [bare] at mem
  cases mem

theorem emptied {n : Nat} {s : State} (atRest : AtRest s) (inert : ∀ e ∈ s.emissions, NoEntryActs e.mark e.stamp s)
    (distinct : (s.outbound.map fun g => g.id).Nodup) (enough : s.outbound.length ≤ n) :
    Emptied s (emptyWithin .silenced n s) := by
  induction n generalizing s with
  | zero => exact emptied_of_bare (List.eq_nil_of_length_eq_zero (Nat.le_zero.mp enough))
  | succ n ih =>
    cases first : firstFrame s.outbound with
    | none =>
      have stays : emptyWithin .silenced (n + 1) s = s := by rw [emptyWithin, first]
      rw [stays]
      exact emptied_of_bare (firstFrame_eq_none first)
    | some f =>
      have goes : emptyWithin .silenced (n + 1) s = emptyWithin .silenced n (dropFrame .silenced s f) := by
        rw [emptyWithin, first]
      have mem := firstFrame_mem first
      have h := dropped (f := f) atRest inert
      rw [goes]
      obtain ⟨u, hu⟩ : ∃ u, u = dropFrame .silenced s f := ⟨_, rfl⟩
      rw [← hu] at h ⊢
      have reactions : u.reactions = s.reactions := (congrArg State.reactions h.same :)
      have station : u.station = s.station := (congrArg State.station h.same :)
      have fewer : u.outbound.length ≤ n := by
        have lt : (s.outboundBut f.id).length < s.outbound.length := by
          rw [State.outboundBut]
          exact List.length_filter_lt_length_iff_exists.mpr ⟨f, mem, by simp⟩
        rw [h.outbound]
        omega
      have rest := ih (s := u) ((congrArg State.handed h.same :).trans atRest)
        (fun e held r here => by
          rw [reactions] at here
          rw [station]
          exact inert e (h.emissions e held) r here)
        (by
          rw [h.outbound]
          exact distinct.sublist (List.Sublist.map _ List.filter_sublist))
        fewer
      refine ⟨fun e held => ?_, h.notices.trans rest.notices, ?_⟩
      · obtain ⟨before, others⟩ := rest.posts e held
        obtain ⟨first, own⟩ := h.posts e before
        refine ⟨first, fun g held post => ?_⟩
        by_cases same : g.id = f.id
        · have : g = f := List.inj_on_of_nodup_map distinct held mem same
          rw [this] at post ⊢
          exact own post
        · refine others g ?_ post
          rw [h.outbound]
          exact List.mem_filter.mpr ⟨held, by simpa using same⟩
      · exact (show _ = _ from congrArg (fun v : State => { v with
          outbound := s.outbound, posts := s.posts, emissions := s.emissions, notices := s.notices, lost := s.lost
          ownHalt := s.ownHalt }) rest.same).trans h.same

/-! ### Entry into Withdrawn (R146) -/

/-- What entry into Withdrawn leaves of a station on the line that sends nothing. -/
structure Silenced (c : StandingCause) (s t : State) : Prop where
  score : t.score = 192
  standing : t.standing = .withdrawn
  recovery : t.recovery = 0
  transmitter : t.lif.transmitter = .silent
  told : s.notices.length < 16 → s.notices ++ [.standingChanged s.standing .withdrawn 192 c] <+: t.notices
  emptied : s.lifecycle = .online → t.outbound = [] ∧
    ∀ e ∈ t.posts, e ∈ s.posts ∧ ∀ g ∈ s.outbound, g.payload.kind = .post → e.frame ≠ some g.id
  kept : s.lifecycle ≠ .online → t.outbound = s.outbound ∧ t.posts = s.posts
  same : { t with
    score := s.score, standing := s.standing, recovery := s.recovery, lif := s.lif, closing := s.closing
    outbound := s.outbound, posts := s.posts, emissions := s.emissions, notices := s.notices, lost := s.lost
    ownHalt := s.ownHalt } = s

theorem dropPick_eq {s : State} (idle : s.lif.transmitter = .silent ∨ s.lif.transmitter = .waiting) :
    ∃ p, dropPick s = { s with lif := { s.lif with transmitter := .silent, picked := p } } := by
  unfold dropPick
  rcases idle with silent | waits
  · refine ⟨s.lif.picked, ?_⟩
    rw [silent]
    show s = _
    rw [← silent]
  · exact ⟨none, by rw [waits]⟩

theorem setStanding_of_other {st : Standing} {c : StandingCause} {s : State} (other : s.standing ≠ st) :
    setStanding st c s = notify (.standingChanged s.standing st s.score c) { s with standing := st } :=
  if_neg fun same => other same.symm

theorem silenced {c : StandingCause} {s : State} (atRest : AtRest s) (other : s.standing ≠ .withdrawn)
    (idle : s.lif.transmitter = .silent ∨ s.lif.transmitter = .waiting)
    (inert : ∀ e ∈ s.emissions, NoEntryActs e.mark e.stamp s) (distinct : (s.outbound.map fun g => g.id).Nodup) :
    Silenced c s (enterWithdrawn c s) := by
  have set := setStanding_of_other (st := .withdrawn) (c := c) (s := { s with score := 192, recovery := 0 }) other
  have told := notify_eq (.standingChanged s.standing .withdrawn 192 c)
    { s with score := 192, recovery := 0, standing := .withdrawn }
  have room (h : s.notices.length < 16) := notify_notices_of_room (n := .standingChanged s.standing .withdrawn 192 c)
    (s := { s with score := 192, recovery := 0, standing := .withdrawn }) h
  obtain ⟨u, hu⟩ : ∃ u, u = setStanding .withdrawn c { s with score := 192, recovery := 0 } := ⟨_, rfl⟩
  obtain ⟨p, dropped⟩ := dropPick_eq (s := u) (by rw [hu, set, told]; exact idle)
  have enters : enterWithdrawn c s = if (dropPick u).lifecycle = .online then closeOutbound true (dropPick u) else dropPick u := by
    rw [hu]
    rfl
  rw [← set, ← hu] at told room
  rw [enters, dropped]
  have lifecycle : u.lifecycle = s.lifecycle := by rw [told]
  by_cases online : s.lifecycle = .online
  · rw [if_pos (lifecycle.trans online)]
    obtain ⟨v, hv⟩ : ∃ v : State, v = { u with
      lif := { u.lif with transmitter := .silent, picked := p }, closing := u.closing || true } := ⟨_, rfl⟩
    have closes : closeOutbound true { u with lif := { u.lif with transmitter := .silent, picked := p } } =
        emptyOutbound .silenced v := by rw [hv]; rfl
    have closed : v.canSend = false := by rw [hv, told, State.canSend]; simp
    have bare := outbound_emptyOutbound .silenced v closed
    have h := emptied (n := v.outbound.length) (s := v) (by rw [hv, told]; exact atRest) (by rw [hv, told]; exact inert)
      (by rw [hv, told]; exact distinct) le_rfl
    rw [closes]
    change Emptied v (emptyOutbound .silenced v) at h
    obtain ⟨t, ht⟩ : ∃ t, t = emptyOutbound .silenced v := ⟨_, rfl⟩
    rw [← ht] at bare h ⊢
    obtain ⟨posts, notices, same⟩ := h
    refine ⟨(congrArg State.score same :).trans (by rw [hv, told]), (congrArg State.standing same :).trans (by rw [hv, told]),
      (congrArg State.recovery same :).trans (by rw [hv, told]), (congrArg (fun x : State => x.lif.transmitter) same :).trans (by rw [hv]),
      fun h => ?_, fun _ => ⟨bare, ?_⟩, fun h => absurd online h, ?_⟩
    · rw [hv] at notices
      rw [← room h]
      exact notices
    · rw [hv, told] at posts
      exact posts
    · rw [hv, told] at same
      exact (show _ = _ from congrArg (fun x : State => { x with
        score := s.score, standing := s.standing, recovery := s.recovery, lif := s.lif, closing := s.closing
        outbound := s.outbound, posts := s.posts, emissions := s.emissions, notices := s.notices, lost := s.lost
        ownHalt := s.ownHalt }) same)
  · rw [if_neg (by rw [← lifecycle] at online; exact online)]
    refine ⟨by rw [told], by rw [told], by rw [told], rfl, fun h => ?_, fun h => absurd h online,
      fun _ => ⟨by rw [told], by rw [told]⟩, by rw [told]⟩
    rw [← room h]

/-! ### The result of a followed frame (R110, R144) -/

theorem idle_of_receives {s : State} (receives : s.receives = true) : s.onLine = true ∧ s.lif.receiver ≠ .off ∧
    (s.lif.transmitter = .silent ∨ s.lif.transmitter = .waiting) := by
  simpa [State.receives, and_assoc] using receives

theorem receiveResult_of_other {clean : Bool} {s : State} (other : s.standing ≠ .withdrawn) (onLine : s.onLine = true) :
    receiveResult clean s = moveScore (if clean then s.score - 1 else s.score + 1) .receive s := by
  unfold receiveResult
  rw [onLine, if_pos rfl]
  cases clean with
  | true => exact if_neg other
  | false => rfl

theorem not_truncated_of_whole {f : RxFrame} (whole : frameWhole f = true) : (rxErrors f).contains .truncation = false := by
  have length : f.chars.length = 5 + headerLength f.chars := by
    rw [frameWhole] at whole
    simpa using (Bool.and_eq_true_iff.mp whole).2
  rw [rxErrors, if_pos length]
  cases f.framing <;> cases f.noise <;> cases checkOk f.chars <;> cases formOk f.chars <;> rfl

theorem rejects_of_whole {f : RxFrame} {s : State} (whole : frameWhole f = true) :
    s.rejects f = (!rxClean f && s.lifecycle == .online && s.standing == .engaged) := by
  rw [State.rejects, not_truncated_of_whole whole, Bool.not_false, Bool.and_true]

theorem exec_frameTruncated {s : State} (receives : s.receives = true) (foreign : ∀ r ∈ s.lif.reception, r.afterEcho = false) :
    exec .frameTruncated s = .next (settle (hunt 10 (noReject (receiveResult false s)))) := by
  have own : (if (match s.lif.reception with | some r => r.afterEcho | none => false) then s else receiveResult false s) =
      receiveResult false s := by
    cases reception : s.lif.reception with
    | none => rfl
    | some r => exact if_neg (Bool.eq_false_iff.mp (foreign r reception))
  exact congrArg (fun t => Host.Outcome.next (settle t)) ((if_pos receives).trans (congrArg (fun t => hunt 10 (noReject t)) own))

theorem moveScore_of_top {n : Nat} {c : StandingCause} {s : State} (other : s.standing ≠ .withdrawn) (top : 192 ≤ n) :
    moveScore n c s = enterWithdrawn c s := by
  unfold moveScore
  rw [if_neg other, if_pos top]

/-- R109: a hunt of a station that may not send picks nothing. -/
theorem hunt_of_closed {gone : Nat} {s : State} (idle : s.lif.transmitter = .silent ∨ s.lif.transmitter = .waiting)
    (closed : s.canSend = false) : ∃ l, hunt gone s = { s with lif := l, bitPhase := 0 } ∧ l.transmitter = .silent ∧
      l.picked = none :=
  ⟨_, pick_of_none (s := ({ s with lif := { s.lif with receiver := .hunting, reception := none } } : State).referred gone)
    idle (.inr closed), rfl, rfl⟩

/-- Settles O43. -/
theorem receiveResultsMoveTheScore : Obligations.ReceiveResultsMoveTheScore := by
  intro s f atRest receives other whole standing
  obtain ⟨onLine, -, idle⟩ := idle_of_receives receives
  obtain ⟨y, cleared⟩ := clearYieldAfterEcho_eq s
  obtain ⟨u, hu⟩ : ∃ u : State, u = { s with lif := { s.lif with yielding := y } } := ⟨_, rfl⟩
  have stays : u.standing ≠ .withdrawn := by rw [hu]; exact other
  have score : u.score = s.score := by rw [hu]
  have result : receiveResult (rxClean f) (clearYieldAfterEcho s) =
      moveScore (if rxClean f then s.score - 1 else s.score + 1) .receive u := by
    rw [cleared, ← hu, ← score]
    exact receiveResult_of_other stays (by rw [hu]; exact onLine)
  have ended := exec_receivedFrameEnd (f := f) receives
  rw [rejects_of_whole whole, result] at ended
  refine ⟨fun low => ?_, fun last faulty inert distinct => ?_, fun low foreign => ?_⟩
  · obtain ⟨n, l, moved, -⟩ := moveScore_eq (c := .receive) (n := if rxClean f then s.score - 1 else s.score + 1) stays
      (by split <;> omega)
    obtain ⟨k, hunts, receiver, idle, quiet, reject⟩ := hunt_eq 0 { moveScore (if rxClean f then s.score - 1 else s.score + 1) .receive u with
      lif := { (moveScore (if rxClean f then s.score - 1 else s.score + 1) .receive u).lif with
        rejectDriven := !rxClean f && s.lifecycle == .online && s.standing == .engaged } }
    rw [hunts, moved, hu, settle_of_atRest (by exact atRest)] at ended
    exact ⟨_, ended, rfl, rfl, reject, receiver, idle, quiet, rfl⟩
  · have moves : moveScore (if rxClean f then s.score - 1 else s.score + 1) .receive u = enterWithdrawn .receive u := by
      rw [faulty, last]
      exact moveScore_of_top stays (by decide)
    have h := silenced (c := .receive) (s := u) (by rw [hu]; exact atRest) stays (by rw [hu]; exact idle)
      (by rw [hu]; exact inert) (by rw [hu]; exact distinct)
    rw [moves] at ended
    obtain ⟨v, hv⟩ : ∃ v, v = enterWithdrawn .receive u := ⟨_, rfl⟩
    rw [← hv] at ended h
    have closed : v.canSend = false := by rw [State.canSend, h.standing]; simp
    obtain ⟨k, hunts, silent, bare⟩ := hunt_of_closed (gone := 0) (s := { v with
      lif := { v.lif with rejectDriven := !rxClean f && s.lifecycle == .online && s.standing == .engaged } })
      (.inl h.transmitter) closed
    have rest : AtRest v := (congrArg State.handed h.same :).trans (by rw [hu]; exact atRest)
    rw [hunts, settle_of_atRest (by exact rest)] at ended
    have before : u.notices = s.notices ∧ u.standing = s.standing ∧ u.lifecycle = s.lifecycle ∧ u.outbound = s.outbound ∧
        u.posts = s.posts ∧ u.queue = s.queue ∧ u.axis = s.axis ∧ u.roster = s.roster ∧ u.halts = s.halts ∧
        u.faults = s.faults := by
      rw [hu]
      exact ⟨rfl, rfl, rfl, rfl, rfl, rfl, rfl, rfl, rfl, rfl⟩
    obtain ⟨notices, was, lifecycle, outbound, posts, queue, axis, roster, halts, faults⟩ := before
    have told := h.told
    have emptied := h.emptied
    have kept := h.kept
    rw [notices, was] at told
    rw [lifecycle, posts, outbound] at emptied kept
    refine ⟨_, ended, h.score, h.standing, h.recovery, fun room => head?_drop_of_prefix (told room), fun online => ?_,
      fun listening => kept (by rw [listening]; decide), (congrArg State.queue h.same :).trans queue,
      (congrArg State.axis h.same :).trans axis, (congrArg State.roster h.same :).trans roster,
      (congrArg State.halts h.same :).trans halts, (congrArg State.faults h.same :).trans faults⟩
    exact ⟨(emptied online).1, silent, bare, (emptied online).2⟩
  · have truncated := exec_frameTruncated receives foreign
    obtain ⟨n, l, moved, -⟩ := moveScore_eq (c := .receive) (n := s.score + 1) other (by omega)
    obtain ⟨k, hunts, receiver, -, -, reject⟩ := hunt_eq 10 (noReject (receiveResult false s))
    rw [hunts, receiveResult_of_other other onLine, if_neg (by decide), moved, settle_of_atRest (by exact atRest)] at truncated
    exact ⟨_, truncated, rfl, rfl, reject, receiver, rfl⟩

end Sys2Proof.Machine

/-! PROOFS. FRAME_TAKEN: the refresh of its source's roster entry and the sequence law (R122 to R125, R162, R177). -/

namespace Sys2Proof.Machine

/-! ### A frame that is heard (R123, R162) -/

/-- The notice of the refresh of a frame's source. -/
def State.joined (s : State) (h : RxHeader) : List Notice :=
  (refreshNotice h.source h.kind (s.peer h.source).state).toList

/-- What a clean frame from another station leaves before its dispatch. -/
structure Heard (h : RxHeader) (s t : State) : Prop where
  peer : t.peer h.source = { s.peer h.source with
    state := .present, lapse := s.lapseTime (s.peer h.source), lastSequence := some h.sequence
    postRetry := retryDue h (s.peer h.source).postRetry }
  others : ∀ n : Fin 32, n ≠ h.source → t.peer n = s.peer n
  setAgain : t.lapseSetAgain h.source = true
  length : t.roster.length = s.roster.length
  notices : (s.notices ++ s.joined h).length ≤ 16 → t.notices = s.notices ++ s.joined h
  sequence : t.lif.sequence = s.lif.sequence
  transmitter : t.lif.transmitter = s.lif.transmitter
  same : { t with roster := s.roster, lif := s.lif, notices := s.notices, lost := s.lost } = s

/-- The state with the entry of a station refreshed. -/
def State.refreshed (s : State) (n : Station) : State :=
  setPeer n { s.peer n with state := .present, lapse := s.lapseTime (s.peer n) } s

theorem refreshPeer_of_none {n : Station} {k : FrameKind} {s : State} (silent : refreshNotice n k (s.peer n).state = none) :
    refreshPeer n k s = s.refreshed n := by
  simp only [refreshPeer, silent]
  rfl

theorem refreshPeer_of_some {n : Station} {k : FrameKind} {x : Notice} {s : State}
    (told : refreshNotice n k (s.peer n).state = some x) : refreshPeer n k s = notify x (s.refreshed n) := by
  simp only [refreshPeer, told]
  rfl

theorem refreshPeer_notices (n : Station) (k : FrameKind) (s : State) :
    ((s.notices ++ (refreshNotice n k (s.peer n).state).toList).length ≤ 16 →
      (refreshPeer n k s).notices = s.notices ++ (refreshNotice n k (s.peer n).state).toList) ∧
    ∃ r x l, refreshPeer n k s = { s with roster := r, notices := x, lost := l } := by
  cases notice : refreshNotice n k (s.peer n).state with
  | none =>
    rw [refreshPeer_of_none notice]
    exact ⟨fun _ => (List.append_nil _).symm, _, _, _, rfl⟩
  | some x =>
    rw [refreshPeer_of_some notice]
    refine ⟨fun room => notify_notices_of_room (s := s.refreshed n) ?_, _, _, _, notify_eq _ _⟩
    show s.notices.length < 16
    simpa using room

theorem peer_refreshPeer_of_ne {m n : Station} (k : FrameKind) (s : State) (other : m ≠ n) :
    (refreshPeer n k s).peer m = s.peer m := by
  have set : (s.refreshed n).peer m = s.peer m := peer_setPeer_of_ne _ s other
  cases notice : refreshNotice n k (s.peer n).state with
  | none => rw [refreshPeer_of_none notice, set]
  | some x => rw [refreshPeer_of_some notice, peer_of_tame (tame_notify _ _) m, set]

/-- The state once a frame is followed to its end. -/
def State.noted (s : State) (f : RxFrame) : State := clearYieldAfterEcho (noteFrame f s)

theorem noted_eq (f : RxFrame) (s : State) : ∃ l, s.noted f = { s with lif := l } ∧ l.sequence = s.lif.sequence ∧
    l.transmitter = s.lif.transmitter := by
  obtain ⟨y, cleared⟩ := clearYieldAfterEcho_eq (noteFrame f s)
  exact ⟨_, cleared, rfl, rfl⟩

theorem refreshPeer_length (n : Station) (k : FrameKind) (s : State) : (refreshPeer n k s).roster.length = s.roster.length := by
  have set : (s.refreshed n).roster.length = s.roster.length := List.length_set
  cases notice : refreshNotice n k (s.peer n).state with
  | none => rw [refreshPeer_of_none notice, set]
  | some x => rw [refreshPeer_of_some notice, notify_eq, ← set]

/-- The state once a frame of another station is recorded. -/
def State.heard (s : State) (f : RxFrame) (h : RxHeader) : State := recordFrame h (refreshPeer h.source h.kind (s.noted f))

theorem heard {f : RxFrame} {h : RxHeader} {s : State} (fit : s.roster.length = 32) : Heard h s (s.heard f h) := by
  obtain ⟨l, noted, sequence, transmitter⟩ := noted_eq f s
  obtain ⟨u, hu⟩ : ∃ u, u = s.noted f := ⟨_, rfl⟩
  have inside : h.source.val < u.roster.length := by
    rw [hu, noted]
    show h.source.val < s.roster.length
    rw [fit]
    exact h.source.isLt
  have peers (n : Fin 32) : u.peer n = s.peer n := by rw [hu, noted]; rfl
  have lapse : u.lapseTime (s.peer h.source) = s.lapseTime (s.peer h.source) := by rw [hu, noted]; rfl
  have refreshed := peer_refreshPeer h.source h.kind inside
  obtain ⟨told, r, x, y, frame⟩ := refreshPeer_notices h.source h.kind u
  have length := refreshPeer_length h.source h.kind u
  have again := refreshPeer_lapseSetAgain h.source h.kind inside
  have others (n : Fin 32) (other : n ≠ h.source) := peer_refreshPeer_of_ne h.kind u other
  obtain ⟨v, hv⟩ : ∃ v, v = refreshPeer h.source h.kind u := ⟨_, rfl⟩
  have eq : s.heard f h = recordFrame h v := by rw [hv, hu]; rfl
  rw [← hv] at refreshed told frame length again others
  have within : h.source.val < v.roster.length := by rw [length]; exact inside
  rw [peers, lapse] at refreshed
  rw [peers] at told
  rw [eq]
  have notices : u.notices = s.notices := by rw [hu, noted]
  refine ⟨?_, fun n other => ?_, (recordFrame_lapseSetAgain h within).trans again, ?_, fun room => ?_, ?_, ?_, ?_⟩
  · rw [peer_recordFrame h within, refreshed]
  · exact (peer_setPeer_of_ne _ v other).trans ((others n other).trans (peers n))
  · refine List.length_set.trans (length.trans ?_)
    rw [hu, noted]
  · rw [notices] at told
    exact told room
  · show v.lif.sequence = _
    rw [frame, hu, noted]
    exact sequence
  · show v.lif.transmitter = _
    rw [frame, hu, noted]
    exact transmitter
  · rw [frame, hu, noted]
    rfl

theorem isNew_eq_true {h : RxHeader} {s : State} : s.isNew h = true ↔ NewFrame h s := bne_iff_ne

theorem retriesPost_eq_true {h : RxHeader} {s : State} : s.retriesPost h = true ↔ RetriesPost h s := by
  rw [State.retriesPost, Bool.and_eq_true, beq_iff_eq, beq_iff_eq]

/-- R123 to R125: a clean frame from another station. -/
theorem exec_frameTaken_of_peer {f : RxFrame} {h : RxHeader} {s : State} (receives : s.receives = true)
    (clean : rxClean f = true) (header : rxHeader f = some h) (other : h.source ≠ s.station) (fit : s.roster.length = 32) :
    exec (.frameTaken f) s = .next (settle (if s.isNew h = true ∧ s.retriesPost h = false ∧
      forStation s.station h.dest = true then dispatch h (s.heard f h) else s.heard f h)) := by
  obtain ⟨l, noted, -, -⟩ := noted_eq f s
  have ends : frameEnds f s = takeFromPeer h (s.noted f) := by
    have foreign : ¬ h.source = (s.noted f).station := by rw [noted]; exact other
    have step : frameEnds f s = if h.source = (s.noted f).station then enterConflict h (s.noted f) else takeFromPeer h (s.noted f) := by
      unfold frameEnds
      rw [if_pos receives, if_pos clean, header]
      rfl
    exact step.trans (if_neg foreign)
  have inside : h.source.val < (s.noted f).roster.length := by
    rw [noted]
    show h.source.val < s.roster.length
    rw [fit]
    exact h.source.isLt
  have refreshed := peer_refreshPeer h.source h.kind inside
  have peer : (s.noted f).peer h.source = s.peer h.source := by rw [noted]; rfl
  have station : (s.noted f).station = s.station := by rw [noted]
  have new : (refreshPeer h.source h.kind (s.noted f)).isNew h = s.isNew h := by
    rw [State.isNew, refreshed, peer]
    rfl
  have retries : (refreshPeer h.source h.kind (s.noted f)).retriesPost h = s.retriesPost h := by
    rw [State.retriesPost, refreshed, peer]
    rfl
  have taken : takeFromPeer h (s.noted f) = if (s.isNew h && !s.retriesPost h && forStation s.station h.dest) = true then
      dispatch h (s.heard f h) else s.heard f h := by
    rw [← new, ← retries, ← station]
    rfl
  show Host.Outcome.next (settle (frameEnds f s)) = _
  rw [ends, taken]
  congr 2
  simp only [Bool.and_eq_true, Bool.not_eq_true', and_assoc]

end Sys2Proof.Machine

/-! PROOFS. The dispatch of a frame, the sequence law and the timers (R124, R125, R162 to R165, R171, R177). -/

namespace Sys2Proof.Machine

/-! ### The dispatch by kind (R125) -/

section
variable {h : RxHeader} {s : State}

theorem dispatch_presence (kind : h.kind = .presence) : dispatch h s =
    reconcile h.source (rxPresence h.payload) (recordPresence h.source (rxPresence h.payload) s) := by
  unfold dispatch
  rw [kind]

theorem dispatch_of_left (other : h.kind ≠ .presence) (left : s.lifecycle ≠ .online) : dispatch h s = s := by
  unfold dispatch
  cases kind : h.kind with
  | presence => exact absurd kind other
  | _ => exact if_neg left

section
variable (online : s.lifecycle = .online)
include online

theorem dispatch_halt (kind : h.kind = .halt) : dispatch h s = takeHalt h.source h.payload s := by
  unfold dispatch
  rw [kind]
  exact if_pos online

theorem dispatch_lift (kind : h.kind = .lift) : dispatch h s = clearHalt h.source .lift s := by
  unfold dispatch
  rw [kind]
  exact if_pos online

theorem dispatch_mark {m : Mark} {stamp : Option Position} (kind : h.kind = .mark) (read : rxMark h.payload = some (m, stamp)) :
    dispatch h s = takeArrival { source := h.source, mark := m, stamp } s := by
  unfold dispatch
  rw [kind]
  refine (if_pos online).trans ?_
  simp only [read]

theorem dispatch_unread (kind : h.kind = .mark) (read : rxMark h.payload = none) : dispatch h s = s := by
  unfold dispatch
  rw [kind]
  refine (if_pos online).trans ?_
  simp only [read]

theorem dispatch_answer (kind : h.kind = .answer) : dispatch h s = takeAnswer h.source h.payload s := by
  unfold dispatch
  rw [kind]
  exact if_pos online

theorem dispatch_post (kind : h.kind = .post) : dispatch h s = handPost h.source h.sequence h.payload s := by
  unfold dispatch
  rw [kind]
  exact if_pos online

end
end

/-! ### The roster of a dispatch (R124) -/

/-- What the lapse timers are judged by stays. -/
structure KeepsRoster (s t : State) : Prop where
  roster : t.roster = s.roster
  config : t.config = s.config

theorem KeepsRoster.refl (s : State) : KeepsRoster s s := ⟨rfl, rfl⟩

theorem KeepsRoster.trans {s t u : State} (h : KeepsRoster s t) (k : KeepsRoster t u) : KeepsRoster s u :=
  ⟨k.roster.trans h.roster, k.config.trans h.config⟩

theorem KeepsRoster.ite {c : Prop} [Decidable c] {s t u : State} (h : KeepsRoster s t) (k : KeepsRoster s u) :
    KeepsRoster s (if c then t else u) := by split <;> assumption

theorem Tame.keepsRoster {s t : State} (h : Tame s t) : KeepsRoster s t := ⟨congrArg Kept.roster h.kept, config_of_kept h.kept⟩

theorem KeepsRoster.peer {s t : State} (h : KeepsRoster s t) (n : Station) : t.peer n = s.peer n := by
  rw [State.peer, State.peer, h.roster]

theorem KeepsRoster.lapseSetAgain {s t : State} (h : KeepsRoster s t) (n : Station) : t.lapseSetAgain n = s.lapseSetAgain n :=
  lapseSetAgain_of_same n h.roster h.config

theorem keepsRoster_notify (n : Notice) (s : State) : KeepsRoster s (notify n s) := (tame_notify n s).keepsRoster

theorem keepsRoster_answerPeer (n : Station) (q : Seq) (k : AnswerKind) (tag : Byte) (s : State) :
    KeepsRoster s (answerPeer n q k tag s) := (tame_answerPeer n q k tag s).keepsRoster

theorem keepsRoster_enterHalt (n : Station) (h : HaltEntry) (s : State) : KeepsRoster s (enterHalt n h s) :=
  KeepsRoster.trans (t := { s with halts := s.halts.set n.val (some h) }) ⟨rfl, rfl⟩
    ((keepsRoster_notify _ _).trans (tame_orderStop _ _).keepsRoster)

theorem keepsRoster_clearHalt (n : Station) (w : ClearedWay) (s : State) : KeepsRoster s (clearHalt n w s) := by
  have removed : KeepsRoster s (removeHalt n w s) :=
    KeepsRoster.trans (t := { s with halts := s.halts.set n.val none }) ⟨rfl, rfl⟩ (keepsRoster_notify _ _)
  unfold clearHalt
  split
  · exact .ite removed (removed.trans ⟨rfl, rfl⟩)
  · exact .refl s

theorem keepsRoster_reconcile (n : Station) (p : Presence) (s : State) : KeepsRoster s (reconcile n p s) := by
  unfold reconcile
  split
  · split
    · exact .refl s
    · exact keepsRoster_enterHalt _ _ s
  · exact keepsRoster_clearHalt _ _ s

theorem keepsRoster_takePost (n : Station) (q : Seq) (bytes : List Byte) (s : State) :
    KeepsRoster s (takePost n q bytes s) := by
  have refuse (r : RefusalReason) := keepsRoster_answerPeer n q (.refused r) (byteAt bytes 1) s
  unfold takePost
  refine .ite (refuse _) (.ite (refuse _) (.ite (refuse _) (.ite (refuse _) ?_)))
  split
  · rename_i g _
    have joins : KeepsRoster s (enqueue g (.peer n q) s) := .ite ⟨rfl, rfl⟩ ⟨rfl, rfl⟩
    exact joins.trans (keepsRoster_answerPeer _ _ _ _ _)
  · exact refuse _

theorem keepsRoster_takeAnswer (n : Station) (payload : List Byte) (s : State) : KeepsRoster s (takeAnswer n payload s) := by
  unfold takeAnswer
  simp only
  split
  · rename_i k e _ _
    cases k with
    | taken => exact ⟨rfl, rfl⟩
    | refused r => exact KeepsRoster.trans (t := closePost e.dest e.sequence s) ⟨rfl, rfl⟩ (keepsRoster_notify _ _)
    | finished o => exact KeepsRoster.trans (t := closePost e.dest e.sequence s) ⟨rfl, rfl⟩ (keepsRoster_notify _ _)
  · exact keepsRoster_notify _ _

theorem keepsRoster_dispatch {h : RxHeader} (s : State) (other : h.kind ≠ .presence) : KeepsRoster s (dispatch h s) := by
  by_cases online : s.lifecycle = .online
  · cases kind : h.kind with
    | halt => rw [dispatch_halt online kind]; exact keepsRoster_enterHalt _ _ s
    | lift => rw [dispatch_lift online kind]; exact keepsRoster_clearHalt _ _ s
    | mark =>
      cases read : rxMark h.payload with
      | none => rw [dispatch_unread online kind read]; exact .refl s
      | some m => rw [dispatch_mark online kind read]; exact ⟨rfl, rfl⟩
    | answer => rw [dispatch_answer online kind]; exact keepsRoster_takeAnswer _ _ s
    | post =>
      rw [dispatch_post online kind]
      have later := keepsRoster_takePost h.source h.sequence h.payload { s with free := s.free + 1 }
      exact .ite (.ite ⟨later.roster, later.config⟩ ⟨rfl, rfl⟩) (keepsRoster_takePost _ _ _ s)
    | presence => exact absurd kind other
  · rw [dispatch_of_left other online]
    exact .refl s

/-! ### The sequence law (R124, R177) -/

/-- R163: what a PRESENCE leaves of its source's entry besides the period, the lapse timer and the summary. -/
theorem peer_recordPresence (n : Station) (p : Presence) {s : State} (inside : n.val < s.roster.length) :
    (recordPresence n p s).peer n =
      { s.peer n with period := some p.period, lapse := ms (10 * (3 * p.period.toNat)), summary := some p } :=
  peer_setPeer _ _ inside

/-- What a dispatch leaves of the roster as a frame's record has it. -/
theorem peer_dispatch {h : RxHeader} {s : State} (inside : h.source.val < s.roster.length) :
    ((dispatch h s).peer h.source).state = (s.peer h.source).state ∧
      ((dispatch h s).peer h.source).lastSequence = (s.peer h.source).lastSequence ∧
      ((dispatch h s).peer h.source).postRetry = (s.peer h.source).postRetry ∧
      (s.lapseSetAgain h.source = true → (dispatch h s).lapseSetAgain h.source = true) ∧
      ∀ n : Fin 32, n ≠ h.source → (dispatch h s).peer n = s.peer n := by
  by_cases presence : h.kind = .presence
  · have recorded := peer_recordPresence h.source (rxPresence h.payload) inside
    have again := recordPresence_lapseSetAgain h.source (rxPresence h.payload) inside
    have kept := keepsRoster_reconcile h.source (rxPresence h.payload) (recordPresence h.source (rxPresence h.payload) s)
    rw [dispatch_presence presence]
    have peers := kept.peer
    exact ⟨by rw [peers, recorded], by rw [peers, recorded], by rw [peers, recorded],
      fun _ => (kept.lapseSetAgain _).trans again, fun n other => (peers n).trans (peer_setPeer_of_ne _ s other)⟩
  · have kept := keepsRoster_dispatch s presence
    have peers := kept.peer
    exact ⟨by rw [peers], by rw [peers], by rw [peers], fun again => (kept.lapseSetAgain _).trans again, fun n _ => peers n⟩

/-- What is left of the roster once a clean frame from another station is taken. -/
theorem exec_frameTaken_peer {f : RxFrame} {h : RxHeader} {s : State} (receives : s.receives = true)
    (clean : rxClean f = true) (header : rxHeader f = some h) (other : h.source ≠ s.station) (fit : s.roster.length = 32) :
    ∃ t, exec (.frameTaken f) s = .next t ∧ (t.peer h.source).state = .present ∧
      (t.peer h.source).lastSequence = some h.sequence ∧
      (t.peer h.source).postRetry = retryDue h (s.peer h.source).postRetry ∧ t.lapseSetAgain h.source = true ∧
      ∀ n : Fin 32, n ≠ h.source → t.peer n = s.peer n := by
  have hears := heard (f := f) (h := h) fit
  have taken := exec_frameTaken_of_peer receives clean header other fit
  obtain ⟨u, hu⟩ : ∃ u, u = s.heard f h := ⟨_, rfl⟩
  rw [← hu] at hears taken
  have inside : h.source.val < u.roster.length := by rw [hears.length, fit]; exact h.source.isLt
  have peer := hears.peer
  obtain ⟨state, last, retry, again, others⟩ := peer_dispatch (h := h) inside
  refine ⟨_, taken, ?_⟩
  have settled := fun t => (tame_settle t).keepsRoster
  rw [(settled _).peer, (settled _).lapseSetAgain]
  split
  · exact ⟨by rw [state, peer], by rw [last, peer], by rw [retry, peer], again hears.setAgain,
      fun n ne => ((settled _).peer n).trans ((others n ne).trans (hears.others n ne))⟩
  · exact ⟨by rw [peer], by rw [peer], by rw [peer], hears.setAgain,
      fun n ne => ((settled _).peer n).trans (hears.others n ne)⟩

theorem lapseTime_eq (s : State) (e : RosterEntry) :
    s.lapseTime e = 160000 * (3 * (e.period.getD s.config.presencePeriod).toNat) := by
  show (16000 * (10 * (3 * (e.period.getD s.config.presencePeriod).toNat)) : Nat) = _
  omega

/-- Settles O44. -/
theorem framesTakenFollowTheSequenceLaw : Obligations.FramesTakenFollowTheSequenceLaw := by
  intro s f atRest receives fit due
  have dues (h : RxHeader) : retryDue h (s.peer h.source).postRetry = due h := by
    show _ = if h.kind = .post then _ else if h.kind = .presence then _ else _
    unfold retryDue
    cases h.kind <;> rfl
  refine ⟨fun faulty => ?_, fun h header clean other nothing => ?_, fun h header clean other => ?_⟩
  · obtain ⟨l, noted, -, -⟩ := noted_eq f s
    have ends : frameEnds f s = s.noted f := by
      unfold frameEnds
      rw [if_pos receives, if_neg (by rw [faulty]; decide)]
      rfl
    refine ⟨_, congrArg Host.Outcome.next ((congrArg settle (ends.trans noted)).trans (settle_of_atRest (by exact atRest))), rfl⟩
  · have hears := heard (f := f) (h := h) fit.1
    have taken := exec_frameTaken_of_peer receives clean header other fit.1
    obtain ⟨u, hu⟩ : ∃ u, u = s.heard f h := ⟨_, rfl⟩
    rw [← hu] at hears taken
    have only : (if s.isNew h = true ∧ s.retriesPost h = false ∧ forStation s.station h.dest = true then dispatch h u else u) = u := by
      by_cases acts : s.isNew h = true ∧ s.retriesPost h = false ∧ forStation s.station h.dest = true
      · rw [if_pos acts]
        obtain ⟨new, fresh, meant⟩ := acts
        rcases nothing with old | again | ⟨single, foreign⟩ | ⟨listening, kind⟩
        · exact absurd (isNew_eq_true.mp new) old
        · rw [retriesPost_eq_true.mpr again] at fresh
          cases fresh
        · cases dest : h.dest with
          | broadcast => exact absurd dest single
          | station n =>
            rw [dest] at meant foreign
            exact absurd (congrArg Dest.station (beq_iff_eq.mp meant)) foreign
        · refine dispatch_of_left kind ?_
          rw [show u.lifecycle = s.lifecycle from (congrArg State.lifecycle hears.same :), listening]
          decide
      · exact if_neg acts
    have rest : AtRest u := (congrArg State.handed hears.same :).trans atRest
    rw [only, settle_of_atRest rest] at taken
    refine ⟨u, taken, ?_, hears.others, fun room => ?_, hears.same⟩
    · rw [hears.peer, dues, lapseTime_eq]
    · have few : (s.joined h).length ≤ 1 := by
        rw [State.joined]
        cases refreshNotice h.source h.kind (s.peer h.source).state with
        | none => exact Nat.zero_le _
        | some x => exact le_rfl
      rw [hears.notices (by rw [List.length_append]; omega)]
      refine congrArg (s.notices ++ ·) ?_
      rw [State.joined]
      cases (s.peer h.source).state <;> rfl
  · obtain ⟨t, taken, state, last, retry, -, others⟩ := exec_frameTaken_peer receives clean header other fit.1
    exact ⟨t, taken, state, last, retry.trans (dues h), others⟩

/-! ### The timers (R133, R164, R165, R171) -/

theorem notifyAll_notices_of_room {l : List Notice} {s : State} (room : s.notices.length + l.length ≤ 16) :
    (notifyAll l s).notices = s.notices ++ l := by
  induction l generalizing s with
  | nil => exact (List.append_nil _).symm
  | cons n l ih =>
    rw [List.length_cons] at room
    have told := notify_notices_of_room (n := n) (s := s) (by omega)
    rw [notifyAll_cons, ih (by rw [told, List.length_append, List.length_singleton]; omega), told, List.append_assoc,
      List.singleton_append]

/-- R165: an attempted PRESENCE apart, the one held takes the present summary. -/
theorem requestPresence_in_place {f : OutFrame} {s : State} (sends : s.canSend = true)
    (held : s.outbound.find? OutFrame.isPresence = some f) (fresh : f.attempts = 0) (grounded : f.inFlight = false) :
    requestPresence s = { s with
      outbound := replaceFrame s.outbound { f with payload := .presence s.summary } f.id } := by
  have isPresence := List.find?_some held
  obtain ⟨p, fields⟩ := (isPresence_iff f).mp isPresence
  have any : s.outbound.any OutFrame.isPresence = true := List.any_eq_true.mpr ⟨f, List.mem_of_find?_eq_some held, isPresence⟩
  rw [requestPresence, sends, any]
  exact updatePresence_in_place held fields fresh grounded

theorem requestPresence_of_closed {s : State} (closed : s.canSend = false) : requestPresence s = s :=
  if_neg (by rw [closed]; decide)

theorem exec_answerTimerExpiry (n : Station) (q : Seq) (s : State) : exec (.answerTimerExpiry n q) s =
    .next (notifyAll ((s.posts.filter fun e => e.awaits n q).map fun e => .postLost e.dest e.sequence e.tag .unanswered)
      { s with posts := s.posts.filter fun e => !e.awaits n q }) :=
  congrArg Host.Outcome.next (losePosts_eq _ _ s)

theorem awaits_iff (e : PostEntry) (n : Station) (q : Seq) :
    e.awaits n q = true ↔ e.dest = n ∧ e.sequence = q ∧ e.state = .awaitingTake := by
  simp only [PostEntry.awaits, PostEntry.isFor, Bool.and_eq_true, beq_iff_eq, and_assoc]

/-- The state once a Present peer has lapsed, before its posts are given up. -/
def State.lapsed (s : State) (n : Station) : State :=
  setPeer n { s.peer n with state := .lapsed, lapse := 0, lastSequence := none, postRetry := none } s

theorem lapsePeer_eq (n : Station) (s : State) : lapsePeer n s =
    losePosts (fun x => x.dest == n) .lapsed (notify (.peerLapsed n (s.lapseUnits (s.peer n))) (s.lapsed n)) := rfl

/-- Settles O50. -/
theorem timersExpire : Obligations.TimersExpire := by
  intro s n q fit lapseTime
  have inside (k : Fin 32) : k.val < s.roster.length := by rw [fit.1]; exact k.isLt
  refine ⟨fun online => ?_, fun onLine present running => ?_, fun f h receives clean header source other => ?_,
    fun e held dest sequence awaiting => ?_⟩
  · have expired : exec .presenceTimerExpiry s = .next (requestPresence (startPresenceTimer s)) := if_pos online
    have offers := offers_requestPresence (startPresenceTimer s)
    have sends (other : s.standing ≠ .withdrawn) : (startPresenceTimer s).canSend = true := by
      show (s.lifecycle == .online && s.standing != .withdrawn) = true
      rw [online, bne_iff_ne.mpr other]
      rfl
    refine ⟨_, expired, offers.presenceTimer, fun other bare room => ?_, fun f held other fresh grounded => ?_,
      fun withdrawn => ?_, ?_⟩
    · have none_held : s.outbound.any OutFrame.isPresence = false := by
        rw [List.any_eq_false]
        exact fun f mem is => bare f mem (beq_iff_eq.mp is)
      exact (outbound_of_admission (requestPresence_of_none (s := startPresenceTimer s) (sends other) none_held room) :)
    · rw [requestPresence_in_place (s := startPresenceTimer s) (sends other) held fresh grounded]
      exact ⟨rfl, rfl⟩
    · rw [requestPresence_of_closed (s := startPresenceTimer s) (by
        show (s.lifecycle == .online && s.standing != .withdrawn) = false
        rw [withdrawn]
        simp)]
      exact ⟨rfl, rfl⟩
    · exact (show _ = _ from congrArg (fun v : State => { v with
        presenceTimer := s.presenceTimer, outbound := s.outbound, nextFrame := s.nextFrame, lif := s.lif
        ownHalt := s.ownHalt }) offers.same)
  · have not_again : s.lapseSetAgain n = false := by
      rw [State.lapseSetAgain, lapseTime_eq]
      exact beq_eq_false_iff_ne.mpr running
    have expired : exec (.lapseTimerExpiry n) s = .next (lapsePeer n s) := if_pos (by rw [onLine, present, not_again]; rfl)
    have told := notify_eq (.peerLapsed n (s.lapseUnits (s.peer n))) (s.lapsed n)
    have room (h : s.notices.length < 16) := notify_notices_of_room (n := .peerLapsed n (s.lapseUnits (s.peer n)))
      (s := s.lapsed n) h
    have peer : (s.lapsed n).peer n = _ := peer_setPeer _ _ (inside n)
    have others (k : Fin 32) (other : k ≠ n) : (s.lapsed n).peer k = s.peer k := peer_setPeer_of_ne _ s other
    rw [lapsePeer_eq, losePosts_eq] at expired
    obtain ⟨u, hu⟩ : ∃ u, u = notify (.peerLapsed n (s.lapseUnits (s.peer n))) (s.lapsed n) := ⟨_, rfl⟩
    rw [← hu] at expired told room
    have posts : u.posts = s.posts := by rw [told]; rfl
    have roster : u.roster = (s.lapsed n).roster := by rw [told]
    rw [posts] at expired
    have all := notifyAll_eq ((s.posts.filter fun x => x.dest == n).map fun e => .postLost e.dest e.sequence e.tag .lapsed)
      { u with posts := s.posts.filter fun e => !(e.dest == n) }
    refine ⟨_, expired, ?_, fun k other => ?_, ?_, fun fits => ?_, ?_⟩
    · rw [all]
      show u.peer n = _
      rw [State.peer, roster]
      exact peer
    · rw [all]
      show u.peer k = _
      rw [State.peer, roster]
      exact others k other
    · rw [all]
      rfl
    · have few := List.length_filter_le (fun x : PostEntry => x.dest == n) s.posts
      have notices := room (by omega)
      have base : (s.lapsed n).notices = s.notices := rfl
      rw [notifyAll_notices_of_room (by
        show u.notices.length + _ ≤ 16
        rw [notices, base, List.length_append, List.length_map, List.length_singleton]
        omega)]
      show u.notices ++ _ = _
      rw [notices, List.append_assoc]
      rfl
    · rw [all, told]
      rfl
  · obtain ⟨t, taken, state, -, -, again, -⟩ := exec_frameTaken_peer receives clean header (by rw [source]; exact other) fit.1
    rw [source] at state again
    exact ⟨t, taken, state, execLapseTimerExpiry_of_setAgain again⟩
  · have all := notifyAll_eq ((s.posts.filter fun e => e.awaits n q).map fun e => .postLost e.dest e.sequence e.tag .unanswered)
      { s with posts := s.posts.filter fun e => !e.awaits n q }
    refine ⟨_, exec_answerTimerExpiry n q s, ?_, fun room => ?_, ?_⟩
    · rw [all]
      rfl
    · have mem : e ∈ s.posts.filter fun e => e.awaits n q :=
        List.mem_filter.mpr ⟨held, (awaits_iff e n q).mpr ⟨dest, sequence, awaiting⟩⟩
      cases lost : s.posts.filter fun e => e.awaits n q with
      | nil => rw [lost] at mem; cases mem
      | cons x more =>
        have first : x ∈ s.posts.filter fun e => e.awaits n q := by rw [lost]; exact List.mem_cons_self
        obtain ⟨xHeld, xAwaits⟩ := List.mem_filter.mp first
        obtain ⟨xDest, xSequence, xAwaiting⟩ := (awaits_iff x n q).mp xAwaits
        by_cases same : x = e
        · refine .inl ?_
          rw [same, List.map_cons, notifyAll_cons]
          have told := notices_notifyAll (more.map fun e => .postLost e.dest e.sequence e.tag .unanswered)
            (notify (.postLost e.dest e.sequence e.tag .unanswered) { s with posts := s.posts.filter fun e => !e.awaits n q })
          rw [notify_notices_of_room (by exact room)] at told
          rw [← dest, ← sequence] at told ⊢
          exact head?_drop_of_prefix told
        · exact .inr ⟨x, xHeld, same, xDest, xSequence, xAwaiting⟩
    · rw [all]

end Sys2Proof.Machine

/-! PROOFS. HALT, LIFT and PRESENCE as they are taken (R99 to R101, R163). -/

namespace Sys2Proof.Machine

/-! ### The halt list (R99, R100) -/

/-- R99, R101: an entry added or replaced, with the stop it makes, taken to its end. -/
structure HaltTaken (n : Station) (h : HaltEntry) (s t : State) : Prop where
  entry : t.haltOf n = some h
  others : ∀ m : Fin 32, m ≠ n → t.haltOf m = s.haltOf m
  running : ∀ e ∈ t.queue, e.state = .running
  stop : StopMade h.kind s t
  told : s.notices.length < 16 → .haltEntered n h.reason h.kind h.learned ∈ t.notices
  same : { t with
    halts := s.halts, queue := s.queue, axis := s.axis, notices := s.notices, lost := s.lost
    outbound := s.outbound, nextFrame := s.nextFrame, lif := s.lif } = s

/-- The state but for what a stop changes, with nothing handed on left. -/
theorem Stops.frame {s t : State} (h : Stops s t) (atRest : AtRest s) : { t with
    queue := s.queue, axis := s.axis, notices := s.notices, lost := s.lost, outbound := s.outbound
    nextFrame := s.nextFrame, lif := s.lif, handed := .empty } = s := by
  have same := h.same
  dsimp only [State.besidesStop, State.besidesFrames, State.besidesAdmission] at same
  have back := congrArg (fun v : State => { v with
    queue := s.queue, axis := s.axis, notices := s.notices, lost := s.lost, outbound := s.outbound
    nextFrame := s.nextFrame, lif := s.lif, handed := .empty }) same
  refine (show _ = _ from back).trans ?_
  show { s with handed := _ } = s
  rw [← show s.handed = .empty from atRest]

theorem settle_enterHalt {n : Station} {h : HaltEntry} {s : State} (atRest : AtRest s) (order : QueueInOrder s)
    (fit : s.halts.length = 32) : HaltTaken n h s (settle (enterHalt n h s)) := by
  have told := notify_eq (.haltEntered n h.reason h.kind h.learned) { s with halts := s.halts.set n.val (some h) }
  have room (few : s.notices.length < 16) := notify_notices_of_room (n := .haltEntered n h.reason h.kind h.learned)
    (s := { s with halts := s.halts.set n.val (some h) }) few
  obtain ⟨u, hu⟩ : ∃ u, u = notify (.haltEntered n h.reason h.kind h.learned) { s with halts := s.halts.set n.val (some h) } :=
    ⟨_, rfl⟩
  have enters : enterHalt n h s = orderStop h.kind u := by rw [hu]; rfl
  rw [← hu] at told room
  have queue : u.queue = s.queue := by rw [told]
  have axis : u.axis = s.axis := by rw [told]
  have config : u.config = s.config := by rw [told]
  have halts : u.halts = s.halts.set n.val (some h) := by rw [told]
  have ordered : QueueInOrder u := (queueInOrder_iff u).2 (((queueInOrder_iff s).1 order).of_same queue (by rw [axis]))
  have rest : AtRest u := by rw [told]; exact atRest
  have stops := stops_orderStop h.kind u
  have made := stopMade_orderStop h.kind ordered
  have left := queue_orderStop h.kind ordered
  have settled := settle_of_onlyEvaluates (stops.onlyEvaluates rest) (headStays_orderStop h.kind ordered)
  have back := stops.frame rest
  rw [enters, settled]
  obtain ⟨v, hv⟩ : ∃ v, v = orderStop h.kind u := ⟨_, rfl⟩
  rw [← hv] at stops made left back ⊢
  have list : v.halts = s.halts.set n.val (some h) := (congrArg State.halts stops.same :).trans halts
  have inside : n.val < s.halts.length := by rw [fit]; exact n.isLt
  refine ⟨?_, fun m other => ?_, fun e held => ?_, made.congr queue axis config rfl rfl, fun few => ?_, ?_⟩
  · show v.halts.getD n.val none = _
    rw [list, getD_set_same inside]
  · show v.halts.getD m.val none = s.halts.getD m.val none
    rw [list, getD_set_of_ne fun h => other (Fin.ext h)]
  · change e ∈ v.queue at held
    rcases left with none_left | ⟨x, running, only⟩
    · rw [none_left] at held
      cases held
    · rw [only, List.mem_singleton] at held
      rw [held]
      exact running
  · exact stops.notices.subset (by rw [room few]; simp)
  · rw [told] at back
    exact (show _ = _ from congrArg (fun w : State => { w with
      halts := s.halts, queue := s.queue, axis := s.axis, notices := s.notices, lost := s.lost
      outbound := s.outbound, nextFrame := s.nextFrame, lif := s.lif }) back)

/-- R100: an entry removed while no head starts. -/
structure HaltCleared (n : Station) (w : ClearedWay) (s t : State) : Prop where
  entry : t.haltOf n = none
  others : ∀ m : Fin 32, m ≠ n → t.haltOf m = s.haltOf m
  told : (s.haltOf n).isSome = true → s.notices.length < 16 → .haltCleared n w ∈ t.notices
  same : { t with halts := s.halts, notices := s.notices, lost := s.lost } = s

theorem headStays_of_same {s t : State} (h : HeadStays s) (queue : t.queue = s.queue) (lifecycle : t.lifecycle = s.lifecycle)
    (gates : ∀ g, t.gateOpen g = s.gateOpen g) : HeadStays t := by
  intro e head waits
  rw [queue] at head
  rw [lifecycle, gates]
  exact h e head waits

theorem clearHalt_of_none {n : Station} {w : ClearedWay} {s : State} (free : s.haltOf n = none) : clearHalt n w s = s := by
  rw [clearHalt, free]

theorem clearHalt_of_some {n : Station} {w : ClearedWay} {s : State} (held : (s.haltOf n).isSome = true) :
    clearHalt n w s = haltsChanged (removeHalt n w s) := by
  obtain ⟨h, is⟩ := Option.isSome_iff_exists.mp held
  rw [clearHalt, is]

theorem removeHalt_notices {n : Station} {w : ClearedWay} {s : State} (room : s.notices.length < 16) :
    (removeHalt n w s).notices = s.notices ++ [.haltCleared n w] :=
  notify_notices_of_room (s := { s with halts := s.halts.set n.val none }) room

theorem settle_clearHalt {n : Station} {w : ClearedWay} {s : State} (atRest : AtRest s) (stays : HeadStays s) :
    HaltCleared n w s (settle (clearHalt n w s)) := by
  cases held : (s.haltOf n).isSome with
  | false =>
    rw [Option.isSome_eq_false_iff, Option.isNone_iff_eq_none] at held
    rw [clearHalt_of_none held, settle_of_atRest atRest]
    exact ⟨held, fun _ _ => rfl, fun is => absurd is (by rw [held]; decide), rfl⟩
  | true =>
    have removed := removeHalt_eq n w s
    have entry := haltOf_removeHalt n n w s
    have others (m : Fin 32) := haltOf_removeHalt n m w s
    have notices := removeHalt_notices (n := n) (w := w) (s := s)
    rw [clearHalt_of_some held]
    obtain ⟨u, hu⟩ : ∃ u, u = removeHalt n w s := ⟨_, rfl⟩
    rw [← hu] at removed entry others notices ⊢
    have rest : AtRest u := by rw [removed]; exact atRest
    have still : HeadStays u := headStays_of_same stays (by rw [removed]) (by rw [removed]) fun g => by rw [removed]; cases g <;> rfl
    have settled : settle (haltsChanged u) = u := by
      unfold haltsChanged
      split
      · exact settle_of_atRest rest
      · exact settle_handEvaluate_of_headStays rest still
    rw [settled]
    refine ⟨entry.trans (if_pos rfl), fun m other => (others m).trans (if_neg other), fun _ few => ?_, by rw [removed]⟩
    rw [notices few]
    simp

/-- R11, R100: the DWELL that waits starts once the last entry is removed. -/
theorem settle_clearHalt_of_dwell {n : Station} {w : ClearedWay} {x : Entry} {k : Nat} {s : State} (atRest : AtRest s)
    (fit : s.halts.length = 32) (dwell : DwellWaits x k s) (online : s.lifecycle = .online) (faultless : s.faults = .empty)
    (calm : s.ownHalt.raised = false) (held : (s.haltOf n).isSome = true) (alone : ∀ m : Fin 32, m ≠ n → s.haltOf m = none) :
    (settle (clearHalt n w s)).haltListed = false ∧ DwellStarts x k s (settle (clearHalt n w s)) ∧
      { settle (clearHalt n w s) with
        halts := s.halts, queue := s.queue, axis := s.axis, notices := s.notices, lost := s.lost } = s := by
  have removed := removeHalt_eq n w s
  have others (m : Fin 32) := haltOf_removeHalt n m w s
  have length : (removeHalt n w s).halts.length = 32 := by rw [halts_removeHalt, List.length_set, fit]
  rw [clearHalt_of_some held]
  obtain ⟨u, hu⟩ : ∃ u, u = removeHalt n w s := ⟨_, rfl⟩
  rw [← hu] at removed others length ⊢
  have unlisted : u.haltListed = false := haltListed_of_haltOf_none length fun m => by
    rw [others]
    split
    · rfl
    · exact alone m ‹_›
  have may : u.mayStart = true := (mayStart_iff u).mpr
    ⟨by rw [removed]; show s.faults.nonempty = false; rw [faultless]; rfl, by rw [removed]; exact calm, unlisted,
      by rw [removed]; exact online⟩
  have changed : haltsChanged u = handEvaluate u := if_neg (by rw [unlisted]; decide)
  have settled : settle (haltsChanged u) = u.dwelling x k := by
    rw [changed]
    exact settle_handEvaluate_of_dwellWaits (by rw [removed]; exact atRest) (by rw [removed]; exact dwell) may
  rw [settled]
  exact ⟨unlisted, ⟨rfl, by rw [removed]; rfl⟩, by rw [removed]; rfl⟩

/-! ### HALT and LIFT (R99, R100) -/

/-- R124: a new frame that is no retry of a POST is dispatched. -/
theorem exec_frameTaken_of_new {f : RxFrame} {h : RxHeader} {s : State} (receives : s.receives = true)
    (clean : rxClean f = true) (header : rxHeader f = some h) (other : h.source ≠ s.station) (fit : s.roster.length = 32)
    (new : NewFrame h s) (fresh : ¬ RetriesPost h s) (meant : forStation s.station h.dest = true) :
    exec (.frameTaken f) s = .next (settle (dispatch h (s.heard f h))) := by
  have retry : s.retriesPost h = false := Bool.eq_false_iff.mpr fun is => fresh (retriesPost_eq_true.mp is)
  have taken := exec_frameTaken_of_peer receives clean header other fit
  rw [if_pos ⟨isNew_eq_true.mpr new, retry, meant⟩] at taken
  exact taken

theorem Heard.length_notices {h : RxHeader} {s t : State} (hears : Heard h s t) (room : s.notices.length < 15) :
    t.notices.length < 16 := by
  have few : (s.joined h).length ≤ 1 := by
    rw [State.joined]
    cases refreshNotice h.source h.kind (s.peer h.source).state with
    | none => exact Nat.zero_le _
    | some x => exact le_rfl
  rw [hears.notices (by rw [List.length_append]; omega), List.length_append]
  omega

/-- What is heard leaves as it was all that the blocks of the axis and the halt list read. -/
structure Heard.Same (s u : State) : Prop where
  atRest : AtRest s → AtRest u
  order : QueueInOrder s → QueueInOrder u
  halts : u.halts = s.halts
  queue : u.queue = s.queue
  axis : u.axis = s.axis
  config : u.config = s.config
  lifecycle : u.lifecycle = s.lifecycle
  faults : u.faults = s.faults
  ownHalt : u.ownHalt = s.ownHalt
  gates : ∀ g, u.gateOpen g = s.gateOpen g

theorem Heard.facts {h : RxHeader} {s u : State} (hears : Heard h s u) : Heard.Same s u :=
  ⟨(congrArg State.handed hears.same :).trans, fun order => (queueInOrder_iff u).2 (((queueInOrder_iff s).1 order).of_same
      (congrArg State.queue hears.same :) (congrArg (fun v : State => v.axis.state) hears.same :)),
    (congrArg State.halts hears.same :), (congrArg State.queue hears.same :), (congrArg State.axis hears.same :),
    (congrArg State.config hears.same :), (congrArg State.lifecycle hears.same :), (congrArg State.faults hears.same :),
    (congrArg State.ownHalt hears.same :), fun g => (show u.gateOpen g = _ from by
      have same := congrArg (fun v : State => v.gateOpen g) hears.same
      cases g <;> exact same)⟩

/-- Settles O45. -/
theorem haltsAndLiftsAreTaken : Obligations.HaltsAndLiftsAreTaken := by
  intro s f h x k atRest order receives fit online clean header other dest new
  have hears := heard (f := f) (h := h) fit.1
  have meant : forStation s.station h.dest = true := by rw [dest]; rfl
  have takes (kind : h.kind ≠ .post) := exec_frameTaken_of_new receives clean header other fit.1 new (fun retry => kind retry.1) meant
  obtain ⟨u, hu⟩ : ∃ u, u = s.heard f h := ⟨_, rfl⟩
  rw [← hu] at hears takes
  have facts := hears.facts
  have fitU : u.halts.length = 32 := by rw [facts.halts, fit.2]
  have haltOf (n : Fin 32) : u.haltOf n = s.haltOf n := by rw [State.haltOf, State.haltOf, facts.halts]
  have onlineU : u.lifecycle = .online := facts.lifecycle.trans online
  refine ⟨fun kind => ?halted, fun kind stays => ?lifted, fun kind dwell faultless calm held alone => ?starts⟩
  case halted =>
    have taken := takes (by rw [kind]; decide)
    rw [dispatch_halt onlineU kind] at taken
    obtain ⟨entry, others, running, stop, told, same⟩ := settle_enterHalt (n := h.source)
      (h := { reason := byteAt h.payload 0, kind := rxStopKind (byteAt h.payload 1), learned := .frame })
      (facts.atRest atRest) (facts.order order) fitU
    have made := stop.congr facts.queue facts.axis facts.config rfl rfl
    refine ⟨_, taken, entry, fun n ne => (others n ne).trans (haltOf n), running, fun atOnce => ?_, made,
      fun room => told (hears.length_notices room), ?_⟩
    · exact (stop.2.1 (.inl (if_neg atOnce))).1
    · have back := congrArg (fun v : State => { v with
        roster := s.roster, halts := s.halts, queue := s.queue, axis := s.axis, notices := s.notices
        lost := s.lost, outbound := s.outbound, nextFrame := s.nextFrame, lif := s.lif }) same
      have before := congrArg (fun v : State => { v with
        roster := s.roster, halts := s.halts, queue := s.queue, axis := s.axis, notices := s.notices
        lost := s.lost, outbound := s.outbound, nextFrame := s.nextFrame, lif := s.lif }) hears.same
      exact (show _ = _ from back).trans (show _ = _ from before)
  case lifted =>
    have taken := takes (by rw [kind]; decide)
    rw [dispatch_lift onlineU kind] at taken
    obtain ⟨entry, others, told, same⟩ := settle_clearHalt (n := h.source) (w := .lift) (facts.atRest atRest)
      (headStays_of_same stays facts.queue facts.lifecycle facts.gates)
    refine ⟨_, taken, entry, fun n ne => (others n ne).trans (haltOf n), fun held room => ?_, ?_⟩
    · exact told (by rw [haltOf]; exact held) (hears.length_notices room)
    · have back := congrArg (fun v : State => { v with
        roster := s.roster, halts := s.halts, notices := s.notices, lost := s.lost, lif := s.lif }) same
      have before := congrArg (fun v : State => { v with halts := s.halts }) hears.same
      exact (show _ = _ from back).trans (show _ = _ from before)
  case starts =>
    have taken := takes (by rw [kind]; decide)
    rw [dispatch_lift onlineU kind] at taken
    obtain ⟨unlisted, begins, same⟩ := settle_clearHalt_of_dwell (n := h.source) (w := .lift) (facts.atRest atRest) fitU
      ⟨facts.queue.trans dwell.1, dwell.2⟩ onlineU (facts.faults.trans faultless) (by rw [facts.ownHalt]; exact calm)
      (by rw [haltOf]; exact held) fun n ne => (haltOf n).trans (alone n ne)
    refine ⟨_, taken, unlisted, ⟨begins.1, by rw [← facts.axis]; exact begins.2⟩, ?_⟩
    have back := congrArg (fun v : State => { v with
      roster := s.roster, halts := s.halts, queue := s.queue, axis := s.axis, notices := s.notices, lost := s.lost
      lif := s.lif }) same
    have before := congrArg (fun v : State => { v with halts := s.halts, queue := s.queue, axis := s.axis }) hears.same
    exact (show _ = _ from back).trans (show _ = _ from before)

end Sys2Proof.Machine

/-! PROOFS. PRESENCE as it is taken (R101, R163). -/

namespace Sys2Proof.Machine

/-- Another roster is nothing to the blocks of the axis and the halt list. -/
theorem Heard.Same.of_roster {s u v : State} (h : Heard.Same s u) (same : { v with roster := u.roster } = u) : Heard.Same s v :=
  ⟨fun rest => (congrArg State.handed same :).trans (h.atRest rest),
    fun order => (queueInOrder_iff v).2 (((queueInOrder_iff u).1 (h.order order)).of_same
      (congrArg State.queue same :) (congrArg (fun w : State => w.axis.state) same :)),
    (congrArg State.halts same :).trans h.halts, (congrArg State.queue same :).trans h.queue,
    (congrArg State.axis same :).trans h.axis, (congrArg State.config same :).trans h.config,
    (congrArg State.lifecycle same :).trans h.lifecycle, (congrArg State.faults same :).trans h.faults,
    (congrArg State.ownHalt same :).trans h.ownHalt, fun g => by
      refine Eq.trans ?_ (h.gates g)
      have gate := congrArg (fun w : State => w.gateOpen g) same
      cases g <;> exact gate⟩

theorem reconcile_of_held {n : Station} {p : Presence} {s : State} (raised : p.haltRaised = true)
    (held : (s.haltOf n).isSome = true) : reconcile n p s = s := by
  obtain ⟨h, is⟩ := Option.isSome_iff_exists.mp held
  rw [reconcile, raised, is]
  rfl

theorem reconcile_of_new {n : Station} {p : Presence} {s : State} (raised : p.haltRaised = true) (free : s.haltOf n = none) :
    reconcile n p s = enterHalt n { reason := p.reason, kind := .decelerating, learned := .presence } s := by
  rw [reconcile, raised, free]
  rfl

theorem reconcile_of_clear {n : Station} {p : Presence} {s : State} (clear : p.haltRaised = false) :
    reconcile n p s = clearHalt n .presence s := by
  rw [reconcile, clear]
  rfl

theorem period_max (b : Byte) : (if b.toNat < 2 then (2 : Byte) else b).toNat = max 2 b.toNat := by
  split
  · show 2 = _
    omega
  · omega

/-- Settles O46. -/
theorem presenceIsRecordedAndReconciled : Obligations.PresenceIsRecordedAndReconciled := by
  intro s f h x k atRest order receives fit clean header kind other dest new raised
  have hears := heard (f := f) (h := h) fit.1
  have meant : forStation s.station h.dest = true := by rw [dest]; rfl
  have taken := exec_frameTaken_of_new receives clean header other fit.1 new (fun retry => FrameKind.noConfusion (kind.symm.trans retry.1)) meant
  obtain ⟨u, hu⟩ : ∃ u, u = s.heard f h := ⟨_, rfl⟩
  rw [← hu] at hears taken
  rw [dispatch_presence kind] at taken
  obtain ⟨p, hp⟩ : ∃ p, p = rxPresence h.payload := ⟨_, rfl⟩
  have flag : p.haltRaised = raised := by rw [hp]; rfl
  have recorded := peer_recordPresence h.source p (s := u) (by rw [hears.length, fit.1]; exact h.source.isLt)
  have frame : { recordPresence h.source p u with roster := u.roster } = u := rfl
  rw [← hp] at taken
  obtain ⟨v, hv⟩ : ∃ v, v = recordPresence h.source p u := ⟨_, rfl⟩
  rw [← hv] at taken recorded frame
  have facts := hears.facts.of_roster frame
  have fitV : v.halts.length = 32 := by rw [facts.halts, fit.2]
  have haltOf (n : Fin 32) : v.haltOf n = s.haltOf n := by rw [State.haltOf, State.haltOf, facts.halts]
  have kept := (keepsRoster_reconcile h.source p v).trans (tame_settle (reconcile h.source p v)).keepsRoster
  have before : { v with roster := s.roster, lif := s.lif, notices := s.notices, lost := s.lost } = s := by
    have step := congrArg (fun w : State => { w with
      roster := s.roster, lif := s.lif, notices := s.notices, lost := s.lost }) frame
    exact (show _ = _ from step).trans hears.same
  refine ⟨fun stays => ?_, fun clear dwell online faultless calm held alone => ?_⟩
  · have peer : (settle (reconcile h.source p v)).peer h.source = _ := (kept.peer _).trans recorded
    have stays : HeadStays v := headStays_of_same stays facts.queue facts.lifecycle facts.gates
    refine ⟨_, taken, by rw [peer, hears.peer], by rw [peer, hears.peer], by rw [peer, hp]; rfl, ?_, by rw [peer, hp]; rfl, ?_⟩
    · rw [peer]
      show (16000 * (10 * (3 * p.period.toNat)) : Nat) = _
      rw [show p.period.toNat = max 2 (byteAt h.payload 0).toNat by rw [hp]; exact period_max _]
      omega
    cases is : raised with
    | false =>
      rw [is] at flag
      rw [reconcile_of_clear flag]
      obtain ⟨entry, others, -, same⟩ := settle_clearHalt (n := h.source) (w := .presence) (facts.atRest atRest) stays
      refine ⟨fun n ne => (others n ne).trans (haltOf n), entry, fun never => Bool.noConfusion never,
        fun _ => ⟨(congrArg State.queue same :).trans facts.queue, (congrArg State.axis same :).trans facts.axis⟩, ?_⟩
      have back := congrArg (fun w : State => { w with
        roster := s.roster, halts := s.halts, queue := s.queue, axis := s.axis, notices := s.notices
        lost := s.lost, outbound := s.outbound, nextFrame := s.nextFrame, lif := s.lif }) same
      have before := congrArg (fun w : State => { w with
        halts := s.halts, queue := s.queue, axis := s.axis, outbound := s.outbound, nextFrame := s.nextFrame }) before
      exact (show _ = _ from back).trans (show _ = _ from before)
    | true =>
      rw [is] at flag
      cases entered : s.haltOf h.source with
      | none =>
        rw [reconcile_of_new flag ((haltOf _).trans entered)]
        obtain ⟨entry, others, running, stop, told, same⟩ := settle_enterHalt (n := h.source)
          (h := { reason := p.reason, kind := .decelerating, learned := .presence }) (facts.atRest atRest) (facts.order order) fitV
        have reason : p.reason = byteAt h.payload 3 := by
          rw [hp]
          exact if_pos is
        refine ⟨fun n ne => (others n ne).trans (haltOf n), entry.trans (by rw [reason]; rfl),
          fun _ _ => stop.congr facts.queue facts.axis facts.config rfl rfl, fun never => ?_, ?_⟩
        · rcases never with never | never <;> cases never
        · have back := congrArg (fun w : State => { w with
            roster := s.roster, halts := s.halts, queue := s.queue, axis := s.axis, notices := s.notices
            lost := s.lost, outbound := s.outbound, nextFrame := s.nextFrame, lif := s.lif }) same
          have before := congrArg (fun w : State => { w with
            halts := s.halts, queue := s.queue, axis := s.axis, outbound := s.outbound, nextFrame := s.nextFrame }) before
          exact (show _ = _ from back).trans (show _ = _ from before)
      | some e =>
        have held : (v.haltOf h.source).isSome = true := by rw [haltOf, entered]; rfl
        rw [reconcile_of_held flag held, settle_of_atRest (facts.atRest atRest)]
        refine ⟨fun n _ => haltOf n, (haltOf _).trans entered, fun _ never => ?_, fun _ => ⟨facts.queue, facts.axis⟩, ?_⟩
        · cases never
        · exact (show _ = _ from congrArg (fun w : State => { w with
            halts := s.halts, queue := s.queue, axis := s.axis, outbound := s.outbound, nextFrame := s.nextFrame }) before)
  · rw [clear] at flag
    rw [reconcile_of_clear flag] at taken
    obtain ⟨unlisted, begins, same⟩ := settle_clearHalt_of_dwell (n := h.source) (w := .presence) (facts.atRest atRest) fitV
      ⟨facts.queue.trans dwell.1, dwell.2⟩ (facts.lifecycle.trans online) (facts.faults.trans faultless)
      (by rw [facts.ownHalt]; exact calm) (by rw [haltOf]; exact held) fun n ne => (haltOf n).trans (alone n ne)
    refine ⟨_, taken, unlisted, ⟨begins.1, by rw [← facts.axis]; exact begins.2⟩, ?_⟩
    have back := congrArg (fun w : State => { w with
      roster := s.roster, halts := s.halts, queue := s.queue, axis := s.axis, notices := s.notices, lost := s.lost
      lif := s.lif }) same
    have before := congrArg (fun w : State => { w with halts := s.halts, queue := s.queue, axis := s.axis }) before
    exact (show _ = _ from back).trans (show _ = _ from before)

end Sys2Proof.Machine

/-! PROOFS. A POST as it is taken (R7, R8, R11, R125, R176). -/

namespace Sys2Proof.Machine

/-! ### What a POST is answered (R7, R176) -/

/-- The answer to a POST taken Online. -/
def State.answerTo (s : State) (h : RxHeader) : AnswerKind :=
  if s.config.postMask.getLsbD h.source.val = false then .refused .notPermitted
  else if s.halted then .refused .halted
  else if 32 ≤ s.queue.length then .refused .full
  else if (validSegment s.config h.payload).isNone then .refused .invalid
  else .taken

/-- The entry that a POST appends. -/
def RxHeader.entry (h : RxHeader) (g : Segment) : Entry :=
  { segment := g, origin := .peer h.source h.sequence, state := .waiting, consumed := false }

section
variable {h : RxHeader} {s : State} (online : s.lifecycle = .online)
include online

theorem takePost_of_refused (refused : s.answerTo h ≠ .taken) : takePost h.source h.sequence h.payload s =
    answerPeer h.source h.sequence (s.answerTo h) (byteAt h.payload 1) s := by
  unfold takePost State.answerTo at *
  simp only [ne_eq, online, not_true_eq_false, if_false]
  generalize s.config.postMask.getLsbD h.source.val = permitted at *
  generalize s.halted = halted at *
  cases permitted
  · rfl
  · cases halted
    · by_cases full : 32 ≤ s.queue.length
      · simp [full]
      · cases valid : validSegment s.config h.payload with
        | none => simp [full]
        | some g => simp [full, valid] at refused
    · rfl

theorem takePost_of_taken (taken : s.answerTo h = .taken) : ∃ g, validSegment s.config h.payload = some g ∧
    s.halted = false ∧ takePost h.source h.sequence h.payload s =
      answerPeer h.source h.sequence .taken (byteAt h.payload 1) (enqueue g (.peer h.source h.sequence) s) := by
  unfold takePost
  unfold State.answerTo at taken
  simp only [ne_eq, online, not_true_eq_false, if_false]
  generalize s.config.postMask.getLsbD h.source.val = permitted at *
  generalize s.halted = halted at *
  cases permitted
  · cases taken
  · cases halted
    · by_cases full : 32 ≤ s.queue.length
      · simp [full] at taken
      · cases valid : validSegment s.config h.payload with
        | none => simp [full, valid] at taken
        | some g => exact ⟨g, rfl, rfl, by simp [full]⟩
    · cases taken

end

theorem answerPeer_admitted {s : State} (sends : s.canSend = true) (room : s.outbound.length < 10) (n : Station) (q : Seq)
    (k : AnswerKind) (tag : Byte) : (answerPeer n q k tag s).outbound = s.outbound ++ [s.newFrame (.station n) (.answer q k tag)] :=
  answerPeer_of_open sends room n q k tag

theorem answerPeer_of_shut {s : State} (shut : s.canSend = false ∨ 10 ≤ s.outbound.length) (n : Station) (q : Seq)
    (k : AnswerKind) (tag : Byte) : answerPeer n q k tag s = notify (.answerDropped tag n q k) s := by
  rw [answerPeer, admission_of_crowded shut (by rw [show (Payload.answer q k tag).kind = .answer from rfl]; decide)]

theorem pickIfSilent_handEvaluate (s : State) : pickIfSilent (handEvaluate s) = handEvaluate (pickIfSilent s) := by
  by_cases silent : s.lif.transmitter = .silent
  · rw [pickIfSilent, pickIfSilent, if_pos silent, if_pos (show (handEvaluate s).lif.transmitter = .silent from silent)]
    cases first : firstFrame s.outbound with
    | none =>
      have bare := firstFrame_eq_none first
      rw [pick_of_none (.inl silent) (.inl bare), pick_of_none (s := handEvaluate s) (.inl silent) (.inl bare)]
      rfl
    | some f =>
      by_cases sends : s.canSend = true
      · rw [pick_of_first (.inl silent) sends first, pick_of_first (s := handEvaluate s) (.inl silent) sends first]
        rfl
      · have closed := Bool.eq_false_iff.mpr sends
        rw [pick_of_none (.inl silent) (.inr closed), pick_of_none (s := handEvaluate s) (.inl silent) (.inr closed)]
        rfl
  · rw [pickIfSilent, pickIfSilent, if_neg silent, if_neg (show ¬ (handEvaluate s).lif.transmitter = .silent from silent)]

theorem answerPeer_handEvaluate (n : Station) (q : Seq) (k : AnswerKind) (tag : Byte) (s : State) :
    answerPeer n q k tag (handEvaluate s) = handEvaluate (answerPeer n q k tag s) := by
  by_cases opened : s.canSend = true ∧ s.outbound.length < 10
  · obtain ⟨sends, room⟩ := opened
    rw [answerPeer, answerPeer, admission_of_open sends room, admission_of_open (s := handEvaluate s) sends room]
    exact pickIfSilent_handEvaluate { s with
      outbound := s.outbound ++ [s.newFrame (.station n) (.answer q k tag)], nextFrame := s.nextFrame + 1
      lif := { s.lif with sequence := s.lif.sequence + 1 } }
  · have shut : s.canSend = false ∨ 10 ≤ s.outbound.length := by
      by_cases sends : s.canSend = true
      · exact .inr (Nat.le_of_not_lt fun room => opened ⟨sends, room⟩)
      · exact .inl (Bool.eq_false_iff.mpr sends)
    rw [answerPeer_of_shut shut, answerPeer_of_shut (s := handEvaluate s) shut, notify_handEvaluate]

/-! ### A POST taken to its end -/

/-- A state that is s but for what the hearing of a frame changes. -/
structure PostReady (h : RxHeader) (s u : State) : Prop where
  sequence : u.lif.sequence = s.lif.sequence
  notices : (s.notices ++ s.joined h).length ≤ 16 → u.notices = s.notices ++ s.joined h
  same : { u with roster := s.roster, lif := s.lif, notices := s.notices, lost := s.lost, free := s.free } = s

/-- What a POST leaves: the queue, the axis and the reactions as given, its answer, and the count of free values as given. -/
structure PostTaken (h : RxHeader) (kind : AnswerKind) (s : State) (q : List Entry) (a : Axis) (r : List Reaction) (n : Nat)
    (t : State) : Prop where
  free : t.free = n
  queue : t.queue = q
  axis : t.axis = a
  reactions : t.reactions = r
  admitted : s.canSend = true → s.outbound.length < 10 → t.outbound = s.outbound ++
    [s.newFrame (.station h.source) (.answer h.sequence kind (byteAt h.payload 1))]
  dropped : s.canSend = false ∨ 10 ≤ s.outbound.length → (s.notices ++ s.joined h).length < 16 → t.outbound = s.outbound ∧
    t.notices = s.notices ++ s.joined h ++ [.answerDropped (byteAt h.payload 1) h.source h.sequence kind]
  same : { t with
    queue := s.queue, axis := s.axis, reactions := s.reactions, outbound := s.outbound, nextFrame := s.nextFrame
    lif := s.lif, roster := s.roster, notices := s.notices, lost := s.lost, free := s.free } = s

theorem postTaken {h : RxHeader} {kind : AnswerKind} {s u w x t : State} (ready : PostReady h s u) (atRest : AtRest s)
    (hw : { w with queue := u.queue, axis := u.axis, handed := u.handed } = u)
    (hx : x = answerPeer h.source h.sequence kind (byteAt h.payload 1) w)
    (ht : { t with queue := x.queue, axis := x.axis, reactions := x.reactions, handed := x.handed } = x)
    (rest : AtRest t) : PostTaken h kind s t.queue t.axis t.reactions u.free t := by
  have frames : Frames w x := by rw [hx]; exact frames_answerPeer _ _ _ _ _
  have outbound : t.outbound = x.outbound := (congrArg State.outbound ht :)
  have notices : t.notices = x.notices := (congrArg State.notices ht :)
  have canSend : w.canSend = s.canSend := (congrArg State.canSend hw :).trans (congrArg State.canSend ready.same :)
  have held : w.outbound = s.outbound := (congrArg State.outbound hw :).trans (congrArg State.outbound ready.same :)
  have number : w.nextFrame = s.nextFrame := (congrArg State.nextFrame hw :).trans (congrArg State.nextFrame ready.same :)
  have sequence : w.lif.sequence = s.lif.sequence := (congrArg (fun v : State => v.lif.sequence) hw :).trans ready.sequence
  have told : w.notices = u.notices := (congrArg State.notices hw :)
  have free : t.free = u.free := (congrArg State.free ht :).trans ((congrArg State.free frames.same :).trans (congrArg State.free hw :))
  refine ⟨free, rfl, rfl, rfl, fun sends room => ?_, fun shut room => ?_, ?_⟩
  · rw [outbound, hx, answerPeer_admitted (by rw [canSend]; exact sends) (by rw [held]; exact room), held]
    rw [State.newFrame, number, sequence]
    rfl
  · rw [outbound, notices, hx, answerPeer_of_shut (by rw [canSend, held]; exact shut)]
    have base : w.notices = s.notices ++ s.joined h := told.trans (ready.notices (Nat.le_of_lt room))
    refine ⟨?_, ?_⟩
    · rw [notify_eq]
      exact held
    · rw [notify_notices_of_room (by rw [base]; exact room), base]
  · have framed := frames.same
    dsimp only [State.besidesFrames, State.besidesAdmission] at framed
    have one := congrArg (fun v : State => { v with
      queue := s.queue, axis := s.axis, reactions := s.reactions, outbound := s.outbound, nextFrame := s.nextFrame
      lif := s.lif, roster := s.roster, notices := s.notices, lost := s.lost, free := s.free, handed := .empty }) ht
    have two := congrArg (fun v : State => { v with
      queue := s.queue, axis := s.axis, reactions := s.reactions, outbound := s.outbound, nextFrame := s.nextFrame
      lif := s.lif, roster := s.roster, notices := s.notices, lost := s.lost, free := s.free, handed := .empty }) framed
    have three := congrArg (fun v : State => { v with
      queue := s.queue, axis := s.axis, reactions := s.reactions, outbound := s.outbound, nextFrame := s.nextFrame
      lif := s.lif, roster := s.roster, notices := s.notices, lost := s.lost, free := s.free, handed := .empty }) hw
    have four := congrArg (fun v : State => { v with
      queue := s.queue, axis := s.axis, reactions := s.reactions, outbound := s.outbound, nextFrame := s.nextFrame
      handed := .empty }) ready.same
    have all := (show _ = _ from one).trans ((show _ = _ from two).trans ((show _ = _ from three).trans (show _ = _ from four)))
    rw [← show t.handed = .empty from rest] at all
    refine (show _ = _ from all).trans ?_
    show { s with handed := t.handed } = s
    rw [show t.handed = .empty from rest, ← show s.handed = .empty from atRest]

section
variable {h : RxHeader} {s u : State} (ready : PostReady h s u) (atRest : AtRest s) (online : s.lifecycle = .online)
include ready

theorem PostReady.answerTo : u.answerTo h = s.answerTo h := (congrArg (fun v : State => v.answerTo h) ready.same :)

include atRest online

/-- R7: a POST refused. -/
theorem settle_takePost_refused (refused : s.answerTo h ≠ .taken) :
    PostTaken h (s.answerTo h) s s.queue s.axis s.reactions u.free (settle (takePost h.source h.sequence h.payload u)) := by
  have queue : u.queue = s.queue := (congrArg State.queue ready.same :)
  have axis : u.axis = s.axis := (congrArg State.axis ready.same :)
  have reactions : u.reactions = s.reactions := (congrArg State.reactions ready.same :)
  have kind := ready.answerTo
  have lifecycle : u.lifecycle = .online := (congrArg State.lifecycle ready.same :).trans online
  have took := takePost_of_refused (h := h) lifecycle (by rw [kind]; exact refused)
  have frames := frames_answerPeer h.source h.sequence (s.answerTo h) (byteAt h.payload 1) u
  rw [kind] at took
  obtain ⟨x, hx⟩ : ∃ x, x = answerPeer h.source h.sequence (s.answerTo h) (byteAt h.payload 1) u := ⟨_, rfl⟩
  rw [← hx] at took frames
  have rest : AtRest x := frames.atRest ((congrArg State.handed ready.same :).trans atRest)
  have all := postTaken (w := u) ready atRest rfl hx rfl rest
  have kept : x.reactions = s.reactions := (congrArg State.reactions frames.same :).trans reactions
  rw [frames.marks.queue, frames.marks.axis, queue, axis, kept] at all
  rw [took, settle_of_atRest rest]
  exact all

/-- R8: a POST appended behind entries held. -/
theorem settle_takePost_behind {g : Segment} (taken : s.answerTo h = .taken) (valid : validSegment s.config h.payload = some g)
    (held : s.queue ≠ []) : PostTaken h .taken s (s.queue ++ [h.entry g]) s.axis s.reactions
      u.free (settle (takePost h.source h.sequence h.payload u)) := by
  have queue : u.queue = s.queue := (congrArg State.queue ready.same :)
  have axis : u.axis = s.axis := (congrArg State.axis ready.same :)
  have reactions : u.reactions = s.reactions := (congrArg State.reactions ready.same :)
  have config : u.config = s.config := (congrArg State.config ready.same :)
  have lifecycle : u.lifecycle = .online := (congrArg State.lifecycle ready.same :).trans online
  obtain ⟨x, read, -, took⟩ := takePost_of_taken (h := h) lifecycle (ready.answerTo.trans taken)
  rw [config, valid] at read
  obtain rfl := Option.some.inj read
  have joins : enqueue g (.peer h.source h.sequence) u = { u with queue := u.queue ++ [h.entry g] } :=
    if_neg (by rw [queue, List.isEmpty_iff]; exact held)
  rw [joins] at took
  have frames := frames_answerPeer h.source h.sequence .taken (byteAt h.payload 1) { u with queue := u.queue ++ [h.entry g] }
  obtain ⟨x, hx⟩ : ∃ x, x = answerPeer h.source h.sequence .taken (byteAt h.payload 1)
    { u with queue := u.queue ++ [h.entry g] } := ⟨_, rfl⟩
  rw [← hx] at took frames
  have rest : AtRest x := frames.atRest ((congrArg State.handed ready.same :).trans atRest)
  have all := postTaken (w := { u with queue := u.queue ++ [h.entry g] }) ready atRest rfl hx rfl rest
  have kept : x.reactions = s.reactions := (congrArg State.reactions frames.same :).trans reactions
  rw [frames.marks.queue, frames.marks.axis, kept] at all
  rw [took, settle_of_atRest rest, ← queue, ← axis]
  exact all

/-- R8, R11: a POST appended to an empty queue, before its evaluation is taken. -/
theorem takePost_first {g : Segment} (taken : s.answerTo h = .taken) (valid : validSegment s.config h.payload = some g)
    (empty : s.queue = []) : ∃ x, takePost h.source h.sequence h.payload u = handEvaluate x ∧
      x = answerPeer h.source h.sequence .taken (byteAt h.payload 1)
        { u with queue := [h.entry g], axis := { s.axis with state := .gated } } ∧
      x.queue = [h.entry g] ∧ x.axis = { s.axis with state := .gated } ∧ x.reactions = s.reactions ∧ AtRest x ∧
      x.lifecycle = .online ∧ x.mayStart = true ∧ (∀ k, x.gateOpen k = s.gateOpen k) := by
  have queue : u.queue = s.queue := (congrArg State.queue ready.same :)
  have axis : u.axis = s.axis := (congrArg State.axis ready.same :)
  have reactions : u.reactions = s.reactions := (congrArg State.reactions ready.same :)
  have config : u.config = s.config := (congrArg State.config ready.same :)
  have lifecycle : u.lifecycle = .online := (congrArg State.lifecycle ready.same :).trans online
  obtain ⟨x, read, free, took⟩ := takePost_of_taken (h := h) lifecycle (ready.answerTo.trans taken)
  rw [config, valid] at read
  obtain rfl := Option.some.inj read
  have joins : enqueue g (.peer h.source h.sequence) u =
      handEvaluate { u with queue := [h.entry g], axis := { s.axis with state := .gated } } := by
    rw [← axis]
    exact if_pos (by rw [queue, empty]; rfl)
  rw [joins, answerPeer_handEvaluate] at took
  obtain ⟨w, hw⟩ : ∃ w : State, w = { u with queue := [h.entry g], axis := { s.axis with state := .gated } } := ⟨_, rfl⟩
  have frames := frames_answerPeer h.source h.sequence .taken (byteAt h.payload 1) w
  have may : w.mayStart = true := by
    rw [State.mayStart, show w.halted = u.halted by rw [hw]; rfl, free, show w.lifecycle = .online by rw [hw]; exact lifecycle]
    rfl
  have gates (k : Gate) : w.gateOpen k = s.gateOpen k := by
    have same := congrArg (fun v : State => v.gateOpen k) ready.same
    rw [hw]
    cases k <;> exact same
  rw [← hw] at took ⊢
  refine ⟨_, took, rfl, frames.marks.queue.trans (by rw [hw]), frames.marks.axis.trans (by rw [hw]),
    (congrArg State.reactions frames.same :).trans (by rw [hw]; exact reactions),
    frames.atRest (by rw [hw]; exact (congrArg State.handed ready.same :).trans atRest),
    (congrArg State.lifecycle frames.same :).trans (by rw [hw]; exact lifecycle),
    (congrArg State.mayStart frames.same :).trans may, fun k => ?_⟩
  rw [← gates k]
  have same := congrArg (fun v : State => v.gateOpen k) frames.same
  cases k <;> exact same

/-- Behind a shut gate it waits. -/
theorem settle_takePost_shut {g : Segment} (taken : s.answerTo h = .taken) (valid : validSegment s.config h.payload = some g)
    (empty : s.queue = []) (shut : s.gateOpen g.gate = false) :
    PostTaken h .taken s [h.entry g] { s.axis with state := .gated } s.reactions
      u.free (settle (takePost h.source h.sequence h.payload u)) := by
  obtain ⟨x, took, asked, queue, axis, reactions, rest, -, -, gates⟩ := takePost_first ready atRest online taken valid empty
  have stays : HeadStays x := by
    intro e head waits
    rw [queue] at head
    obtain rfl := Option.some.inj head
    exact .inr ⟨rfl, (gates _).trans shut⟩
  have all := postTaken ready atRest (by rfl) asked rfl rest
  rw [took, settle_handEvaluate_of_headStays rest stays, ← queue, ← axis, ← reactions]
  exact all

/-- With its gate open a DWELL starts in the same operation. -/
theorem settle_takePost_starts {g : Segment} {k : Nat} (taken : s.answerTo h = .taken)
    (valid : validSegment s.config h.payload = some g) (empty : s.queue = []) (opened : s.gateOpen g.gate = true)
    (body : g.body = .dwell k) (mark : g.startMark = none) :
    PostTaken h .taken s [{ h.entry g with state := .running }]
      { s.axis.ended with state := .dwell, dwellTimer := 16000 * k } (s.consumed g.gate)
      u.free (settle (takePost h.source h.sequence h.payload u)) := by
  obtain ⟨x, took, asked, queue, axis, reactions, rest, -, may, gates⟩ := takePost_first ready atRest online taken valid empty
  have begins := evaluateHead_of_open_dwell (watch := watchNow) (e := h.entry g) (s := x) (k := k) queue rfl rfl
    ((gates _).trans opened) body mark may
  have settled : settle (handEvaluate x) = { x.dwelling (h.entry g) k with reactions := x.consumed g.gate } := by
    rw [settle_handEvaluate rest, begins]
    exact settle_of_atRest rest
  have all := postTaken (t := { x.dwelling (h.entry g) k with reactions := x.consumed g.gate }) ready atRest (by rfl) asked rfl rest
  have ended : (x.dwelling (h.entry g) k).axis = { s.axis.ended with state := .dwell, dwellTimer := 16000 * k } := by
    rw [State.dwelling, axis]
    rfl
  have counted : x.consumed g.gate = s.consumed g.gate := by
    cases g.gate with
    | tally m =>
      show x.reactions.set m.val { x.reactions.getD m.val .cleared with tally := _ } = _
      rw [State.reaction, reactions]
      rfl
    | _ => exact reactions
  rw [took, settled, ← ended, ← counted]
  exact all

end

end Sys2Proof.Machine

/-! PROOFS. POST, ANSWER and MARK as they are taken (R7, R58, R125, R172, R173, R195, R196). -/

namespace Sys2Proof.Machine

/-! ### What is heard (R123) -/

theorem refreshNotice_toList (h : RxHeader) (s : State) : s.joined h =
    (match (s.peer h.source).state with
      | .absent => [Notice.peerJoined h.source h.kind]
      | .lapsed => [Notice.peerReturned h.source h.kind]
      | _ => []) := by
  rw [State.joined]
  cases (s.peer h.source).state <;> rfl

theorem Heard.postReady {h : RxHeader} {s u : State} (hears : Heard h s u) : PostReady h s u := by
  refine ⟨hears.sequence, hears.notices, ?_⟩
  have free : u.free = s.free := (congrArg State.free hears.same :)
  rw [← free]
  exact hears.same

theorem PostReady.with_free {h : RxHeader} {s u : State} (ready : PostReady h s u) (n : Nat) :
    PostReady h s { u with free := n } := ⟨ready.sequence, ready.notices, ready.same⟩

theorem receives_heard {f : RxFrame} {h : RxHeader} {s : State} (receives : s.receives = true) :
    (s.heard f h).receives = true := by
  obtain ⟨y, noted⟩ : ∃ y, s.noted f = { noteFrame f s with lif := { (noteFrame f s).lif with yielding := y } } :=
    clearYieldAfterEcho_eq (noteFrame f s)
  obtain ⟨-, r, x, l, frame⟩ := refreshPeer_notices h.source h.kind (s.noted f)
  have heard : s.heard f h = recordFrame h { s.noted f with roster := r, notices := x, lost := l } := congrArg _ frame
  rw [heard, noted]
  show (s.onLine && true && (s.lif.transmitter == .silent || s.lif.transmitter == .waiting)) = true
  simp only [State.receives, Bool.and_eq_true] at receives ⊢
  obtain ⟨⟨onLine, -⟩, quiet⟩ := receives
  exact ⟨⟨onLine, trivial⟩, quiet⟩

theorem overtaken_heard {f : RxFrame} {h : RxHeader} {s : State} (fit : s.roster.length = 32) (receives : s.receives = true) :
    (s.heard f h).overtaken = s.overtaken := by
  have same := (heard (f := f) (h := h) fit).same
  have still := (receives_heard (f := f) (h := h) receives).trans receives.symm
  obtain ⟨u, hu⟩ : ∃ u, u = s.heard f h := ⟨_, rfl⟩
  rw [← hu] at same still ⊢
  rw [State.overtaken, State.overtaken, still, show u.lifecycle = s.lifecycle from (congrArg State.lifecycle same :),
    show u.pending = s.pending from (congrArg State.pending same :),
    show u.awaitsCommand = s.awaitsCommand from (congrArg State.awaitsCommand same :),
    show u.station = s.station from (congrArg State.station same :)]

/-! ### The hand-on of a POST (R7) -/

theorem handPost_of_first {n : Station} {q : Seq} {bytes : List Byte} {s : State} (overtaken : s.overtaken = true)
    (first : Config.postTakenFirst s.free = true) :
    handPost n q bytes s = takePost n q bytes { s with free := s.free + 1 } := by
  rw [handPost, if_pos overtaken]
  exact if_pos first

theorem handPost_of_waits {n : Station} {q : Seq} {bytes : List Byte} {s : State} (overtaken : s.overtaken = true)
    (waits : Config.postTakenFirst s.free = false) : handPost n q bytes s =
      { s with free := s.free + 1, posted := s.posted ++ [{ source := n, sequence := q, segment := bytes }] } := by
  rw [handPost, if_pos overtaken]
  exact if_neg (by rw [waits]; decide)

/-! ### ANSWER and MARK (R58, R172, R195, R196) -/

theorem field_low (b : Byte) (k : Nat) : field b 0 k = b.toNat % 2 ^ k := by
  simp [field]

theorem rxMark_eq (payload : List Byte) : ∃ m : Mark, m.val = (byteAt payload 0).toNat % 64 ∧
    rxMark payload = some (m, if payload.length = 5 then some (wordAt 32 payload 1 4) else none) := by
  have low := field_low (byteAt payload 0) 6
  have small : field (byteAt payload 0) 0 6 < 64 := by rw [low]; exact Nat.mod_lt _ (by decide)
  refine ⟨⟨_, small⟩, low, ?_⟩
  rw [rxMark, toFin?, dif_pos small]
  rfl

/-- The notice of an answer that ends nothing. -/
def lateNotice (h : RxHeader) : Notice :=
  .lateAnswer h.source (answeredSeq h.payload) (BitVec.ofNat 2 (field (byteAt h.payload 0) 4 2)) (byteAt h.payload 2)

theorem takeAnswer_late {h : RxHeader} {s : State} (late : rxAnswer h.payload = none ∨
    s.posts.find? (fun e => e.isFor h.source (answeredSeq h.payload)) = none) :
    takeAnswer h.source h.payload s = notify (lateNotice h) s := by
  unfold takeAnswer
  rcases late with unread | unknown
  · simp only [unread]
    rfl
  · cases rxAnswer h.payload <;> simp only [unknown] <;> rfl

theorem takeAnswer_of_found {h : RxHeader} {s : State} {k : AnswerKind} {e : PostEntry} (read : rxAnswer h.payload = some k)
    (found : s.posts.find? (fun e => e.isFor h.source (answeredSeq h.payload)) = some e) :
    takeAnswer h.source h.payload s = answerPost e k s := by
  unfold takeAnswer
  simp only [read, found]

theorem notices_notify_of_ready {h : RxHeader} {s u : State} (ready : PostReady h s u) (n : Notice) (posts : List PostEntry)
    (room : (s.notices ++ s.joined h).length < 16) :
    (notify n { u with posts := posts }).notices = s.notices ++ s.joined h ++ [n] := by
  have base := ready.notices (Nat.le_of_lt room)
  rw [notify_notices_of_room (s := { u with posts := posts }) (by rw [show ({ u with posts := posts } : State).notices = _ from base]; exact room)]
  rw [show ({ u with posts := posts } : State).notices = _ from base]

theorem takeAnswer_same (n : Station) (payload : List Byte) (s : State) :
    { takeAnswer n payload s with posts := s.posts, notices := s.notices, lost := s.lost } = s := by
  unfold takeAnswer
  simp only
  split
  · rename_i k e _ _
    cases k with
    | taken => rfl
    | refused r => rw [answerPost, notify_eq]; rfl
    | finished o => rw [answerPost, notify_eq]; rfl
  · rw [notify_eq]

theorem field_middle (b : Byte) : field b 4 2 = b.toNat / 16 % 4 :=
  congrArg (· % 4) (Nat.shiftRight_eq_div_pow b.toNat 4)

/-- Settles O47. -/
theorem postsAndAnswersAreTaken : Obligations.PostsAndAnswersAreTaken := by
  intro s f h k atRest receives fit online clean header other meant new fresh base tag kind q mine said entry stays starts
    within taken
  have hears := heard (f := f) (h := h) fit.1
  have station : forStation s.station h.dest = true := by
    rcases meant with dest | ⟨-, dest⟩
    · rw [dest]
      exact beq_self_eq_true _
    · rw [dest]
      rfl
  have takes := exec_frameTaken_of_new receives clean header other fit.1 new fresh station
  have held := overtaken_heard (f := f) (h := h) fit.1 receives
  obtain ⟨u, hu⟩ : ∃ u, u = s.heard f h := ⟨_, rfl⟩
  rw [← hu] at hears takes held
  have ready := hears.postReady
  have joined : base = s.notices ++ s.joined h := congrArg (s.notices ++ ·) (refreshNotice_toList h s).symm
  have onlineU : u.lifecycle = .online := hears.facts.lifecycle.trans online
  have posts : u.posts = s.posts := (congrArg State.posts hears.same :)
  have free : u.free = s.free := (congrArg State.free hears.same :)
  have rest : AtRest u := hears.facts.atRest atRest
  have answer : kind = s.answerTo h := rfl
  have done {v : State} (ready : PostReady h s v) (near : within) :
      taken (settle (takePost h.source h.sequence h.payload v)) ∧
        (settle (takePost h.source h.sequence h.payload v)).free = v.free := by
    by_cases accepted : s.answerTo h = .taken
    · obtain ⟨g, valid, -, -⟩ := takePost_of_taken (s := s) online accepted
      have only {x : Segment} (is : x ∈ validSegment s.config h.payload) : x = g :=
        Option.some.inj ((show _ = some x from is).symm.trans valid)
      by_cases empty : s.queue = []
      · have leaves : ¬ stays := fun never => never.elim (fun more => more empty) (fun no => no accepted)
        rcases near.resolve_left leaves g valid with shut | ⟨opened, body, mark⟩
        · obtain ⟨free, queue, axis, reactions, admitted, dropped, same⟩ :=
            settle_takePost_shut ready atRest online accepted valid empty shut
          refine ⟨⟨fun never => absurd never leaves, fun _ x is => ?_, ?_, ?_, same⟩, free⟩
          · rw [only is]
            refine ⟨fun _ => ⟨queue, axis, reactions⟩, fun opened => ?_⟩
            exact absurd (opened.1.symm.trans shut) (by decide)
          · rw [answer, accepted]
            exact admitted
          · rw [answer, accepted, joined]
            exact dropped
        · obtain ⟨free, queue, axis, reactions, admitted, dropped, same⟩ :=
            settle_takePost_starts ready atRest online accepted valid empty opened body mark
          refine ⟨⟨fun never => absurd never leaves, fun _ x is => ?_, ?_, ?_, same⟩, free⟩
          · rw [only is]
            exact ⟨fun shut => absurd (opened.symm.trans shut) (by decide), fun _ => ⟨queue, axis, reactions⟩⟩
          · rw [answer, accepted]
            exact admitted
          · rw [answer, accepted, joined]
            exact dropped
      · obtain ⟨free, queue, axis, reactions, admitted, dropped, same⟩ :=
          settle_takePost_behind ready atRest online accepted valid empty
        refine ⟨⟨fun _ => ⟨axis, reactions, ?_⟩, fun leaves => absurd (.inl empty) leaves, ?_, ?_, same⟩, free⟩
        · rw [if_pos (show kind = .taken from accepted), valid]
          exact queue
        · rw [answer, accepted]
          exact admitted
        · rw [answer, accepted, joined]
          exact dropped
    · obtain ⟨free, queue, axis, reactions, admitted, dropped, same⟩ :=
        settle_takePost_refused ready atRest online accepted
      refine ⟨⟨fun _ => ⟨axis, reactions, ?_⟩, fun leaves => absurd (.inr accepted) leaves, admitted, ?_, same⟩, free⟩
      · rw [if_neg (show ¬ kind = .taken from accepted), List.append_nil]
        exact queue
      · rw [joined]
        exact dropped
  refine ⟨fun post near alone => ?first, fun post near overtaken => ?late, fun answers => ?answered, fun marks => ?marked⟩
  case first =>
    rw [dispatch_post onlineU post, handPost_of_not_overtaken _ _ _ (held.trans alone)] at takes
    obtain ⟨took, count⟩ := done ready near
    exact ⟨_, takes, took, count.trans free⟩
  case late =>
    rw [dispatch_post onlineU post] at takes
    cases choice : Config.postTakenFirst u.free with
    | true =>
      rw [handPost_of_first (held.trans overtaken) choice] at takes
      exact ⟨_, takes, .inl (done (ready.with_free _) near).1⟩
    | false =>
      rw [handPost_of_waits (held.trans overtaken) choice, settle_of_atRest (by exact rest)] at takes
      refine ⟨_, takes, .inr ⟨?_, ?_, ?_⟩⟩
      · rw [← show u.posted = s.posted from (congrArg State.posted hears.same :)]
      · rw [joined]
        exact hears.notices
      · exact (show _ = _ from congrArg (fun v : State => { v with posted := s.posted, free := s.free }) hears.same)
  case answered =>
    rw [dispatch_answer onlineU answers] at takes
    have mineEq : mine = fun e => e.isFor h.source (answeredSeq h.payload) := rfl
    have same := takeAnswer_same h.source h.payload u
    have quiet : settle (takeAnswer h.source h.payload u) = takeAnswer h.source h.payload u :=
      settle_of_atRest ((congrArg State.handed same :).trans rest)
    rw [quiet] at takes
    refine ⟨_, takes, fun late => ?_, fun e found => ?_, ?_⟩
    · rw [takeAnswer_late (by rw [posts, ← mineEq]; exact late)]
      refine ⟨by rw [notify_eq]; exact posts, fun room => ?_⟩
      rw [joined] at room ⊢
      refine (notices_notify_of_ready ready _ u.posts room).trans ?_
      rw [lateNotice, field_middle]
      rfl
    · have found : s.posts.find? mine = some e := found
      obtain ⟨dest, sequence⟩ : e.dest = h.source ∧ e.sequence = q := by
        have is : (e.dest == h.source && e.sequence == q) = true := List.find?_some (p := mine) found
        rw [Bool.and_eq_true, beq_iff_eq, beq_iff_eq] at is
        exact is
      have closes : ({ u with posts := u.posts.filter fun x => !x.isFor e.dest e.sequence } : State).posts =
          s.posts.filter fun x => !mine x := by
        rw [dest, sequence, ← posts]
        rfl
      refine ⟨fun told => ?_, fun r _ told => ?_, fun o _ told => ?_⟩
      all_goals rw [takeAnswer_of_found told (by rw [posts, ← mineEq]; exact found), joined]
      · refine ⟨hears.notices, ?_⟩
        rw [← posts, answerPost, dest, sequence]
        rfl
      · refine ⟨by rw [answerPost, notify_eq]; exact closes, fun room => ?_⟩
        rw [answerPost, dest, sequence]
        exact notices_notify_of_ready ready _ _ room
      · refine ⟨by rw [answerPost, notify_eq]; exact closes, fun room => ?_⟩
        rw [answerPost, dest, sequence]
        exact notices_notify_of_ready ready _ _ room
    · have back := congrArg (fun v : State => { v with
        roster := s.roster, lif := s.lif, posts := s.posts, notices := s.notices, lost := s.lost }) same
      have before := congrArg (fun v : State => { v with posts := s.posts }) hears.same
      exact (show _ = _ from back).trans (show _ = _ from before)
  case marked =>
    obtain ⟨m, number, read⟩ := rxMark_eq h.payload
    rw [dispatch_mark onlineU marks read] at takes
    refine ⟨_, read, number, ?_, u, takes, by rw [hears.peer], by rw [hears.peer], ?_, hears.same⟩
    · show (if _ then _ else _ : Option Position).isSome = true ↔ _
      split <;> simp [*]
    · rw [joined]
      exact hears.notices

end Sys2Proof.Machine

/-! PROOFS. Off the line: what stops, cuts, events and dropped frames can still change (R11, R41, R51, R58, R139). -/

namespace Sys2Proof.Machine

-- One thread for the many small proofs of this part: each default proof waits for the declarations before it.
set_option Elab.async false

/-! ### What is left to change -/

/-- The state without the queue, the axis, the closing of the Outbound Queue and the tables that events and dropped frames still reach off the line. -/
def State.besidesHeld (s : State) : State := { s.besidesTables with queue := [], axis := .cleared, closing := false }

/-- Off the line t is s but for those, and every notice queued stays. -/
def Turns (s t : State) : Prop := s.lifecycle ≠ .online → t.besidesHeld = s.besidesHeld ∧ s.notices <+: t.notices

theorem Turns.refl (s : State) : Turns s s := fun _ => ⟨rfl, List.prefix_rfl⟩

theorem Turns.trans {s t u : State} (h : Turns s t) (k : Turns t u) : Turns s u := fun left =>
  have ⟨same, told⟩ := h left
  have ⟨next, more⟩ := k (by rw [show t.lifecycle = s.lifecycle from (congrArg State.lifecycle same :)]; exact left)
  ⟨next.trans same, told.trans more⟩

theorem Turns.of_same {s t : State} (h : t.besidesHeld = s.besidesHeld := by rfl)
    (k : t.notices = s.notices := by rfl) : Turns s t := fun _ => ⟨h, k ▸ List.prefix_rfl⟩

theorem Turns.ite {s t u : State} {c : Prop} [Decidable c] (h : Turns s t) (k : Turns s u) :
    Turns s (if c then t else u) := by split <;> assumption

theorem Turns.foldl {α : Type} (f : State → α → State) (h : ∀ s a, Turns s (f s a)) (l : List α) (s : State) :
    Turns s (l.foldl f s) := by
  induction l generalizing s with
  | nil => exact .refl s
  | cons a l ih => rw [List.foldl_cons]; exact (h s a).trans (ih _)

theorem canSend_of_left {s : State} (left : s.lifecycle ≠ .online) : s.canSend = false := by
  rw [State.canSend, beq_false_of_ne left, Bool.false_and]

/-! ### Notices, marks and answers (R51, R176) -/

theorem turns_notify (n : Notice) (s : State) : Turns s (notify n s) := fun _ =>
  ⟨by rw [notify_eq]; rfl, (frames_notify n s).notices⟩

theorem turns_handGateChange (p : Gate → Bool) (s : State) : Turns s (handGateChange p s) := .ite .of_same (.refl s)

theorem turns_requestMark (m : Mark) (p : Option Position) (o : EmitOrigin) (i : Byte) (s : State) :
    Turns s (requestMark m p o i s) := by
  intro left
  unfold requestMark
  rw [if_neg (Bool.eq_false_iff.mp (canSend_of_left left))]
  exact ((turns_notify _ s).trans .of_same) left

theorem turns_requestMark? (m : Option Mark) (o : EmitOrigin) (i : Byte) (s : State) :
    Turns s (requestMark? m o i s) := by
  cases m with
  | none => exact .refl s
  | some m => exact turns_requestMark m _ o i s

theorem turns_answerPeer (n : Station) (q : Seq) (k : AnswerKind) (tag : Byte) (s : State) :
    Turns s (answerPeer n q k tag s) := by
  intro left
  rw [answerPeer_of_closed (canSend_of_left left)]
  exact turns_notify _ s left

/-! ### Retirements and stops (R16 to R19, R41) -/

theorem turns_retireEffects (e : Entry) (o : Retirement) (s : State) : Turns s (retireEffects e o s) := by
  have answered (u : State) : Turns u (match e.origin with
      | .localPort => u
      | .peer n q => answerPeer n q (.finished o) e.segment.tag u) := by
    split
    · exact .refl u
    · exact turns_answerPeer _ _ _ _ u
  have marked (u : State) := (turns_notify (.segmentRetired e.segment.tag e.origin o u.command) u).trans (answered _)
  cases o with
  | completed | cut => exact (turns_requestMark? _ _ _ s).trans (marked _)
  | stopped | flushed => exact marked s

theorem turns_flushEntries (es : List Entry) (s : State) : Turns s (flushEntries es s) :=
  .foldl _ (fun s e => turns_retireEffects e .flushed s) es s

theorem turns_retireHead (o : Retirement) (s : State) : Turns s (retireHead o s) := by
  cases hq : s.queue with
  | nil => rw [retireHead_nil o hq]; exact .refl s
  | cons e rest =>
    rw [retireHead_cons o hq]
    exact Turns.trans (t := s.headless rest) .of_same ((turns_retireEffects e o _).trans .of_same)

theorem turns_flushBehind (s : State) : Turns s (flushBehind s) := by
  unfold flushBehind
  split
  · exact .ite (Turns.trans .of_same (turns_flushEntries _ _)) (Turns.trans .of_same (turns_flushEntries _ _))
  · exact .refl s

theorem turns_brake (c : BrakeCause) (r : Nat) (e : Entry) (s : State) : Turns s (brake c r e s) :=
  .ite (turns_retireHead _ s) .of_same

theorem turns_decelerateHead (e : Entry) (s : State) : Turns s (decelerateHead e s) := by
  unfold decelerateHead
  cases s.axis.state with
  | braking => exact .of_same
  | rampUp | cruise | rampDown => exact turns_brake _ _ e s
  | _ => exact turns_retireHead _ s

theorem turns_orderStop (k : StopKind) (s : State) : Turns s (orderStop k s) := by
  unfold orderStop
  split
  · exact turns_flushBehind s
  · exact (turns_retireHead _ s).trans (turns_flushBehind _)
  · exact (turns_flushBehind s).trans (turns_decelerateHead _ _)

/-! ### Cuts (R14, R37 to R40) -/

theorem turns_replan (s : State) : Turns s (replan s) := .ite (.refl s) .of_same

theorem turns_consumeSecond {s t : State} (h : consumeSecond s = some t) : Turns s t := by
  unfold consumeSecond at h
  split at h
  · split at h
    · rw [← Option.some.inj h]
      exact .refl s
    · unfold consumeGate at h
      split at h
      · simp only at h
        split at h
        · cases h
        · rw [← Option.some.inj h]
          exact .of_same
      · rw [← Option.some.inj h]
        exact .refl s
  · cases h

theorem turns_commitSecond (s : State) : Turns s (commitSecond s) := by
  unfold commitSecond
  split
  · exact .of_same
  · exact .refl s

theorem turns_commitPlan (s : State) : Turns s (commitPlan s) := by
  unfold commitPlan
  refine .ite (.refl s) ?_
  split
  · exact .of_same
  · split
    · rename_i t h
      exact (turns_consumeSecond h).trans (Turns.trans .of_same (turns_commitSecond _))
    · exact .of_same

theorem turns_junction (s : State) : Turns s (junction s) := by
  unfold junction
  split
  · rename_i e n rest _
    split
    · refine .ite ?_ (turns_retireHead _ s)
      have retired : Turns s (retireEffects e .completed { s with
          queue := { n with state := .running, consumed := false } :: rest }) :=
        Turns.trans .of_same (turns_retireEffects _ _ _)
      exact retired.trans (Turns.trans .of_same (turns_requestMark? _ _ _ _))
    · exact turns_retireHead _ s
  · exact turns_retireHead _ s

theorem turns_cutBrake (e : Entry) (s : State) : Turns s (cutBrake e s) := Turns.trans .of_same (turns_brake _ _ e _)

theorem turns_cutChainedRun (e : Entry) (s : State) : Turns s (cutChainedRun e s) := by
  have plan := (turns_replan s).trans (turns_commitPlan _)
  exact .ite (.ite (plan.trans .of_same) (plan.trans (turns_junction _))) (plan.trans (turns_cutBrake e _))

theorem turns_takeCut (s : State) : Turns s (takeCut s) := by
  unfold takeCut
  split
  · exact .refl s
  · rename_i e _
    have motion : Turns s (if s.axis.found then s
        else if e.segment.body.isRun && e.segment.chain && !s.axis.committed then cutChainedRun e s else cutBrake e s) :=
      .ite (.refl s) (.ite (turns_cutChainedRun e s) (turns_cutBrake e s))
    cases s.axis.state with
    | dwell => exact turns_retireHead _ s
    | rampUp | cruise | rampDown => exact motion
    | _ => exact .refl s

/-! ### The events handed on (R11, R58, R71) -/

/-- R11: off the line no head starts. -/
theorem evaluateHead_of_left (watch : WatchTake) {s : State} (left : s.lifecycle ≠ .online) : evaluateHead watch s = s := by
  have not_may : s.mayStart = false := Bool.eq_false_iff.mpr fun may => by
    obtain ⟨-, -, -, online⟩ := (mayStart_iff s).mp may
    exact left online
  unfold evaluateHead
  split
  · rw [not_may, Bool.and_false, Bool.false_and]
    rfl
  · rfl

theorem turns_evaluateHead (watch : WatchTake) (s : State) : Turns s (evaluateHead watch s) := fun left => by
  rw [evaluateHead_of_left watch left]
  exact Turns.refl s left

theorem turns_evaluateWithin (n : Nat) (s : State) : Turns s (evaluateWithin n s) := by
  induction n generalizing s with
  | zero => exact .refl s
  | succ n ih => exact .ite (Turns.trans .of_same ((turns_evaluateHead _ _).trans (ih _))) (.refl s)

theorem turns_hitWatch (w : Fin 4) (r : Watch) (s : State) : Turns s (hitWatch w r s) := by
  refine Turns.trans ?_ (turns_handGateChange _ _)
  unfold hitEffects
  exact Turns.trans (t := { s with watches := s.watches.set w.val { r with state := .hit } }) .of_same
    ((turns_notify _ _).trans ((turns_requestMark? _ _ _ _).trans (.ite (turns_takeCut _) (.refl _))))

theorem turns_compareWatch (x : WatchSource) (p : Position) (s : State) (w : Fin 4) : Turns s (compareWatch x p s w) :=
  .ite (.ite ((turns_hitWatch w _ s).trans (turns_evaluateWithin _ _)) .of_same) (.refl s)

theorem turns_trigger (n : Fin 4) (x : Trigger) (s : State) : Turns s (trigger n x s) := by
  unfold trigger
  exact .ite .of_same (Turns.trans .of_same (turns_notify _ _))

theorem turns_takeRequest (q : Request) (s : State) : Turns s (takeRequest q s) := by
  unfold takeRequest
  split
  · exact turns_handGateChange _ s
  · exact turns_takeCut s
  · exact turns_trigger _ _ s
  · exact turns_requestMark _ _ _ _ s
  · exact (turns_notify _ s).trans (turns_orderStop _ _)

theorem turns_takeHanded (s : State) : Turns s (takeHanded s) := by
  unfold takeHanded
  split
  · exact Turns.trans .of_same (.foldl _ (turns_compareWatch _ _) _ _)
  · refine .ite (Turns.trans .of_same (turns_evaluateHead _ _)) ?_
    split
    · exact Turns.trans .of_same (turns_takeRequest _ _)
    · split
      · exact .of_same
      · exact .refl s

theorem turns_settleWithin (n : Nat) (s : State) : Turns s (settleWithin n s) := by
  induction n generalizing s with
  | zero => exact .refl s
  | succ n ih => exact .ite ((turns_takeHanded s).trans (ih _)) (.refl s)

theorem turns_settle (s : State) : Turns s (settle s) := turns_settleWithin _ s

/-! ### Frames dropped (R138, R139) -/

theorem turns_losePosts (p : PostEntry → Bool) (r : LostReason) (s : State) : Turns s (losePosts p r s) :=
  Turns.trans .of_same (.foldl _ (fun s (e : PostEntry) => turns_notify (.postLost e.dest e.sequence e.tag r) s) _ _)

theorem turns_dropEmission (id : Nat) (s : State) : Turns s (dropEmission id s) := by
  unfold dropEmission
  split
  · refine Turns.trans ?_ (turns_settle _)
    exact Turns.trans (t := { s with emissions := s.emissions.filter fun e => e.frame != id }) .of_same
      ((turns_notify _ _).trans .of_same)
  · exact .refl s

theorem turns_dropFrame (why : Emptying) (s : State) (f : OutFrame) : Turns s (dropFrame why s f) := by
  unfold dropFrame
  refine Turns.trans (t := { s with outbound := s.outbound.filter fun g => g.id != f.id }) .of_same ?_
  split
  · exact turns_dropEmission _ _
  · cases why
    · exact turns_losePosts _ _ _
    · exact .of_same
  · split
    · exact turns_notify _ _
    · exact .refl _
  · exact .of_same
  · exact .of_same
  · exact .refl _

theorem turns_emptyWithin (why : Emptying) (n : Nat) (s : State) : Turns s (emptyWithin why n s) := by
  induction n generalizing s with
  | zero => exact .refl s
  | succ n ih =>
    unfold emptyWithin
    split
    · exact (turns_dropFrame why s _).trans (ih _)
    · exact .refl s

/-- Where no reaction entry acts on a mark then looped back, the axis and its queue stay. -/
theorem emptyWithin_inert (n : Nat) {s : State} (atRest : AtRest s)
    (inert : ∀ e ∈ s.emissions, NoEntryActs e.mark e.stamp s) :
    (emptyWithin .silenced n s).queue = s.queue ∧ (emptyWithin .silenced n s).axis = s.axis := by
  induction n generalizing s with
  | zero => exact ⟨rfl, rfl⟩
  | succ n ih =>
    cases first : firstFrame s.outbound with
    | none =>
      have stays : emptyWithin .silenced (n + 1) s = s := by rw [emptyWithin, first]
      rw [stays]
      exact ⟨rfl, rfl⟩
    | some f =>
      have goes : emptyWithin .silenced (n + 1) s = emptyWithin .silenced n (dropFrame .silenced s f) := by
        rw [emptyWithin, first]
      obtain ⟨-, -, emissions, -, same⟩ := dropped (f := f) atRest inert
      rw [goes]
      obtain ⟨u, hu⟩ : ∃ u, u = dropFrame .silenced s f := ⟨_, rfl⟩
      rw [← hu] at emissions same ⊢
      have reactions : u.reactions = s.reactions := (congrArg State.reactions same :)
      have station : u.station = s.station := (congrArg State.station same :)
      obtain ⟨queue, axis⟩ := ih (s := u) ((congrArg State.handed same :).trans atRest) fun e held r here => by
        rw [reactions] at here
        rw [station]
        exact inert e (emissions e held) r here
      exact ⟨queue.trans (congrArg State.queue same :), axis.trans (congrArg State.axis same :)⟩

end Sys2Proof.Machine

/-! PROOFS. Entry into Conflict (R159). -/

namespace Sys2Proof.Machine

/-- What entry into Conflict leaves before the Outbound Queue is emptied and the axis stopped (R159 steps 1 to 4). -/
structure Conflicted (h : RxHeader) (s v : State) : Prop where
  lifecycle : v.lifecycle = .conflict
  listenTimer : v.listenTimer = 0
  presenceTimer : v.presenceTimer = 0
  engaged : v.standing ≠ .reticent
  receiver : v.lif.receiver = .off
  transmitter : v.lif.transmitter = .silent
  outbound : s.outbound = [] → v.outbound = []
  told : s.notices.length < 16 → s.notices ++ [.conflict h.kind h.sequence s.lifecycle s.standing] <+: v.notices
  same : { v with
    lifecycle := s.lifecycle, listenTimer := s.listenTimer, presenceTimer := s.presenceTimer, score := s.score
    recovery := s.recovery, standing := s.standing, lif := s.lif, outbound := s.outbound, notices := s.notices
    lost := s.lost } = s

theorem endReticence_eq (s : State) : ∃ st n l,
    endReticence s = { s with standing := st, notices := n, lost := l } ∧ st ≠ .reticent ∧ s.notices <+: n := by
  by_cases reticent : s.standing = .reticent
  · obtain ⟨n, l, set, told⟩ := setStanding_eq .engaged .lifecycle s
    exact ⟨.engaged, n, l, (if_pos reticent).trans set, Standing.noConfusion, told⟩
  · exact ⟨s.standing, s.notices, s.lost, if_neg reticent, reticent, List.prefix_rfl⟩

theorem enterConflict_eq (h : RxHeader) (s : State) : ∃ v, Conflicted h s v ∧ enterConflict h s =
    takePosted (orderStop .decelerating (if s.lifecycle = .online then closeOutbound s.canSend v else v)) := by
  obtain ⟨score, recovery, counted⟩ := countConflictFrame_eq s
  obtain ⟨n, hn⟩ : ∃ n : Notice, n = .conflict h.kind h.sequence s.lifecycle s.standing := ⟨_, rfl⟩
  obtain ⟨a, ha⟩ : ∃ a : State, a = { s with
    score := score, recovery := recovery, lifecycle := .conflict, listenTimer := 0, presenceTimer := 0 } := ⟨_, rfl⟩
  have noted := notify_eq n a
  have room (few : s.notices.length < 16) : (notify n a).notices = s.notices ++ [n] := by
    rw [notify_notices_of_room (s := a) (by rw [ha]; exact few), ha]
  obtain ⟨st, x, l, ended, other, told⟩ := endReticence_eq (notify n a)
  refine ⟨lineOff (endReticence (notify n a)), ?_, ?_⟩
  · rw [ended]
    rw [noted] at told ⊢
    refine ⟨by rw [ha]; rfl, by rw [ha]; rfl, by rw [ha]; rfl, other, rfl, rfl, fun bare => ?_, fun few => ?_, by rw [ha]; rfl⟩
    · show a.outbound.map _ = []
      rw [ha]
      show s.outbound.map _ = []
      rw [bare]
      rfl
    · rw [← hn, ← room few]
      exact told
  · rw [ha, hn]
    unfold enterConflict
    rw [counted]

/-- What the stop of entry into Conflict finds: the Outbound Queue empty. -/
structure Quieted (s v u : State) : Prop where
  turns : Turns v u
  atRest : AtRest u
  order : QueueInOrder u
  outbound : u.outbound = []
  stays : (∀ e ∈ s.emissions, NoEntryActs e.mark e.stamp s) → u.queue = s.queue ∧ u.axis = s.axis

theorem quieted {h : RxHeader} {s v : State} (enters : Conflicted h s v) (atRest : AtRest s) (order : QueueInOrder s)
    (line : s.lifecycle = .online ∨ s.outbound = []) :
    Quieted s v (if s.lifecycle = .online then closeOutbound s.canSend v else v) := by
  have same := enters.same
  have rest : AtRest v := (congrArg State.handed same :).trans atRest
  have queue : v.queue = s.queue := (congrArg State.queue same :)
  have axis : v.axis = s.axis := (congrArg State.axis same :)
  have ordered : QueueInOrder v :=
    (queueInOrder_iff v).2 (((queueInOrder_iff s).1 order).of_same queue (congrArg (fun a : Axis => a.state) axis))
  by_cases online : s.lifecycle = .online
  · rw [if_pos online]
    obtain ⟨w, hw⟩ : ∃ w : State, w = { v with closing := v.closing || s.canSend } := ⟨_, rfl⟩
    have closes : closeOutbound s.canSend v = emptyOutbound .silenced w := by rw [hw]; rfl
    have left : w.lifecycle ≠ .online := by
      rw [hw]
      exact fun online => Lifecycle.noConfusion (enters.lifecycle.symm.trans online)
    rw [closes]
    refine ⟨Turns.trans (t := w) (by rw [hw]; exact .of_same) (turns_emptyWithin _ _ _),
      (drops_emptyWithin _ _ _).atRest (by rw [hw]; exact rest), (keeps_emptyWithin _ _ _).order (by rw [hw]; exact ordered),
      outbound_emptyOutbound .silenced w (canSend_of_left left), fun inert => ?_⟩
    have emissions : w.emissions = s.emissions := by rw [hw]; exact (congrArg State.emissions same :)
    have reactions : w.reactions = s.reactions := by rw [hw]; exact (congrArg State.reactions same :)
    have station : w.station = s.station := by rw [hw]; exact (congrArg State.station same :)
    have kept := emptyWithin_inert w.outbound.length (s := w) (by rw [hw]; exact rest) fun e held r here => by
      rw [emissions] at held
      rw [reactions] at here
      rw [station]
      exact inert e held r here
    exact ⟨kept.1.trans (by rw [hw]; exact queue), kept.2.trans (by rw [hw]; exact axis)⟩
  · rw [if_neg online]
    exact ⟨.refl v, rest, ordered, enters.outbound (line.resolve_left online), fun _ => ⟨queue, axis⟩⟩

/-- Settles O48. -/
theorem ownNumberBringsConflict : Obligations.OwnNumberBringsConflict := by
  intro s f h atRest order receives clean header own line
  obtain ⟨l, noted, -, -⟩ := noted_eq f s
  have taken : exec (.frameTaken f) s = .next (settle (enterConflict h (s.noted f))) :=
    congrArg (fun u => Host.Outcome.next (settle u)) (frameEnds_of_own_number receives clean header own)
  obtain ⟨v, enters, asked⟩ := enterConflict_eq h (s.noted f)
  have entersS : Conflicted h s v := by
    rw [noted] at enters
    obtain ⟨c₁, c₂, c₃, c₄, c₅, c₆, c₇, c₈, same⟩ := enters
    refine ⟨c₁, c₂, c₃, c₄, c₅, c₆, c₇, c₈, ?_⟩
    exact (show _ = _ from congrArg (fun x : State => { x with lif := s.lif }) same)
  have facts := quieted entersS atRest order line
  rw [show (s.noted f).lifecycle = s.lifecycle by rw [noted], show (s.noted f).canSend = s.canSend by rw [noted]; rfl] at asked
  obtain ⟨u, hu⟩ : ∃ u, u = if s.lifecycle = .online then closeOutbound s.canSend v else v := ⟨_, rfl⟩
  rw [← hu] at facts asked
  obtain ⟨w, hw⟩ : ∃ w, w = orderStop .decelerating u := ⟨_, rfl⟩
  have leftV : v.lifecycle ≠ .online := fun online => Lifecycle.noConfusion (entersS.lifecycle.symm.trans online)
  obtain ⟨held, told⟩ := facts.turns.trans (hw ▸ turns_orderStop .decelerating u) leftV
  have lifecycle : w.lifecycle = .conflict := (congrArg State.lifecycle held :).trans entersS.lifecycle
  have left : w.lifecycle ≠ .online := by rw [lifecycle]; exact Lifecycle.noConfusion
  have posted : w.posted = s.posted := (congrArg State.posted held :).trans (congrArg State.posted entersS.same :)
  have config : w.config = s.config := (congrArg State.config held :).trans (congrArg State.config entersS.same :)
  obtain ⟨x, hx⟩ : ∃ x, x = notifyAll (droppedAnswers w.config.postMask w.posted) { w with posted := [] } := ⟨_, rfl⟩
  have answers := notices_notifyAll (droppedAnswers w.config.postMask w.posted) { w with posted := [] }
  have room := notifyAll_notices (l := droppedAnswers w.config.postMask w.posted) (s := { w with posted := [] })
  have shows : x = { w with posted := [], notices := x.notices, lost := x.lost } := by
    rw [hx]
    exact notifyAll_eq _ _
  rw [← hx] at answers room
  have settled : settle (enterConflict h (s.noted f)) = { x with handed := .empty } := by
    have stops := stops_orderStop .decelerating u
    rw [← hw] at stops
    rw [asked, ← hw, takePosted_of_left left, ← hx]
    exact settle_of_onlyEvaluates (by rw [shows]; exact stops.onlyEvaluates facts.atRest)
      (headStays_of_offline (by rw [shows]; exact left))
  rw [settled] at taken
  have queue : x.queue = w.queue := by rw [shows]
  have axis : x.axis = w.axis := by rw [shows]
  refine ⟨_, taken, ?lifecycle, ?listenTimer, ?presenceTimer, ?receiver, ?transmitter, ?outbound, ?standing, ?running,
    fun inert => ?stop, fun few => ?told, ?faults, ?roster, ?halts, ?command, ?measured, ?config, ?posted, fun few => ?answered⟩
  case running =>
    rw [queue, hw]
    rcases queue_orderStop .decelerating facts.order with none | ⟨e, running, one⟩
    · rw [none]
      exact fun e never => absurd never List.not_mem_nil
    · rw [one]
      exact fun e held => (List.mem_singleton.mp held) ▸ running
  case stop =>
    obtain ⟨queueU, axisU⟩ := facts.stays inert
    exact (stopMade_orderStop .decelerating facts.order).congr queueU axisU
      ((congrArg State.config (facts.turns leftV).1 :).trans (congrArg State.config entersS.same :))
      (queue.trans (by rw [hw])) (axis.trans (by rw [hw]))
  case told => exact head?_drop_of_prefix ((entersS.told few).trans (told.trans answers))
  case answered =>
    rw [room few]
    rw [config, posted, List.length_append, droppedAnswers, List.length_map, Nat.add_sub_cancel]
    exact List.drop_left
  case outbound =>
    have fewer := (tame_orderStop .decelerating u).closed (canSend_of_left (by
      rw [show u.lifecycle = v.lifecycle from (congrArg State.lifecycle (facts.turns leftV).1 :)]
      exact leftV))
    rw [← hw, facts.outbound] at fewer
    rw [shows]
    exact List.eq_nil_of_length_eq_zero (Nat.le_zero.mp fewer)
  all_goals rw [shows]
  case lifecycle => exact lifecycle
  case listenTimer => exact (congrArg State.listenTimer held :).trans entersS.listenTimer
  case presenceTimer => exact (congrArg State.presenceTimer held :).trans entersS.presenceTimer
  case receiver => exact (congrArg (fun y : State => y.lif.receiver) held :).trans entersS.receiver
  case transmitter => exact (congrArg (fun y : State => y.lif.transmitter) held :).trans entersS.transmitter
  case standing =>
    rw [show w.standing = v.standing from (congrArg State.standing held :)]
    exact entersS.engaged
  case faults => exact (congrArg State.faults held :).trans (congrArg State.faults entersS.same :)
  case roster => exact (congrArg State.roster held :).trans (congrArg State.roster entersS.same :)
  case halts => exact (congrArg State.halts held :).trans (congrArg State.halts entersS.same :)
  case command => exact (congrArg State.command held :).trans (congrArg State.command entersS.same :)
  case measured => exact (congrArg State.measured held :).trans (congrArg State.measured entersS.same :)
  case config => exact config

end Sys2Proof.Machine

/-! PROOFS. Bytes as numbers: fields, flags and words, read and written (R194). -/

namespace Sys2Proof.Machine

/-! ### Fields and flags -/

theorem field_eq (b : Byte) (k n : Nat) : field b k n = b.toNat / 2 ^ k % 2 ^ n := by
  rw [field, Nat.shiftRight_eq_div_pow]

theorem bit_eq (b : Byte) (k : Nat) : bit b k = decide (b.toNat / 2 ^ k % 2 = 1) := by
  rw [bit, BitVec.getLsbD, Nat.testBit_eq_decide_div_mod_eq]

theorem toNat_bitByte (v : Bool) {k : Nat} (inside : k < 8) : (bitByte v k).toNat = v.toNat * 2 ^ k := by
  cases v with
  | false => exact (Nat.zero_mul _).symm
  | true =>
    have fits : 2 ^ k < 2 ^ 8 := Nat.pow_lt_pow_right (by decide) inside
    show ((1#8) <<< k).toNat = 1 * 2 ^ k
    rw [BitVec.toNat_shiftLeft, Nat.shiftLeft_eq]
    exact Nat.mod_eq_of_lt (by rw [show (1#8).toNat = 1 from rfl, Nat.one_mul]; exact fits)

/-- Two bytes of which one lies above a place and the other below it. -/
theorem toNat_or_of_lt {x y : Byte} {k c : Nat} (low : x.toNat < 2 ^ k) (high : y.toNat = c * 2 ^ k) :
    (x ||| y).toNat = x.toNat + c * 2 ^ k := by
  rw [BitVec.toNat_or, high, Nat.lor_comm, Nat.mul_comm c, ← Nat.two_pow_add_eq_or_of_lt low, Nat.add_comm]

theorem toNat_ofNat_shift {n k : Nat} (fits : n * 2 ^ k < 256) : (BitVec.ofNat 8 n <<< k).toNat = n * 2 ^ k := by
  have small : n < 2 ^ 8 := lt_of_le_of_lt (Nat.le_mul_of_pos_right n (Nat.two_pow_pos k)) fits
  rw [BitVec.toNat_shiftLeft, BitVec.toNat_ofNat, Nat.mod_eq_of_lt small, Nat.shiftLeft_eq]
  exact Nat.mod_eq_of_lt fits

theorem toNat_ofNat_byte {n : Nat} (fits : n < 256) : (BitVec.ofNat 8 n).toNat = n := by
  rw [BitVec.toNat_ofNat]
  exact Nat.mod_eq_of_lt fits

/-! ### Words -/

theorem toNat_byteOf {w : Nat} (x : BitVec w) (k : Nat) : (byteOf x k).toNat = x.toNat / 256 ^ k % 256 := by
  rw [byteOf, BitVec.extractLsb'_toNat, Nat.shiftRight_eq_div_pow, Nat.pow_mul]

theorem length_bytesOf (n : Nat) {w : Nat} (x : BitVec w) : (bytesOf n x).length = n := by
  rw [bytesOf, List.length_map, List.length_range]

theorem natOfBytes_map_range {g : Nat → Byte} {m : Nat} (bytes : ∀ k, (g k).toNat = m / 256 ^ k % 256) (n : Nat) :
    natOfBytes ((List.range n).map g) = m % 256 ^ n := by
  induction n generalizing g m with
  | zero => rw [Nat.pow_zero, Nat.mod_one]; rfl
  | succ n ih =>
    have rest := ih (g := g ∘ Nat.succ) (m := m / 256) fun k => by
      rw [Function.comp_apply, bytes, Nat.div_div_eq_div_mul, Nat.succ_eq_add_one, Nat.pow_succ, Nat.mul_comm 256]
    rw [List.range_succ_eq_map, List.map_cons, List.map_map, natOfBytes, rest, bytes, Nat.pow_zero, Nat.div_one,
      Nat.pow_succ, Nat.mul_comm _ 256, Nat.mod_mul]

theorem natOfBytes_bytesOf (n : Nat) {w : Nat} (x : BitVec w) : natOfBytes (bytesOf n x) = x.toNat % 256 ^ n :=
  natOfBytes_map_range (toNat_byteOf x) n

theorem natOfBytes_lt (l : List Byte) : natOfBytes l < 256 ^ l.length := by
  induction l with
  | nil => exact Nat.one_pos
  | cons b l ih =>
    have low := b.isLt
    rw [natOfBytes, List.length_cons, Nat.pow_succ]
    omega

theorem natOfBytes_div (l : List Byte) (k : Nat) : natOfBytes l / 256 ^ k % 256 = (byteAt l k).toNat := by
  induction l generalizing k with
  | nil => rw [natOfBytes, Nat.zero_div]; rfl
  | cons b l ih =>
    have low := b.isLt
    cases k with
    | zero =>
      rw [natOfBytes, Nat.pow_zero, Nat.div_one]
      show _ = b.toNat
      omega
    | succ k =>
      rw [natOfBytes, Nat.pow_succ', ← Nat.div_div_eq_div_mul, show (b.toNat + 256 * natOfBytes l) / 256 = natOfBytes l by omega]
      exact ih k

/-- A word read where it was written. -/
theorem wordAt_of_bytes {w n k : Nat} {l : List Byte} {x : BitVec w} (wide : 2 ^ w ≤ 256 ^ n)
    (spelt : (l.drop k).take n = bytesOf n x) : wordAt w l k n = x := by
  rw [wordAt, spelt, natOfBytes_bytesOf, Nat.mod_eq_of_lt (Nat.lt_of_lt_of_le x.isLt wide), BitVec.ofNat_toNat,
    BitVec.setWidth_eq]

theorem bytesOf_natOfBytes {w : Nat} {l : List Byte} (wide : 256 ^ l.length ≤ 2 ^ w) :
    bytesOf l.length (BitVec.ofNat w (natOfBytes l)) = l := by
  refine List.ext_getElem (length_bytesOf _ _) fun k _ inside => BitVec.eq_of_toNat_eq ?_
  rw [show (bytesOf l.length (BitVec.ofNat w (natOfBytes l)))[k] = byteOf (BitVec.ofNat w (natOfBytes l)) k by
      simp [bytesOf], toNat_byteOf, BitVec.toNat_ofNat, Nat.mod_eq_of_lt (Nat.lt_of_lt_of_le (natOfBytes_lt l) wide),
    natOfBytes_div]
  rw [byteAt, List.getD_eq_getElem _ _ inside]

/-- The bytes of a word read. -/
theorem bytesOf_wordAt {w n k : Nat} {l : List Byte} (wide : 256 ^ n ≤ 2 ^ w) (inside : k + n ≤ l.length) :
    bytesOf n (wordAt w l k n) = (l.drop k).take n := by
  have length : ((l.drop k).take n).length = n := by
    rw [List.length_take, List.length_drop]
    omega
  have all := bytesOf_natOfBytes (w := w) (l := (l.drop k).take n) (by rw [length]; exact wide)
  rw [length] at all
  exact all

end Sys2Proof.Machine

/-! PROOFS. Own frames as a receiver reads them (R107, R121, R126, R195, R196). -/

namespace Sys2Proof.Machine

/-! ### Codes (R195, R202) -/

theorem frameKind_ofCode (k : FrameKind) : FrameKind.ofCode k.code.toNat = some k := by cases k <;> rfl

theorem frameKind_code_lt (k : FrameKind) : k.code.toNat < 8 := by cases k <;> decide

/-- A destination as a number. -/
def Dest.number : Dest → Nat
  | .broadcast => 63
  | .station n => n.val

theorem toNat_dest_code (d : Dest) : d.code.toNat = d.number := by
  cases d with
  | broadcast => rfl
  | station n => exact toNat_ofNat_byte (Nat.lt_trans n.isLt (by decide))

theorem dest_number_lt (d : Dest) : d.number < 64 := by
  cases d with
  | broadcast => decide
  | station n => exact Nat.lt_trans n.isLt (by decide)

/-- The destination field as a receiver reads it (R195). -/
def destOf (d : Nat) : Dest :=
  match toFin? 32 d with
  | some n => .station n
  | none => .broadcast

theorem toFin?_val {k : Nat} (n : Fin k) : toFin? k n.val = some n := dif_pos n.isLt

theorem destOf_number (d : Dest) : destOf d.number = d := by
  cases d with
  | broadcast => rfl
  | station n =>
    rw [destOf, show toFin? 32 (Dest.station n).number = some n from toFin?_val n]

/-! ### The header (R195) -/

section
variable (n : Station) (f : OutFrame)

theorem toNat_header_kind : (f.payload.kind.code ||| (BitVec.ofNat 8 n.val <<< 3)).toNat =
    f.payload.kind.code.toNat + n.val * 8 :=
  toNat_or_of_lt (k := 3) (frameKind_code_lt _) (toNat_ofNat_shift (k := 3) (by have := n.isLt; omega))

theorem toNat_header_dest (big : Bool) : (f.dest.code ||| bitByte f.retry 6 ||| bitByte big 7).toNat =
    f.dest.number + f.retry.toNat * 64 + big.toNat * 128 := by
  have dest := toNat_dest_code f.dest
  have fits := dest_number_lt f.dest
  have retry := toNat_or_of_lt (k := 6) (by rw [dest]; exact fits) (toNat_bitByte f.retry (by decide : 6 < 8))
  have one := Bool.toNat_le f.retry
  rw [dest] at retry
  have all := toNat_or_of_lt (k := 7) (by rw [retry]; omega) (toNat_bitByte big (by decide : 7 < 8))
  rw [all, retry]
  rfl

theorem toNat_header_sequence (len : Nat) : (BitVec.ofNat 8 f.sequence.val ||| (BitVec.ofNat 8 (len % 16) <<< 4)).toNat =
    f.sequence.val + len % 16 * 16 := by
  have sequence := toNat_ofNat_byte (Nat.lt_trans f.sequence.isLt (by decide : 16 < 256))
  have low : (BitVec.ofNat 8 f.sequence.val).toNat < 2 ^ 4 := by rw [sequence]; exact f.sequence.isLt
  rw [toNat_or_of_lt low (toNat_ofNat_shift (k := 4) (by omega)), sequence]
  rfl

end

/-- What a receiver reads from the characters of an own frame. -/
structure ReadBack (n : Station) (f : OutFrame) (chars : List Byte) : Prop where
  kind : field (byteAt chars 0) 0 3 = f.payload.kind.code.toNat
  source : field (byteAt chars 0) 3 5 = n.val
  dest : field (byteAt chars 1) 0 6 = f.dest.number
  retry : bit (byteAt chars 1) 6 = f.retry
  sequence : field (byteAt chars 2) 0 4 = f.sequence.val
  length : headerLength chars = f.payload.bytes.length
  payload : (chars.drop 3).take f.payload.bytes.length = f.payload.bytes
  whole : chars.length = 5 + f.payload.bytes.length
  check : checkOk chars = true

theorem frameChars_readBack (n : Station) {f : OutFrame} (short : f.payload.bytes.length ≤ 16) :
    ReadBack n f (frameChars n f) := by
  obtain ⟨p, hp⟩ : ∃ p, p = f.payload.bytes := ⟨_, rfl⟩
  rw [← hp] at short
  obtain ⟨b₀, h₀⟩ : ∃ b, b = f.payload.kind.code ||| (BitVec.ofNat 8 n.val <<< 3) := ⟨_, rfl⟩
  obtain ⟨b₁, h₁⟩ : ∃ b, b = f.dest.code ||| bitByte f.retry 6 ||| bitByte (16 ≤ p.length) 7 := ⟨_, rfl⟩
  obtain ⟨b₂, h₂⟩ : ∃ b, b = BitVec.ofNat 8 f.sequence.val ||| (BitVec.ofNat 8 (p.length % 16) <<< 4) := ⟨_, rfl⟩
  have n₀ := toNat_header_kind n f
  have n₁ := toNat_header_dest f (16 ≤ p.length)
  have n₂ := toNat_header_sequence f p.length
  rw [← h₀] at n₀
  rw [← h₁] at n₁
  rw [← h₂] at n₂
  have header : headerBytes n f = [b₀, b₁, b₂] := by rw [h₀, h₁, h₂, hp]; rfl
  obtain ⟨c, hc⟩ : ∃ c, c = checkBytes ([b₀, b₁, b₂] ++ p) := ⟨_, rfl⟩
  have two : c.length = 2 := by rw [hc]; rfl
  have chars : frameChars n f = b₀ :: b₁ :: b₂ :: (p ++ c) := by
    rw [hc, hp, ← header]
    show headerBytes n f ++ f.payload.bytes ++ _ = _
    rw [header]
    rfl
  have kind := frameKind_code_lt f.payload.kind
  have source := n.isLt
  have dest := dest_number_lt f.dest
  have retry := Bool.toNat_le f.retry
  have sequence := f.sequence.isLt
  have big : (decide (16 ≤ p.length)).toNat = p.length / 16 := by
    by_cases is : 16 ≤ p.length
    · rw [decide_eq_true is, show p.length = 16 by omega]
      rfl
    · rw [decide_eq_false is, Nat.div_eq_of_lt (by omega)]
      rfl
  rw [big] at n₁
  have length : headerLength (b₀ :: b₁ :: b₂ :: (p ++ c)) = p.length := by
    show field b₂ 4 4 + (if bit b₁ 7 then 16 else 0) = _
    rw [field_eq, bit_eq, n₂, n₁]
    by_cases is : 16 ≤ p.length
    · rw [if_pos (by rw [decide_eq_true_eq]; omega)]
      omega
    · rw [if_neg (by rw [decide_eq_true_eq]; omega)]
      omega
  rw [chars]
  refine ⟨?_, ?_, ?_, ?_, ?_, ?_, ?_, ?_, ?_⟩
  · show field b₀ 0 3 = _
    rw [field_eq, n₀]
    omega
  · show field b₀ 3 5 = _
    rw [field_eq, n₀]
    omega
  · show field b₁ 0 6 = _
    rw [field_eq, n₁]
    omega
  · show bit b₁ 6 = _
    rw [bit_eq, n₁]
    cases f.retry with
    | false => exact decide_eq_false (by rw [Bool.toNat_false]; omega)
    | true => exact decide_eq_true (by rw [Bool.toNat_true]; omega)
  · show field b₂ 0 4 = _
    rw [field_eq, n₂]
    omega
  · rw [length, hp]
  · rw [← hp]
    exact List.take_left
  · rw [← hp]
    simp only [List.length_cons, List.length_append, two]
    omega
  · have split : b₀ :: b₁ :: b₂ :: (p ++ c) = ([b₀, b₁, b₂] ++ p) ++ c := rfl
    have place : ([b₀, b₁, b₂] ++ p).length = 3 + p.length := by rw [List.length_append]; rfl
    rw [checkOk, length, split, ← place, List.drop_left, List.take_left, hc]
    exact beq_self_eq_true _

/-! ### Form (R107, R121) -/

theorem length_payload {p : Payload} (fits : ∀ g, p = .post g → 4 ≤ g.length ∧ g.length ≤ 16) :
    lengthAllowed p.kind p.bytes.length = true ∧ p.bytes.length ≤ 16 := by
  cases p with
  | mark m stamp =>
    cases stamp with
    | none => exact ⟨rfl, (by decide : 1 ≤ 16)⟩
    | some p => exact ⟨rfl, (by decide : 5 ≤ 16)⟩
  | post g => exact ⟨decide_eq_true (fits g rfl), (fits g rfl).2⟩
  | halt r k => exact ⟨rfl, (by decide : 2 ≤ 16)⟩
  | lift => exact ⟨rfl, (by decide : 0 ≤ 16)⟩
  | answer q k tag => exact ⟨rfl, (by decide : 3 ≤ 16)⟩
  | presence p => exact ⟨rfl, (by decide : 4 ≤ 16)⟩

theorem rxErrors_of_readBack {n : Station} {f : OutFrame} {chars : List Byte} (reads : ReadBack n f chars)
    (length : lengthAllowed f.payload.kind f.payload.bytes.length = true)
    (dest : destAllowed f.payload.kind n.val f.dest.number = true) :
    rxErrors { chars, framing := false, noise := false } = [] := by
  have form : formOk chars = true := by
    rw [formOk, reads.kind, frameKind_ofCode]
    show (lengthAllowed _ _ && destAllowed _ _ _) = true
    rw [reads.length, reads.source, reads.dest, length, dest]
    rfl
  have whole : chars.length = 5 + headerLength chars := by rw [reads.whole, reads.length]
  rw [rxErrors, if_pos whole, if_pos reads.check, if_pos form]
  rfl

theorem rxHeader_of_readBack {n : Station} {f : OutFrame} {chars : List Byte} (reads : ReadBack n f chars) (framing noise : Bool) :
    rxHeader { chars, framing, noise } = some { kind := f.payload.kind, source := n, dest := f.dest, retry := f.retry
                                                sequence := f.sequence, payload := f.payload.bytes } := by
  have dest : (match toFin? 32 (field (byteAt chars 1) 0 6) with
      | some n => Dest.station n
      | none => .broadcast) = f.dest := by
    rw [reads.dest]
    exact destOf_number f.dest
  unfold rxHeader
  simp only [reads.kind, frameKind_ofCode, reads.source, toFin?_val, reads.sequence, reads.retry, reads.length,
    reads.payload, Option.bind_eq_bind, Option.bind_some]
  exact congrArg (fun d => some ({ kind := f.payload.kind, source := n, dest := d, retry := f.retry
                                   sequence := f.sequence, payload := f.payload.bytes } : RxHeader)) dest

/-! ### Payloads (R195, R196) -/

theorem rxMark_markBytes (m : Mark) (stamp : Option Position) : rxMark (markBytes m stamp) = some (m, stamp) := by
  have inside := m.isLt
  have number : (BitVec.ofNat 8 m.val).toNat = m.val := toNat_ofNat_byte (by omega)
  cases stamp with
  | none =>
    have read : field (byteAt (markBytes m none) 0) 0 6 = m.val := by
      show field (BitVec.ofNat 8 m.val) 0 6 = m.val
      rw [field_eq, number]
      omega
    rw [rxMark, read, toFin?_val]
    rfl
  | some p =>
    have joined : (BitVec.ofNat 8 m.val ||| 0x40#8).toNat = m.val + 1 * 2 ^ 6 :=
      (toNat_or_of_lt (k := 6) (c := 1) (by rw [number]; exact inside) rfl).trans (by rw [number])
    have read : field (byteAt (markBytes m (some p)) 0) 0 6 = m.val := by
      show field (BitVec.ofNat 8 m.val ||| 0x40#8) 0 6 = m.val
      rw [field_eq, joined]
      omega
    have stamp : wordAt 32 (markBytes m (some p)) 1 4 = p := wordAt_of_bytes (by decide) rfl
    rw [rxMark, read, toFin?_val, stamp]
    rfl

theorem answerKind_code_lt (k : AnswerKind) : k.code.toNat < 3 := by
  cases k with
  | taken => exact (by decide : 0 < 3)
  | refused r => exact (by decide : 1 < 3)
  | finished o => exact (by decide : 2 < 3)

theorem toNat_answer_first (q : Seq) (k : AnswerKind) :
    (BitVec.ofNat 8 q.val ||| (k.code <<< 4)).toNat = q.val + k.code.toNat * 16 := by
  have sequence := toNat_ofNat_byte (Nat.lt_trans q.isLt (by decide : 16 < 256))
  have code := answerKind_code_lt k
  have high : (k.code <<< 4).toNat = k.code.toNat * 2 ^ 4 := by
    rw [BitVec.toNat_shiftLeft, Nat.shiftLeft_eq]
    omega
  rw [toNat_or_of_lt (by rw [sequence]; exact q.isLt) high, sequence]
  rfl

theorem rxAnswer_bytes (q : Seq) (k : AnswerKind) (tag : Byte) : rxAnswer (Payload.answer q k tag).bytes = some k ∧
    answeredSeq (Payload.answer q k tag).bytes = q := by
  have first := toNat_answer_first q k
  have code := answerKind_code_lt k
  have inside := q.isLt
  have kind : field (byteAt (Payload.answer q k tag).bytes 0) 4 2 = k.code.toNat := by
    show field (BitVec.ofNat 8 q.val ||| (k.code <<< 4)) 4 2 = _
    rw [field_eq, first]
    omega
  have sequence : field (byteAt (Payload.answer q k tag).bytes 0) 0 4 = q.val := by
    show field (BitVec.ofNat 8 q.val ||| (k.code <<< 4)) 0 4 = _
    rw [field_eq, first]
    omega
  refine ⟨?_, ?_⟩
  · rw [rxAnswer, kind]
    cases k with
    | taken => rfl
    | refused r => cases r <;> rfl
    | finished o => cases o <;> rfl
  · rw [answeredSeq, sequence]
    exact Fin.ext (Nat.mod_eq_of_lt inside)

end Sys2Proof.Machine

/-! PROOFS. A PRESENCE read back, and every own frame (R121, R163, R195, R196, R203). -/

namespace Sys2Proof.Machine

/-- Byte 1 of a PRESENCE. -/
def Presence.flags (p : Presence) : Byte :=
  p.axis.zeroExtend 8 ||| bitByte p.reticent 3 ||| bitByte p.haltRaised 4 ||| bitByte p.faults 5 ||| bitByte p.halts 6

theorem toNat_presence_flags (p : Presence) : p.flags.toNat =
    p.axis.toNat + p.reticent.toNat * 8 + p.haltRaised.toNat * 16 + p.faults.toNat * 32 + p.halts.toNat * 64 := by
  have axis : (p.axis.zeroExtend 8).toNat = p.axis.toNat := BitVec.toNat_setWidth_of_le (by decide)
  have small := p.axis.isLt
  have one := Bool.toNat_le p.reticent
  have two := Bool.toNat_le p.haltRaised
  have three := Bool.toNat_le p.faults
  have a := toNat_or_of_lt (k := 3) (by rw [axis]; exact small) (toNat_bitByte p.reticent (by decide : 3 < 8))
  rw [axis] at a
  have b := toNat_or_of_lt (k := 4) (by rw [a]; omega) (toNat_bitByte p.haltRaised (by decide : 4 < 8))
  rw [a] at b
  have c := toNat_or_of_lt (k := 5) (by rw [b]; omega) (toNat_bitByte p.faults (by decide : 5 < 8))
  rw [b] at c
  have d := toNat_or_of_lt (k := 6) (by rw [c]; omega) (toNat_bitByte p.halts (by decide : 6 < 8))
  rw [c] at d
  exact d

theorem presence_flags_read (p : Presence) : p.flags.truncate 3 = p.axis ∧ bit p.flags 3 = p.reticent ∧
    bit p.flags 4 = p.haltRaised ∧ bit p.flags 5 = p.faults ∧ bit p.flags 6 = p.halts := by
  have number := toNat_presence_flags p
  have small := p.axis.isLt
  have one := Bool.toNat_le p.reticent
  have two := Bool.toNat_le p.haltRaised
  have three := Bool.toNat_le p.faults
  have four := Bool.toNat_le p.halts
  have flag (v : Bool) {m : Nat} (is : m = v.toNat) : decide (m = 1) = v := by
    cases v <;> simp [is]
  refine ⟨BitVec.eq_of_toNat_eq ?_, ?_, ?_, ?_, ?_⟩
  · rw [BitVec.truncate, BitVec.toNat_setWidth, number]
    omega
  all_goals
    rw [bit_eq, number]
    refine flag _ ?_
    omega

theorem rxPresence_bytes {p : Presence} (period : 2 ≤ p.period.toNat) (reason : p.haltRaised = false → p.reason = 0) :
    rxPresence p.bytes = p := by
  obtain ⟨axis, reticent, raised, faults, halts⟩ := presence_flags_read p
  have read : rxPresence p.bytes = { period := if p.period.toNat < 2 then 2 else p.period
                                     axis := p.flags.truncate 3, reticent := bit p.flags 3, haltRaised := bit p.flags 4
                                     faults := bit p.flags 5, halts := bit p.flags 6, depth := p.depth
                                     reason := if bit p.flags 4 then p.reason else 0 } := rfl
  rw [read, axis, reticent, raised, faults, halts, if_neg (by omega)]
  cases is : p.haltRaised with
  | true =>
    rw [if_pos rfl, ← is]
  | false =>
    rw [if_neg Bool.false_ne_true, ← reason is, ← is]

theorem destAllowed_of_broadcast {k : FrameKind} {n : Nat} {d : Dest} (all : k ≠ .answer ∧ k ≠ .post)
    (dest : d = .broadcast) : destAllowed k n d.number = true := by
  obtain ⟨answer, post⟩ := all
  rw [dest]
  cases k with
  | answer => exact absurd rfl answer
  | post => exact absurd rfl post
  | _ => rfl

theorem destAllowed_of_other {k : FrameKind} {n m : Station} (one : k = .answer ∨ k = .post) (other : m ≠ n) :
    destAllowed k n.val (Dest.station m).number = true := by
  have fits : m.val < 32 ∧ m.val ≠ n.val := ⟨m.isLt, fun same => other (Fin.ext same)⟩
  rcases one with rfl | rfl <;> exact decide_eq_true fits

/-- Settles O54. -/
theorem ownFramesReadBackAsSent : Obligations.OwnFramesReadBackAsSent := by
  intro n f framing noise noFraming noNoise fits meant rx
  have length := length_payload (p := f.payload) fun g is => by
    rw [is] at fits
    exact fits
  have dest : destAllowed f.payload.kind n.val f.dest.number = true := by
    cases is : f.payload with
    | answer q k tag =>
      rw [is] at meant
      obtain ⟨m, one, other⟩ := meant
      rw [one]
      exact destAllowed_of_other (.inl rfl) other
    | post g =>
      rw [is] at meant
      obtain ⟨m, one, other⟩ := meant
      rw [one]
      exact destAllowed_of_other (.inr rfl) other
    | _ =>
      rw [is] at meant
      exact destAllowed_of_broadcast ⟨FrameKind.noConfusion, FrameKind.noConfusion⟩ meant
  have reads := frameChars_readBack n length.2
  have retry : f.retry = decide (0 < f.attempts) := by
    rw [OutFrame.retry]
    cases f.attempts <;> rfl
  refine ⟨?_, ?_, ?_⟩
  · show (rxErrors { chars := frameChars n f, framing, noise }).isEmpty = true
    rw [noFraming, noNoise, rxErrors_of_readBack reads length.1 dest]
    rfl
  · exact (rxHeader_of_readBack reads framing noise).trans (by rw [retry])
  · cases is : f.payload with
    | halt r k => exact ⟨rfl, by cases k <;> rfl⟩
    | lift => exact rfl
    | mark m stamp => exact rxMark_markBytes m stamp
    | answer q k tag => exact ⟨(rxAnswer_bytes q k tag).1, (rxAnswer_bytes q k tag).2, rfl⟩
    | post g => exact rfl
    | presence p =>
      rw [is] at fits
      exact rxPresence_bytes fits.1 fits.2

end Sys2Proof.Machine

/-! PROOFS. The fields of a segment read and written: marks, gates and speed fields (R5, R197, R198). -/

namespace Sys2Proof.Machine

/-! ### Mark bytes -/

/-- A mark byte as a number. -/
def markNumber : Option Mark → Nat
  | none => 0
  | some m => 128 + m.val

theorem toNat_markByte (m : Option Mark) : (markByte m).toNat = markNumber m := by
  cases m with
  | none => rfl
  | some m =>
    have number : (BitVec.ofNat 8 m.val).toNat = m.val := toNat_ofNat_byte (Nat.lt_trans m.isLt (by decide))
    have inside := m.isLt
    have joined := toNat_or_of_lt (k := 7) (c := 1) (x := BitVec.ofNat 8 m.val) (y := 0x80#8) (by rw [number]; omega) rfl
    rw [markByte, BitVec.or_comm, joined, number]
    exact Nat.add_comm _ _

theorem markOfByte_eq_some {b : Byte} {m : Option Mark} : markOfByte b = some m ↔ b = markByte m := by
  have range := b.isLt
  have spelt : b = markByte m ↔ b.toNat = markNumber m := by
    rw [← toNat_markByte, BitVec.toNat_inj]
  rw [spelt, markOfByte, bit_eq, field_eq]
  by_cases high : b.toNat / 2 ^ 7 % 2 = 1
  · rw [if_pos (decide_eq_true high)]
    cases m with
    | none =>
      refine ⟨fun read => ?_, fun is => ?_⟩
      · obtain ⟨x, -, never⟩ := Option.map_eq_some_iff.mp read
        cases never
      · rw [markNumber] at is
        omega
    | some m =>
      have inside := m.isLt
      refine ⟨fun read => ?_, fun is => ?_⟩
      · obtain ⟨x, found, same⟩ := Option.map_eq_some_iff.mp read
        obtain rfl := Option.some.inj same
        rw [toFin?] at found
        split at found
        · have number := congrArg Fin.val (Option.some.inj found)
          dsimp only at number
          rw [markNumber]
          omega
        · cases found
      · rw [markNumber] at is
        rw [show b.toNat / 2 ^ 0 % 2 ^ 7 = m.val by omega, toFin?_val]
        rfl
  · rw [if_neg (by rw [decide_eq_true_eq]; exact high)]
    cases m with
    | none =>
      rw [markNumber]
      refine ⟨fun read => ?_, fun is => if_pos (by omega)⟩
      by_cases zero : b.toNat / 2 ^ 0 % 2 ^ 7 = 0
      · omega
      · rw [if_neg zero] at read
        cases read
    | some m =>
      refine ⟨fun read => ?_, fun is => ?_⟩
      · split at read <;> cases read
      · have inside := m.isLt
        rw [markNumber] at is
        omega

/-! ### Gates -/

theorem inputOfCode_eq_some {n : Nat} {i : Input} : inputOfCode n = some i ↔ n = inputCode i := by
  constructor
  · intro read
    unfold inputOfCode at read
    split at read
    case h_8 => cases read
    all_goals rw [← Option.some.inj read]; rfl
  · rintro rfl
    cases i <;> rfl

theorem inputCode_lt (i : Input) : inputCode i < 7 := by cases i <;> decide

theorem gateableInput_eq_true (i : Input) : gateableInput i = true ↔ i ≠ .estop ∧ i ≠ .drvflt := by
  cases i <;> decide

/-- The gate bits of byte 2 as a number, without the chain flag. -/
def Gate.number : Gate → Nat
  | .absent => 0
  | .tally e => 1 + 4 * e.val
  | .watch w => 2 + 4 * w.val
  | .input i active => 3 + 4 * inputCode i + 32 * (!active).toNat

theorem toNat_gate_bits (g : Gate) : g.bits.toNat = g.number * 2 ^ 1 := by
  cases g with
  | absent => rfl
  | tally e =>
    have inside := e.isLt
    have joined := toNat_or_of_lt (k := 3) (x := 2#8) (by decide) (toNat_ofNat_shift (n := e.val) (k := 3) (by omega))
    rw [Gate.bits, Gate.number]
    refine joined.trans ?_
    rw [show (2#8).toNat = 2 from rfl]
    omega
  | watch w =>
    have inside := w.isLt
    have joined := toNat_or_of_lt (k := 3) (x := 4#8) (by decide) (toNat_ofNat_shift (n := w.val) (k := 3) (by omega))
    rw [Gate.bits, Gate.number]
    refine joined.trans ?_
    rw [show (4#8).toNat = 4 from rfl]
    omega
  | input i active =>
    have inside := inputCode_lt i
    have joined := toNat_or_of_lt (k := 3) (x := 6#8) (by decide) (toNat_ofNat_shift (n := inputCode i) (k := 3) (by omega))
    rw [show (6#8).toNat = 6 from rfl] at joined
    have all := toNat_or_of_lt (k := 6) (by rw [joined]; omega) (toNat_bitByte (!active) (by decide : 6 < 8))
    rw [joined] at all
    rw [Gate.bits, Gate.number]
    refine all.trans ?_
    omega

/-- The gates that a segment may carry (R5). -/
def GateFits : Gate → Prop
  | .input i _ => i ≠ .estop ∧ i ≠ .drvflt
  | _ => True

/-- A gate as a number spells the kind in its low two bits and the parameter above them. -/
theorem gateOfByte_of_number {b : Byte} {g : Gate} (fits : GateFits g) (number : b.toNat / 2 = g.number) :
    gateOfByte b = some g := by
  have range := b.isLt
  rw [gateOfByte, field_eq, field_eq]
  cases g with
  | absent =>
    rw [Gate.number] at number
    rw [show b.toNat / 2 ^ 1 % 2 ^ 2 = 0 by omega, show b.toNat / 2 ^ 3 % 2 ^ 5 = 0 by omega]
    rfl
  | tally e =>
    have inside := e.isLt
    rw [Gate.number] at number
    rw [show b.toNat / 2 ^ 1 % 2 ^ 2 = 1 by omega, show b.toNat / 2 ^ 3 % 2 ^ 5 = e.val by omega]
    simp only [toFin?_val, Option.map_some]
  | watch w =>
    have inside := w.isLt
    rw [Gate.number] at number
    rw [show b.toNat / 2 ^ 1 % 2 ^ 2 = 2 by omega, show b.toNat / 2 ^ 3 % 2 ^ 5 = w.val by omega]
    simp only [toFin?_val, Option.map_some]
  | input i active =>
    have inside := inputCode_lt i
    have one := Bool.toNat_le (!active)
    have gateable := (gateableInput_eq_true i).mpr fits
    rw [Gate.number] at number
    have low : (!active).toNat = 0 ↔ active = true := by cases active <;> decide
    rw [show b.toNat / 2 ^ 1 % 2 ^ 2 = 3 by omega]
    obtain ⟨p, hp⟩ : ∃ p, p = b.toNat / 2 ^ 3 % 2 ^ 5 := ⟨_, rfl⟩
    have code : p % 8 = inputCode i := by omega
    have level : decide (p < 8) = active := by
      cases active with
      | true => exact decide_eq_true (by have := low.mpr rfl; omega)
      | false => exact decide_eq_false (by rw [show (!false).toNat = 1 from rfl] at number; omega)
    rw [← hp]
    simp only [show p < 16 by omega, if_true, code, inputOfCode_eq_some.mpr rfl, gateable, level]

theorem gateOfByte_number {b : Byte} {g : Gate} (read : gateOfByte b = some g) : GateFits g ∧ b.toNat / 2 = g.number := by
  have range := b.isLt
  rw [gateOfByte, field_eq, field_eq] at read
  have parts : b.toNat / 2 = b.toNat / 2 ^ 1 % 2 ^ 2 + 4 * (b.toNat / 2 ^ 3 % 2 ^ 5) := by omega
  rw [parts]
  obtain ⟨p, hp⟩ : ∃ p, p = b.toNat / 2 ^ 3 % 2 ^ 5 := ⟨_, rfl⟩
  obtain ⟨t, ht⟩ : ∃ t, t = b.toNat / 2 ^ 1 % 2 ^ 2 := ⟨_, rfl⟩
  have four : t < 4 := by omega
  rw [← hp, ← ht] at read ⊢
  match t, four with
  | 0, _ =>
    by_cases zero : p = 0
    · have read := (if_pos zero).symm.trans read
      rw [← Option.some.inj read, zero]
      exact ⟨trivial, rfl⟩
    · have read := (if_neg zero).symm.trans read
      cases read
  | 1, _ =>
    obtain ⟨e, found, is⟩ := Option.map_eq_some_iff.mp read
    rw [toFin?] at found
    split at found
    · rw [← is, ← Option.some.inj found]
      exact ⟨trivial, rfl⟩
    · cases found
  | 2, _ =>
    obtain ⟨w, found, is⟩ := Option.map_eq_some_iff.mp read
    rw [toFin?] at found
    split at found
    · rw [← is, ← Option.some.inj found]
      exact ⟨trivial, rfl⟩
    · cases found
  | 3, _ =>
    by_cases small : p < 16
    · have read := (if_pos small).symm.trans read
      cases code : inputOfCode (p % 8) with
      | none =>
        rw [code] at read
        cases read
      | some i =>
        rw [code] at read
        by_cases gateable : gateableInput i = true
        · have read := (if_pos gateable).symm.trans read
          rw [← Option.some.inj read]
          refine ⟨(gateableInput_eq_true i).mp gateable, ?_⟩
          have number := inputOfCode_eq_some.mp code
          rw [Gate.number, ← number]
          by_cases low : p < 8
          · rw [decide_eq_true low, show (!true).toNat = 0 from rfl]
            omega
          · rw [decide_eq_false low, show (!false).toNat = 1 from rfl]
            omega
        · have read := (if_neg gateable).symm.trans read
          cases read
    · have read := (if_neg small).symm.trans read
      cases read

theorem gateOfByte_eq_some {b : Byte} {g : Gate} : gateOfByte b = some g ↔ GateFits g ∧ b.toNat / 2 = g.number :=
  ⟨gateOfByte_number, fun ⟨fits, number⟩ => gateOfByte_of_number fits number⟩

/-- Byte 2 of a segment: the gate and the chain flag. -/
theorem gate_byte_iff (b : Byte) (g : Gate) (chain : Bool) :
    b = g.bits ||| bitByte chain 0 ↔ b.toNat / 2 = g.number ∧ bit b 0 = chain := by
  have range := b.isLt
  have one := Bool.toNat_le chain
  have flag : (bitByte chain 0).toNat = chain.toNat := (toNat_bitByte chain (by decide : 0 < 8)).trans (Nat.mul_one _)
  have joined : (g.bits ||| bitByte chain 0).toNat = chain.toNat + g.number * 2 ^ 1 := by
    rw [BitVec.or_comm, toNat_or_of_lt (k := 1) (by rw [flag]; omega) (toNat_gate_bits g), flag]
  rw [← BitVec.toNat_inj, joined, bit_eq]
  cases chain with
  | true =>
    rw [decide_eq_true_eq, show true.toNat = 1 from rfl]
    omega
  | false =>
    rw [decide_eq_false_iff_not, show false.toNat = 0 from rfl]
    omega

/-! ### Speed fields -/

theorem seven_of_length {l : List Byte} (length : l.length = 7) :
    ∃ a₀ a₁ a₂ a₃ a₄ a₅ a₆, l = [a₀, a₁, a₂, a₃, a₄, a₅, a₆] := by
  match l, length with
  | [a₀, a₁, a₂, a₃, a₄, a₅, a₆], _ => exact ⟨_, _, _, _, _, _, _, rfl⟩

theorem length_ramp_bytes (r : Ramp) : r.bytes.length = 7 := rfl

theorem rampAt_eq_some {l : List Byte} {k : Nat} {r : Ramp} (inside : k + 7 = l.length) :
    rampAt l k = some r ↔ RampFits r ∧ l.drop k = r.bytes := by
  obtain ⟨a₀, a₁, a₂, a₃, a₄, a₅, a₆, seven⟩ := seven_of_length (l := l.drop k) (by rw [List.length_drop]; omega)
  have accelAt : l.drop (k + 3) = [a₃, a₄, a₅, a₆] := by rw [← List.drop_drop, seven]; rfl
  have decelAt : l.drop (k + 5) = [a₅, a₆] := by rw [← List.drop_drop, seven]; rfl
  have read : rampAt l k = if 1 ≤ natOfBytes [a₀, a₁, a₂] ∧ natOfBytes [a₀, a₁, a₂] ≤ 4000000 ∧ 1 ≤ natOfBytes [a₃, a₄] then
      some { top := natOfBytes [a₀, a₁, a₂], accel := natOfBytes [a₃, a₄], decel := natOfBytes [a₅, a₆] } else none := by
    rw [rampAt, seven, accelAt, decelAt]
    rfl
  rw [read, seven]
  have accelLess : natOfBytes [a₃, a₄] < 256 ^ 2 := natOfBytes_lt [a₃, a₄]
  have decelLess : natOfBytes [a₅, a₆] < 256 ^ 2 := natOfBytes_lt [a₅, a₆]
  have topBack := bytesOf_natOfBytes (w := 24) (l := [a₀, a₁, a₂]) (show 256 ^ 3 ≤ 2 ^ 24 by decide)
  have accelBack := bytesOf_natOfBytes (w := 16) (l := [a₃, a₄]) (show 256 ^ 2 ≤ 2 ^ 16 by decide)
  have decelBack := bytesOf_natOfBytes (w := 16) (l := [a₅, a₆]) (show 256 ^ 2 ≤ 2 ^ 16 by decide)
  constructor
  · intro taken
    split at taken
    · rename_i fits
      obtain ⟨least, most, accel⟩ := fits
      rw [← Option.some.inj taken]
      refine ⟨⟨least, most, accel, by dsimp only; omega, by dsimp only; omega⟩, ?_⟩
      have all := congrArg₂ (· ++ ·) (congrArg₂ (· ++ ·) topBack accelBack) decelBack
      exact all.symm
    · cases taken
  · rintro ⟨⟨least, most, accel, accelMost, decelMost⟩, spelt⟩
    obtain ⟨top, accel', decel⟩ := r
    have topIs : [a₀, a₁, a₂] = bytesOf 3 (BitVec.ofNat 24 top) := congrArg (List.take 3) spelt
    have accelIs : [a₃, a₄] = bytesOf 2 (BitVec.ofNat 16 accel') := congrArg (fun x => (x.drop 3).take 2) spelt
    have decelIs : [a₅, a₆] = bytesOf 2 (BitVec.ofNat 16 decel) := congrArg (List.drop 5) spelt
    dsimp only at least most accel accelMost decelMost
    have number {n w x : Nat} (wide : 2 ^ w = 256 ^ n) (small : x < 2 ^ w) : natOfBytes (bytesOf n (BitVec.ofNat w x)) = x := by
      rw [natOfBytes_bytesOf, BitVec.toNat_ofNat, ← wide, Nat.mod_mod, Nat.mod_eq_of_lt small]
    rw [topIs, accelIs, decelIs, number (by decide) (by omega), number (by decide) (by omega), number (by decide) (by omega),
      if_pos ⟨least, most, accel⟩]

end Sys2Proof.Machine

/-! PROOFS. The bytes of a segment by its kind (R2, R197, R198). -/

namespace Sys2Proof.Machine

/-! ### The first byte of a RUN and of a SEEK -/

theorem toNat_dir_ofBit (v : Bool) : (Dir.ofBit v).code.toNat = v.toNat := by cases v <;> rfl

theorem toNat_stop_ofBit (v : Bool) : (StopKind.ofBit v).code.toNat = v.toNat := by cases v <;> rfl

theorem toNat_decide_one {m : Nat} (small : m < 2) : (decide (m = 1)).toNat = m := by
  match m, small with
  | 0, _ => rfl
  | 1, _ => rfl

theorem dir_ofBit_of_code {d : Dir} {m : Nat} (is : m = d.code.toNat) : Dir.ofBit (decide (m = 1)) = d := by
  rw [is]
  cases d <;> rfl

theorem stop_ofBit_of_code {k : StopKind} {m : Nat} (is : m = k.code.toNat) : StopKind.ofBit (decide (m = 1)) = k := by
  rw [is]
  cases k <;> rfl

theorem dir_code_le (d : Dir) : d.code.toNat ≤ 1 := by cases d <;> decide

theorem stop_code_le (k : StopKind) : k.code.toNat ≤ 1 := by cases k <;> decide

/-- Byte 5 of a SEEK. -/
def seekByte (d : Dir) (i : Input) (zero : Bool) (k : StopKind) : Byte :=
  d.code ||| (BitVec.ofNat 8 (inputCode i) <<< 1) ||| bitByte zero 4 ||| (k.code <<< 5)

theorem toNat_seekByte (d : Dir) (i : Input) (zero : Bool) (k : StopKind) : (seekByte d i zero k).toNat =
    d.code.toNat + inputCode i * 2 + zero.toNat * 16 + k.code.toNat * 32 := by
  have dir := dir_code_le d
  have input := inputCode_lt i
  have flag := Bool.toNat_le zero
  have stop := stop_code_le k
  have high : (k.code <<< 5).toNat = k.code.toNat * 2 ^ 5 := by
    rw [BitVec.toNat_shiftLeft, Nat.shiftLeft_eq]
    omega
  have a := toNat_or_of_lt (x := d.code) (k := 1) (by omega) (toNat_ofNat_shift (n := inputCode i) (k := 1) (by omega))
  have b := toNat_or_of_lt (k := 4) (by rw [a]; omega) (toNat_bitByte zero (by decide : 4 < 8))
  rw [a] at b
  have c := toNat_or_of_lt (k := 5) (by rw [b]; omega) high
  rw [b] at c
  exact c

/-! ### The bodies -/

/-- The fields of a kind in their ranges (R5, R198). -/
def BodyFits : SegmentBody → Prop
  | .moveRel w r => w ≠ 0 ∧ w ≠ 0x80000000 ∧ RampFits r
  | .moveAbs _ r | .run _ r => RampFits r
  | .seek _ i _ _ r => i ≠ .estop ∧ i ≠ .drvflt ∧ RampFits r
  | .dwell t => 1 ≤ t ∧ t ≤ 65535
  | .setpos _ => True

theorem lengthOfKind_kindCode (body : SegmentBody) : lengthOfKind body.kindCode.toNat = some (5 + body.bytes.length) := by
  cases body <;> rfl

section
variable {a₀ a₁ a₂ a₃ a₄ : Byte} {rest : List Byte}

theorem rest_of_word (long : 4 ≤ rest.length) :
    rest = bytesOf 4 (wordAt 32 (a₀ :: a₁ :: a₂ :: a₃ :: a₄ :: rest) 5 4) ++
      (a₀ :: a₁ :: a₂ :: a₃ :: a₄ :: rest).drop 9 := by
  rw [bytesOf_wordAt (by decide) (by simp only [List.length_cons]; omega)]
  exact (List.take_append_drop 4 rest).symm

theorem rest_of_byte (long : 1 ≤ rest.length) : rest = byteAt (a₀ :: a₁ :: a₂ :: a₃ :: a₄ :: rest) 5 ::
    (a₀ :: a₁ :: a₂ :: a₃ :: a₄ :: rest).drop 6 := by
  cases rest with
  | nil => exact absurd long (by decide)
  | cons b l => rfl

theorem wordAt_of_rest {w : Position} {l : List Byte} (spelt : rest = bytesOf 4 w ++ l) :
    wordAt 32 (a₀ :: a₁ :: a₂ :: a₃ :: a₄ :: rest) 5 4 = w := by
  rw [spelt]
  exact wordAt_of_bytes (by decide) rfl

/-- The body that bytes spell has their kind code, fields in their ranges, and those bytes. -/
theorem bodyOfBytes_sound {kind : Nat} {body : SegmentBody} (length : lengthOfKind kind = some (5 + rest.length))
    (read : bodyOfBytes kind (a₀ :: a₁ :: a₂ :: a₃ :: a₄ :: rest) = some body) :
    kind = body.kindCode.toNat ∧ BodyFits body ∧ rest = body.bytes := by
  obtain ⟨b, hb⟩ : ∃ b, b = a₀ :: a₁ :: a₂ :: a₃ :: a₄ :: rest := ⟨_, rfl⟩
  have all : b.length = 5 + rest.length := by rw [hb]; simp only [List.length_cons]; omega
  have word (long : 4 ≤ rest.length) : rest = bytesOf 4 (wordAt 32 b 5 4) ++ b.drop 9 := by rw [hb]; exact rest_of_word long
  have byte (long : 1 ≤ rest.length) : rest = byteAt b 5 :: b.drop 6 := by rw [hb]; exact rest_of_byte long
  have tail : b.drop 5 = rest := by rw [hb]; rfl
  have ramp (k : Nat) {r : Ramp} (end_ : k + 7 = b.length) (is : rampAt b k = some r) := (rampAt_eq_some end_).mp is
  rw [← hb] at read
  match kind, length with
  | 0, length =>
    have size := Option.some.inj length
    by_cases zero : wordAt 32 b 5 4 = 0 ∨ wordAt 32 b 5 4 = 0x80000000
    · have read := (if_pos zero).symm.trans read
      cases read
    · have read := (if_neg zero).symm.trans read
      obtain ⟨r, found, is⟩ := Option.map_eq_some_iff.mp read
      obtain ⟨fits, spelt⟩ := ramp 9 (by omega) found
      rw [← is]
      refine ⟨rfl, ⟨fun h => zero (.inl h), fun h => zero (.inr h), fits⟩, ?_⟩
      rw [SegmentBody.bytes, ← spelt]
      exact word (by omega)
  | 1, length =>
    have size := Option.some.inj length
    obtain ⟨r, found, is⟩ := Option.map_eq_some_iff.mp read
    obtain ⟨fits, spelt⟩ := ramp 9 (by omega) found
    rw [← is]
    refine ⟨rfl, fits, ?_⟩
    rw [SegmentBody.bytes, ← spelt]
    exact word (by omega)
  | 2, length =>
    have size := Option.some.inj length
    obtain ⟨x, hx⟩ : ∃ x, x = byteAt b 5 := ⟨_, rfl⟩
    by_cases plain : field x 1 7 = 0
    · have read := (if_pos (hx ▸ plain)).symm.trans read
      obtain ⟨r, found, is⟩ := Option.map_eq_some_iff.mp read
      obtain ⟨fits, spelt⟩ := ramp 6 (by omega) found
      have range := x.isLt
      rw [field_eq] at plain
      have dir : (Dir.ofBit (bit x 0)).code = x := BitVec.eq_of_toNat_eq (by
        rw [toNat_dir_ofBit, bit_eq, toNat_decide_one (by omega)]
        omega)
      rw [← is, ← hx]
      refine ⟨rfl, fits, ?_⟩
      rw [SegmentBody.bytes, ← spelt, dir, hx]
      exact byte (by omega)
    · have read := (if_neg (hx ▸ plain)).symm.trans read
      cases read
  | 3, length =>
    have size := Option.some.inj length
    obtain ⟨x, hx⟩ : ∃ x, x = byteAt b 5 := ⟨_, rfl⟩
    by_cases plain : field x 6 2 = 0
    · have read := (if_pos (hx ▸ plain)).symm.trans read
      rw [← hx] at read
      cases code : inputOfCode (field x 1 3) with
      | none =>
        rw [code] at read
        cases read
      | some i =>
        rw [code] at read
        by_cases gateable : gateableInput i = true
        · have read := (if_pos gateable).symm.trans read
          obtain ⟨r, found, is⟩ := Option.map_eq_some_iff.mp read
          obtain ⟨fits, spelt⟩ := ramp 6 (by omega) found
          obtain ⟨estop, drvflt⟩ := (gateableInput_eq_true i).mp gateable
          have range := x.isLt
          have number := inputOfCode_eq_some.mp code
          rw [field_eq] at plain number
          have first : seekByte (.ofBit (bit x 0)) i (bit x 4) (.ofBit (bit x 5)) = x := BitVec.eq_of_toNat_eq (by
            rw [toNat_seekByte, toNat_dir_ofBit, toNat_stop_ofBit, bit_eq, bit_eq, bit_eq, toNat_decide_one (by omega),
              toNat_decide_one (by omega), toNat_decide_one (by omega)]
            omega)
          rw [← is]
          refine ⟨rfl, ⟨estop, drvflt, fits⟩, ?_⟩
          rw [SegmentBody.bytes, ← spelt]
          refine (byte (by omega)).trans (congrArg (· :: b.drop 6) ?_)
          rw [← hx]
          exact first.symm
        · have read := (if_neg gateable).symm.trans read
          cases read
    · have read := (if_neg (hx ▸ plain)).symm.trans read
      cases read
  | 4, length =>
    have size : 2 = rest.length := by have := Option.some.inj length; omega
    have whole : (b.drop 5).take 2 = rest := by rw [tail, size, List.take_length]
    by_cases zero : natOfBytes ((b.drop 5).take 2) = 0
    · have read := (if_pos zero).symm.trans read
      cases read
    · have read := (if_neg zero).symm.trans read
      rw [← Option.some.inj read]
      rw [whole] at zero ⊢
      have less := natOfBytes_lt rest
      have back := bytesOf_natOfBytes (w := 16) (l := rest) (by rw [← size]; decide)
      rw [← size] at less back
      refine ⟨rfl, ⟨by omega, by omega⟩, back.symm⟩
  | 5, length =>
    have size := Option.some.inj length
    rw [← Option.some.inj read]
    refine ⟨rfl, trivial, ?_⟩
    have all := word (by omega)
    rw [List.drop_eq_nil_of_le (by omega), List.append_nil] at all
    exact all

/-- Bytes with a kind's code, its fields in their ranges, spell the body. -/
theorem bodyOfBytes_complete {body : SegmentBody} (fits : BodyFits body) (spelt : rest = body.bytes) :
    bodyOfBytes body.kindCode.toNat (a₀ :: a₁ :: a₂ :: a₃ :: a₄ :: rest) = some body := by
  obtain ⟨b, hb⟩ : ∃ b, b = a₀ :: a₁ :: a₂ :: a₃ :: a₄ :: rest := ⟨_, rfl⟩
  have all : b.length = 5 + body.bytes.length := by rw [hb, ← spelt]; simp only [List.length_cons]; omega
  have ramp (k : Nat) {r : Ramp} (end_ : k + 7 = b.length) (fits : RampFits r) (is : b.drop k = r.bytes) :=
    (rampAt_eq_some end_).mpr ⟨fits, is⟩
  rw [← hb]
  cases body with
  | moveRel w r =>
    obtain ⟨zero, least, fits⟩ := fits
    have word : wordAt 32 b 5 4 = w := by rw [hb]; exact wordAt_of_rest spelt
    have speeds := ramp 9 all.symm fits (by rw [hb, spelt]; rfl)
    show (if wordAt 32 b 5 4 = 0 ∨ wordAt 32 b 5 4 = 0x80000000 then none else (rampAt b 9).map _) = _
    rw [word, speeds, if_neg (not_or.mpr ⟨zero, least⟩)]
    rfl
  | moveAbs w r =>
    have word : wordAt 32 b 5 4 = w := by rw [hb]; exact wordAt_of_rest spelt
    have speeds := ramp 9 all.symm fits (by rw [hb, spelt]; rfl)
    show (rampAt b 9).map (SegmentBody.moveAbs (wordAt 32 b 5 4)) = _
    rw [word, speeds]
    rfl
  | run d r =>
    have first : byteAt b 5 = d.code := by rw [hb, spelt]; rfl
    have speeds := ramp 6 all.symm fits (by rw [hb, spelt]; rfl)
    have small := dir_code_le d
    show (if field (byteAt b 5) 1 7 = 0 then (rampAt b 6).map (SegmentBody.run (.ofBit (bit (byteAt b 5) 0))) else none) = _
    rw [first, speeds, field_eq, bit_eq, if_pos (by omega), dir_ofBit_of_code (d := d) (by omega)]
    rfl
  | seek d i zero k r =>
    obtain ⟨estop, drvflt, fits⟩ := fits
    have first : byteAt b 5 = seekByte d i zero k := by rw [hb, spelt]; rfl
    have speeds := ramp 6 all.symm fits (by rw [hb, spelt]; rfl)
    have dir := dir_code_le d
    have input := inputCode_lt i
    have flag := Bool.toNat_le zero
    have stop := stop_code_le k
    have number := toNat_seekByte d i zero k
    have code : inputOfCode (field (seekByte d i zero k) 1 3) = some i := inputOfCode_eq_some.mpr (by
      rw [field_eq, number]
      omega)
    have plain : field (seekByte d i zero k) 6 2 = 0 := by
      rw [field_eq, number]
      omega
    have zeroes : bit (seekByte d i zero k) 4 = zero := by
      rw [bit_eq, number, show (d.code.toNat + inputCode i * 2 + zero.toNat * 16 + k.code.toNat * 32) / 2 ^ 4 % 2 = zero.toNat by omega]
      cases zero <;> rfl
    have gateable := (gateableInput_eq_true i).mpr ⟨estop, drvflt⟩
    have direction : Dir.ofBit (bit (seekByte d i zero k) 0) = d := by
      rw [bit_eq, number]
      exact dir_ofBit_of_code (by omega)
    have kind : StopKind.ofBit (bit (seekByte d i zero k) 5) = k := by
      rw [bit_eq, number]
      exact stop_ofBit_of_code (by omega)
    unfold bodyOfBytes
    simp only [first, SegmentBody.kindCode]
    simp only [show (3 : Byte).toNat = 3 from rfl, plain, if_true, code, gateable, speeds, zeroes, direction, kind, Option.map_some]
  | dwell t =>
    obtain ⟨least, most⟩ := fits
    have number : natOfBytes ((b.drop 5).take 2) = t := by
      have whole : (b.drop 5).take 2 = bytesOf 2 (BitVec.ofNat 16 t) := by rw [hb, spelt]; rfl
      rw [whole, natOfBytes_bytesOf, BitVec.toNat_ofNat]
      omega
    show (if natOfBytes ((b.drop 5).take 2) = 0 then none else some (SegmentBody.dwell (natOfBytes ((b.drop 5).take 2)))) = _
    rw [number, if_neg (by omega)]
  | setpos w =>
    have word : wordAt 32 b 5 4 = w := by
      rw [hb]
      exact wordAt_of_rest (l := []) (by rw [spelt, List.append_nil]; rfl)
    show some (SegmentBody.setpos (wordAt 32 b 5 4)) = _
    rw [word]

end

end Sys2Proof.Machine

/-! PROOFS. The bytes of a segment spell it, and no other bytes do (R5, R6, R197, R198). -/

namespace Sys2Proof.Machine

/-- What the fields of bytes that spell a segment are. -/
structure SegmentReads (b : List Byte) (g : Segment) : Prop where
  length : lengthOfKind (field (byteAt b 0) 5 3) = some b.length
  declared : declaredLength b = b.length
  tag : byteAt b 1 = g.tag
  gate : gateOfByte (byteAt b 2) = some g.gate
  chain : bit (byteAt b 2) 0 = g.chain
  startMark : markOfByte (byteAt b 3) = some g.startMark
  endMark : markOfByte (byteAt b 4) = some g.endMark
  body : bodyOfBytes (field (byteAt b 0) 5 3) b = some g.body
  mayChain : g.chain = true → g.body.mayChain = true

theorem segmentOfBytes_eq_some {b : List Byte} {g : Segment} : segmentOfBytes b = some g ↔ SegmentReads b g := by
  constructor
  · intro read
    unfold segmentOfBytes at read
    simp only [Option.bind_eq_bind, Option.bind_eq_some_iff] at read
    obtain ⟨n, length, read⟩ := read
    by_cases sized : declaredLength b = n ∧ b.length = n
    · have read := (if_pos sized).symm.trans read
      obtain ⟨declared, long⟩ := sized
      simp only [Option.bind_eq_some_iff] at read
      obtain ⟨gate, hGate, start, hStart, finish, hFinish, body, hBody, read⟩ := read
      by_cases chained : (bit (byteAt b 2) 0 && !body.mayChain) = true
      · have read := (if_pos chained).symm.trans read
        cases read
      · have read := (if_neg chained).symm.trans read
        rw [← Option.some.inj read]
        refine ⟨by rw [long]; exact length, declared.trans long.symm, rfl, hGate, rfl, hStart, hFinish, hBody, fun chain => ?_⟩
        dsimp only at chain
        rw [chain] at chained
        simpa using chained
    · have read := (if_neg sized).symm.trans read
      cases read
  · rintro ⟨length, declared, tag, gate, chain, startMark, endMark, body, mayChain⟩
    have allowed : ¬ (g.chain && !g.body.mayChain) = true := by
      cases is : g.chain with
      | false => exact Bool.false_ne_true
      | true => rw [mayChain is]; exact Bool.false_ne_true
    unfold segmentOfBytes
    simp only [length, declared, gate, startMark, endMark, body, tag, chain, Option.bind_eq_bind, Option.bind_some,
      and_self, if_true]
    exact if_neg allowed

theorem five_of_length {b : List Byte} (long : 5 ≤ b.length) : ∃ a₀ a₁ a₂ a₃ a₄ rest, b = a₀ :: a₁ :: a₂ :: a₃ :: a₄ :: rest := by
  match b, long with
  | a₀ :: a₁ :: a₂ :: a₃ :: a₄ :: rest, _ => exact ⟨_, _, _, _, _, _, rfl⟩

theorem lengthOfKind_ge {k n : Nat} (is : lengthOfKind k = some n) : 5 ≤ n ∧ n ≤ 16 := by
  unfold lengthOfKind at is
  split at is
  case h_7 => cases is
  all_goals
    rw [← Option.some.inj is]
    exact ⟨by decide, by decide⟩

theorem kindCode_lt (body : SegmentBody) : body.kindCode.toNat < 8 := by
  cases body <;> exact Nat.le_of_ble_eq_true rfl

theorem length_body_le (body : SegmentBody) : body.bytes.length ≤ 11 := by
  have length := lengthOfKind_ge (lengthOfKind_kindCode body)
  omega

/-- The first byte of a segment. -/
theorem toNat_segment_first (body : SegmentBody) :
    (BitVec.ofNat 8 (5 + body.bytes.length) ||| (body.kindCode <<< 5)).toNat =
      5 + body.bytes.length + body.kindCode.toNat * 32 := by
  have kind := kindCode_lt body
  have length := length_body_le body
  have low : (BitVec.ofNat 8 (5 + body.bytes.length)).toNat = 5 + body.bytes.length := toNat_ofNat_byte (by omega)
  have high : (body.kindCode <<< 5).toNat = body.kindCode.toNat * 2 ^ 5 := by
    rw [BitVec.toNat_shiftLeft, Nat.shiftLeft_eq]
    omega
  rw [toNat_or_of_lt (k := 5) (by rw [low]; omega) high, low]
  rfl

theorem segmentFits_iff (g : Segment) :
    SegmentFits g ↔ GateFits g.gate ∧ (g.chain = true → g.body.mayChain = true) ∧ BodyFits g.body := by
  obtain ⟨tag, chain, gate, start, finish, body⟩ := g
  have gates : (match gate with
    | .input i _ => i ≠ .estop ∧ i ≠ .drvflt
    | _ => True) ↔ GateFits gate := by
    cases gate <;> exact Iff.rfl
  have chains : (chain = true → false = true) ↔ chain = false := by cases chain <;> decide
  show _ ∧ _ ↔ _
  refine and_congr gates ?_
  cases body with
  | moveRel w r => exact ⟨fun fits => ⟨fun _ => rfl, fits⟩, fun fits => fits.2⟩
  | moveAbs w r => exact ⟨fun fits => ⟨fun _ => rfl, fits⟩, fun fits => fits.2⟩
  | run d r => exact ⟨fun fits => ⟨fun _ => rfl, fits⟩, fun fits => fits.2⟩
  | seek d i zero k r => exact and_congr chains.symm Iff.rfl
  | dwell t => exact and_congr chains.symm Iff.rfl
  | setpos w => exact chains.symm.trans (and_iff_left trivial).symm

/-- R197: the layout of a segment. -/
theorem segmentOfBytes_iff (b : List Byte) (g : Segment) : segmentOfBytes b = some g ↔ SegmentFits g ∧ b = g.bytes := by
  rw [segmentOfBytes_eq_some, segmentFits_iff]
  constructor
  · rintro ⟨length, declared, tag, gate, chain, startMark, endMark, body, mayChain⟩
    obtain ⟨a₀, a₁, a₂, a₃, a₄, rest, rfl⟩ := five_of_length (lengthOfKind_ge length).1
    have size : (a₀ :: a₁ :: a₂ :: a₃ :: a₄ :: rest).length = 5 + rest.length := by simp only [List.length_cons]; omega
    rw [size] at length declared
    obtain ⟨kind, fits, spelt⟩ := bodyOfBytes_sound length body
    obtain ⟨gateFits, number⟩ := gateOfByte_eq_some.mp gate
    refine ⟨⟨gateFits, mayChain, fits⟩, ?_⟩
    have first : a₀ = BitVec.ofNat 8 (5 + g.body.bytes.length) ||| (g.body.kindCode <<< 5) := BitVec.eq_of_toNat_eq (by
      have range := a₀.isLt
      change field a₀ 0 5 = _ at declared
      change field a₀ 5 3 = _ at kind
      rw [toNat_segment_first, ← spelt, ← declared, ← kind, field_eq, field_eq]
      omega)
    have second : a₂ = g.gate.bits ||| bitByte g.chain 0 := (gate_byte_iff _ _ _).mpr ⟨number, chain⟩
    have third : a₃ = markByte g.startMark := markOfByte_eq_some.mp startMark
    have fourth : a₄ = markByte g.endMark := markOfByte_eq_some.mp endMark
    rw [Segment.bytes, ← first, ← second, ← third, ← fourth, ← spelt, ← tag]
    rfl
  · rintro ⟨⟨gateFits, mayChain, fits⟩, spelt⟩
    obtain ⟨a₀, h₀⟩ : ∃ a, a = BitVec.ofNat 8 (5 + g.body.bytes.length) ||| (g.body.kindCode <<< 5) := ⟨_, rfl⟩
    obtain ⟨a₂, h₂⟩ : ∃ a, a = g.gate.bits ||| bitByte g.chain 0 := ⟨_, rfl⟩
    have shape : b = a₀ :: g.tag :: a₂ :: markByte g.startMark :: markByte g.endMark :: g.body.bytes := by
      rw [spelt, h₀, h₂]
      rfl
    have number := toNat_segment_first g.body
    rw [← h₀] at number
    have kindLt := kindCode_lt g.body
    have lengthLe := length_body_le g.body
    have kind : field (byteAt b 0) 5 3 = g.body.kindCode.toNat := by
      rw [shape]
      show field a₀ 5 3 = _
      rw [field_eq, number]
      omega
    have length : b.length = 5 + g.body.bytes.length := by
      rw [shape]
      simp only [List.length_cons]
      omega
    obtain ⟨gateNumber, chain⟩ := (gate_byte_iff _ _ _).mp h₂
    refine ⟨by rw [kind, length, lengthOfKind_kindCode], ?_, by rw [shape]; rfl, ?_, ?_, ?_, ?_, ?_, mayChain⟩
    · rw [length, shape]
      show field a₀ 0 5 = _
      rw [field_eq, number]
      omega
    · rw [shape]
      exact gateOfByte_eq_some.mpr ⟨gateFits, gateNumber⟩
    · rw [shape]
      exact chain
    · rw [shape]
      exact markOfByte_eq_some.mpr rfl
    · rw [shape]
      exact markOfByte_eq_some.mpr rfl
    · rw [kind, shape]
      exact bodyOfBytes_complete fits rfl

theorem targetAllowed_eq_true (c : ConfigBlock) (g : Segment) : targetAllowed c g = true ↔
    ∀ (x : Position) (r : Ramp), g.body = .moveAbs x r → c.softEnabled = true →
      c.softMin.toInt ≤ x.toInt ∧ x.toInt ≤ c.softMax.toInt := by
  unfold targetAllowed
  cases is : g.body with
  | moveAbs target ramp =>
    have range : (c.softMin.sle target && target.sle c.softMax) = true ↔
        c.softMin.toInt ≤ target.toInt ∧ target.toInt ≤ c.softMax.toInt := by
      rw [Bool.and_eq_true, BitVec.sle_iff_toInt_le, BitVec.sle_iff_toInt_le]
    constructor
    · intro allowed x r same enabled
      rw [SegmentBody.moveAbs.injEq] at same
      rw [enabled] at allowed
      rw [← same.1]
      exact range.mp allowed
    · intro allowed
      cases enabled : c.softEnabled with
      | false => rfl
      | true => exact range.mpr (allowed target ramp rfl enabled)
  | _ => exact ⟨fun _ x r never => (by cases never), fun _ => rfl⟩

/-- R6: what an append checks besides. -/
theorem validSegment_iff (c : ConfigBlock) (b : List Byte) (g : Segment) : validSegment c b = some g ↔
    segmentOfBytes b = some g ∧ targetAllowed c g = true := by
  unfold validSegment
  cases segmentOfBytes b with
  | none => exact ⟨fun never => (by cases never), fun ⟨never, _⟩ => (by cases never)⟩
  | some x =>
    by_cases allowed : targetAllowed c x = true
    · refine ⟨fun read => ?_, fun both => (if_pos allowed).trans both.1⟩
      have same := (if_pos allowed).symm.trans read
      refine ⟨same, ?_⟩
      rw [← Option.some.inj same]
      exact allowed
    · refine ⟨fun never => ?_, fun both => ?_⟩
      · have never := (if_neg allowed).symm.trans never
        cases never
      · rw [Option.some.inj both.1] at allowed
        exact absurd both.2 allowed

end Sys2Proof.Machine

/-! PROOFS. The configuration block written and read (R187, R188, R199). -/

namespace Sys2Proof.Machine

/-! ### The flags of byte 10 -/

/-- The encoder mode of byte 10. -/
def encoderAt (bytes : List Byte) : Option EncoderMode :=
  match field (byteAt bytes 10) 1 2 with
  | 0 => some .off | 1 => some .quadrature | 2 => some .upDown | _ => none

theorem encoder_code_le (e : EncoderMode) : e.code.toNat ≤ 2 := by cases e <;> decide

theorem decide_cwCcw (p : PulseMode) : (if decide (p = .cwCcw) then PulseMode.cwCcw else .stepDirection) = p := by
  cases p <;> rfl

theorem stop_ofBit_decide (k : StopKind) : StopKind.ofBit (decide (k = .immediate)) = k := by cases k <;> rfl

theorem decide_toNat_one (v : Bool) {m : Nat} (is : m = v.toNat) : decide (m = 1) = v := by
  cases v <;> simp [is]

theorem toNat_config_flags (c : ConfigBlock) : c.flags.toNat =
    (decide (c.pulseMode = .cwCcw)).toNat + c.encoder.code.toNat * 2 + (decide (c.hardStop = .immediate)).toNat * 8 +
      (decide (c.softStop = .immediate)).toNat * 16 + c.softEnabled.toNat * 32 + c.autoRejoin.toNat * 64 := by
  have encoder := encoder_code_le c.encoder
  have one := Bool.toNat_le (decide (c.pulseMode = .cwCcw))
  have two := Bool.toNat_le (decide (c.hardStop = .immediate))
  have three := Bool.toNat_le (decide (c.softStop = .immediate))
  have four := Bool.toNat_le c.softEnabled
  have mode := toNat_bitByte (decide (c.pulseMode = .cwCcw)) (by decide : 0 < 8)
  have high : (c.encoder.code <<< 1).toNat = c.encoder.code.toNat * 2 ^ 1 := by
    rw [BitVec.toNat_shiftLeft, Nat.shiftLeft_eq]
    omega
  have a := toNat_or_of_lt (k := 1) (by rw [mode]; omega) high
  rw [mode] at a
  have b := toNat_or_of_lt (k := 3) (by rw [a]; omega) (toNat_bitByte (decide (c.hardStop = .immediate)) (by decide : 3 < 8))
  rw [a] at b
  have d := toNat_or_of_lt (k := 4) (by rw [b]; omega) (toNat_bitByte (decide (c.softStop = .immediate)) (by decide : 4 < 8))
  rw [b] at d
  have e := toNat_or_of_lt (k := 5) (by rw [d]; omega) (toNat_bitByte c.softEnabled (by decide : 5 < 8))
  rw [d] at e
  have f := toNat_or_of_lt (k := 6) (by rw [e]; omega) (toNat_bitByte c.autoRejoin (by decide : 6 < 8))
  rw [e] at f
  refine (show _ = _ from f).trans ?_
  omega

/-- What byte 10 of a block reads as. -/
structure FlagsRead (c : ConfigBlock) : Prop where
  mode : bit c.flags 0 = decide (c.pulseMode = .cwCcw)
  encoder : field c.flags 1 2 = c.encoder.code.toNat
  hardStop : bit c.flags 3 = decide (c.hardStop = .immediate)
  softStop : bit c.flags 4 = decide (c.softStop = .immediate)
  softEnabled : bit c.flags 5 = c.softEnabled
  autoRejoin : bit c.flags 6 = c.autoRejoin
  spare : bit c.flags 7 = false

theorem flagsRead (c : ConfigBlock) : FlagsRead c := by
  have number := toNat_config_flags c
  have encoder := encoder_code_le c.encoder
  have one := Bool.toNat_le (decide (c.pulseMode = .cwCcw))
  have two := Bool.toNat_le (decide (c.hardStop = .immediate))
  have three := Bool.toNat_le (decide (c.softStop = .immediate))
  have four := Bool.toNat_le c.softEnabled
  have five := Bool.toNat_le c.autoRejoin
  refine ⟨?_, ?_, ?_, ?_, ?_, ?_, ?_⟩
  case refine_2 =>
    rw [field_eq, number]
    omega
  case refine_7 =>
    rw [bit_eq, number]
    exact decide_eq_false (by omega)
  all_goals
    rw [bit_eq, number]
    exact decide_toNat_one _ (by omega)

/-! ### The block (R188) -/

/-- The block that bytes spell, when its encoder mode is e. -/
def blockAt (bytes : List Byte) (e : EncoderMode) : ConfigBlock :=
  { presencePeriod := byteAt bytes 0, answerWindow := byteAt bytes 1, postMask := wordAt 32 bytes 2 4
    baseSpeed := wordAt 16 bytes 6 2, stopRate := wordAt 16 bytes 8 2
    pulseMode := if bit (byteAt bytes 10) 0 then .cwCcw else .stepDirection
    encoder := e, hardStop := .ofBit (bit (byteAt bytes 10) 3), softStop := .ofBit (bit (byteAt bytes 10) 4)
    softEnabled := bit (byteAt bytes 10) 5, autoRejoin := bit (byteAt bytes 10) 6, gapLimit := wordAt 16 bytes 11 2
    softMin := wordAt 32 bytes 13 4, softMax := wordAt 32 bytes 17 4
    activeHigh := (byteAt bytes 21).truncate 7, propagate := (byteAt bytes 22).truncate 3 }

/-- Every field of a block in its range, and every bit without a meaning 0. -/
abbrev BlockFits (b : List Byte) : Prop :=
  b.length = 23 ∧ bit (byteAt b 10) 7 = false ∧ 2 ≤ (byteAt b 0).toNat ∧ 1 ≤ (byteAt b 1).toNat ∧
    1 ≤ (wordAt 16 b 6 2).toNat ∧ 1 ≤ (wordAt 16 b 8 2).toNat ∧ bit (byteAt b 21) 7 = false ∧
    field (byteAt b 22) 3 5 = 0 ∧ (bit (byteAt b 10) 5 = true → (wordAt 32 b 13 4).sle (wordAt 32 b 17 4) = true)

theorem configOfBytes_eq_some {b : List Byte} {c : ConfigBlock} : configOfBytes b = some c ↔
    ∃ e, encoderAt b = some e ∧ BlockFits b ∧ blockAt b e = c := by
  have each (e : EncoderMode) (is : encoderAt b = some e) :
      configOfBytes b = if BlockFits b then some (blockAt b e) else none := by
    rw [encoderAt] at is
    rcases mode : field (byteAt b 10) 1 2 with _ | _ | _ | k
    all_goals rw [mode] at is
    case succ.succ.succ => cases is
    all_goals
      rw [← Option.some.inj is]
      simp only [configOfBytes, mode]
      rfl
  have missing (is : encoderAt b = none) : configOfBytes b = none := by
    rw [encoderAt] at is
    rcases mode : field (byteAt b 10) 1 2 with _ | _ | _ | k
    all_goals rw [mode] at is
    case succ.succ.succ =>
      simp only [configOfBytes, mode]
      rfl
    all_goals cases is
  constructor
  · intro read
    cases is : encoderAt b with
    | none =>
      rw [missing is] at read
      cases read
    | some e =>
      rw [each e is] at read
      split at read
      · rename_i all
        exact ⟨e, rfl, all, Option.some.inj read⟩
      · cases read
  · rintro ⟨e, is, all, same⟩
    rw [each e is, if_pos all, same]

/-- A block whose fields lie in their ranges spells itself. -/
theorem configOfBytes_bytes {c : ConfigBlock} (period : 2 ≤ c.presencePeriod.toNat) (window : 1 ≤ c.answerWindow.toNat)
    (base : 1 ≤ c.baseSpeed.toNat) (rate : 1 ≤ c.stopRate.toNat)
    (limits : c.softEnabled = true → c.softMin.toInt ≤ c.softMax.toInt) : configOfBytes c.bytes = some c := by
  obtain ⟨mode, encoder, hardStop, softStop, softEnabled, autoRejoin, spare⟩ := flagsRead c
  have flags : byteAt c.bytes 10 = c.flags := rfl
  have mask : wordAt 32 c.bytes 2 4 = c.postMask := wordAt_of_bytes (by decide) rfl
  have speed : wordAt 16 c.bytes 6 2 = c.baseSpeed := wordAt_of_bytes (by decide) rfl
  have stop : wordAt 16 c.bytes 8 2 = c.stopRate := wordAt_of_bytes (by decide) rfl
  have gap : wordAt 16 c.bytes 11 2 = c.gapLimit := wordAt_of_bytes (by decide) rfl
  have least : wordAt 32 c.bytes 13 4 = c.softMin := wordAt_of_bytes (by decide) rfl
  have most : wordAt 32 c.bytes 17 4 = c.softMax := wordAt_of_bytes (by decide) rfl
  have levels : (byteAt c.bytes 21).toNat = c.activeHigh.toNat := (show (c.activeHigh.zeroExtend 8).toNat = _ from BitVec.toNat_setWidth_of_le (by decide))
  have causes : (byteAt c.bytes 22).toNat = c.propagate.toNat := (show (c.propagate.zeroExtend 8).toNat = _ from BitVec.toNat_setWidth_of_le (by decide))
  have levelsLt := c.activeHigh.isLt
  have causesLt := c.propagate.isLt
  refine configOfBytes_eq_some.mpr ⟨c.encoder, ?_, ⟨rfl, ?_, period, window, ?_, ?_, ?_, ?_, ?_⟩, ?_⟩
  · rw [encoderAt, flags, encoder]
    cases c.encoder <;> rfl
  · rw [flags]
    exact spare
  · rw [speed]
    exact base
  · rw [stop]
    exact rate
  · rw [bit_eq, levels]
    exact decide_eq_false (by omega)
  · rw [field_eq, causes]
    omega
  · rw [flags, softEnabled, least, most, BitVec.sle_iff_toInt_le]
    exact limits
  · have high : (byteAt c.bytes 21).truncate 7 = c.activeHigh := BitVec.eq_of_toNat_eq (by
      rw [BitVec.truncate, BitVec.toNat_setWidth, levels]
      omega)
    have low : (byteAt c.bytes 22).truncate 3 = c.propagate := BitVec.eq_of_toNat_eq (by
      rw [BitVec.truncate, BitVec.toNat_setWidth, causes]
      omega)
    rw [blockAt, mask, speed, stop, gap, least, most, high, low, flags, mode, hardStop, softStop, softEnabled, autoRejoin,
      decide_cwCcw, stop_ofBit_decide, stop_ofBit_decide]
    rfl

/-! ### The bytes that spell a block -/

theorem encoderAt_isSome (b : List Byte) : (encoderAt b).isSome = true ↔ (byteAt b 10).toNat / 2 % 4 ≠ 3 := by
  have eq : field (byteAt b 10) 1 2 = (byteAt b 10).toNat / 2 % 4 := field_eq _ 1 2
  have small := Nat.mod_lt ((byteAt b 10).toNat / 2) (by decide : 4 > 0)
  rw [encoderAt, eq]
  generalize (byteAt b 10).toNat / 2 % 4 = k at small
  match k, small with
  | 0, _ | 1, _ | 2, _ | 3, _ => decide

theorem toNat_wordAt_two {b : List Byte} {k : Nat} (inside : k + 2 ≤ b.length) :
    (wordAt 16 b k 2).toNat = (byteAt b k).toNat + 256 * (byteAt b (k + 1)).toNat := by
  have spelt := natOfBytes_bytesOf 2 (wordAt 16 b k 2)
  have small := (wordAt 16 b k 2).isLt
  rw [Nat.mod_eq_of_lt (by omega)] at spelt
  rw [← spelt, bytesOf_wordAt (by decide) inside, List.drop_eq_getElem_cons (by omega),
    List.drop_eq_getElem_cons (i := k + 1) (by omega)]
  rw [byteAt, byteAt, List.getD_eq_getElem _ _ (by omega), List.getD_eq_getElem _ _ (by omega)]
  rfl

theorem one_le_wordAt_two {b : List Byte} {k : Nat} (inside : k + 2 ≤ b.length) :
    1 ≤ (wordAt 16 b k 2).toNat ↔ byteAt b k ≠ 0 ∨ byteAt b (k + 1) ≠ 0 := by
  have zero (x : Byte) : x ≠ 0 ↔ x.toNat ≠ 0 := by rw [ne_eq, ne_eq, ← BitVec.toNat_inj]; exact Iff.rfl
  rw [toNat_wordAt_two inside, zero, zero]
  omega

theorem bit_seven_clear (b : Byte) : bit b 7 = false ↔ b.toNat < 128 := by
  have range := b.isLt
  rw [bit_eq, decide_eq_false_iff_not]
  omega

theorem configOfBytes_isSome (b : List Byte) : (configOfBytes b).isSome = true ↔
    b.length = 23 ∧ 2 ≤ (byteAt b 0).toNat ∧ 1 ≤ (byteAt b 1).toNat ∧
    (byteAt b 6 ≠ 0 ∨ byteAt b 7 ≠ 0) ∧ (byteAt b 8 ≠ 0 ∨ byteAt b 9 ≠ 0) ∧
    (byteAt b 10).toNat < 128 ∧ (byteAt b 10).toNat / 2 % 4 ≠ 3 ∧
    (byteAt b 21).toNat < 128 ∧ (byteAt b 22).toNat < 8 ∧
    ((byteAt b 10).getLsbD 5 = true → (wordAt 32 b 13 4).toInt ≤ (wordAt 32 b 17 4).toInt) := by
  have range := (byteAt b 22).isLt
  have low : field (byteAt b 22) 3 5 = 0 ↔ (byteAt b 22).toNat < 8 := by
    rw [field_eq]
    omega
  rw [← encoderAt_isSome, ← low, ← BitVec.sle_iff_toInt_le, ← bit_seven_clear, ← bit_seven_clear]
  constructor
  · intro is
    obtain ⟨c, read⟩ := Option.isSome_iff_exists.mp is
    obtain ⟨e, mode, ⟨length, spare, period, window, base, rate, levels, mask, limits⟩, -⟩ := configOfBytes_eq_some.mp read
    exact ⟨length, period, window, (one_le_wordAt_two (by omega)).mp base, (one_le_wordAt_two (by omega)).mp rate, spare,
      by rw [mode]; rfl, levels, mask, limits⟩
  · rintro ⟨length, period, window, base, rate, spare, mode, levels, mask, limits⟩
    obtain ⟨e, is⟩ := Option.isSome_iff_exists.mp mode
    exact Option.isSome_iff_exists.mpr ⟨_, configOfBytes_eq_some.mpr ⟨e, is, ⟨length, spare, period, window,
      (one_le_wordAt_two (by omega)).mpr base, (one_le_wordAt_two (by omega)).mpr rate, levels, mask, limits⟩, rfl⟩⟩

end Sys2Proof.Machine

/-! PROOFS. The commands that bytes spell, and the layouts of the Local Port (R182, R185, R194, R199). -/

namespace Sys2Proof.Machine

/-! ### Bits -/

theorem byteOfBool_getLsbD (v : Bool) (i : Nat) : (byteOfBool v).getLsbD i = (v && decide (i = 0)) := by
  cases v with
  | false => exact BitVec.getLsbD_zero
  | true =>
    rw [byteOfBool, if_pos rfl, Bool.true_and]
    exact (BitVec.getLsbD_one (w := 8) (i := i)).trans (by simp)

/-- Each bit clocked in moves the others one place up. -/
theorem shifted_getLsbD (x : Byte) (v : Bool) (i : Nat) :
    ((x <<< 1) ||| byteOfBool v).getLsbD i = if i = 0 then v else decide (i < 8) && x.getLsbD (i - 1) := by
  rw [BitVec.getLsbD_or, BitVec.getLsbD_shiftLeft, byteOfBool_getLsbD]
  by_cases first : i = 0
  · rw [first]
    simp
  · simp [first, show ¬ i < 1 by omega]

theorem byteOfBits_bitsOfByte (b : Byte) : byteOfBits (bitsOfByte b) = b := by
  refine BitVec.eq_of_getLsbD_eq fun i inside => ?_
  simp only [byteOfBits, bitsOfByte, List.map_cons, List.map_nil, List.foldl_cons, List.foldl_nil, shifted_getLsbD]
  interval_cases i <;> rfl

/-! ### Commands -/

theorem mem_commandCodes {b : Byte} {k : Nat} (is : b.toNat = k) (mem : BitVec.ofNat 8 k ∈ commandCodes) : b ∈ commandCodes := by
  rw [← is, BitVec.ofNat_toNat, BitVec.setWidth_eq] at mem
  exact mem

theorem commandOf_unknown (straps : Straps) {b : Byte} (unknown : b ∉ commandCodes) :
    commandOf straps b [] = some (.unknown b) := by
  have other {k : Nat} (is : b.toNat = k) (mem : BitVec.ofNat 8 k ∈ commandCodes) : False := unknown (mem_commandCodes is mem)
  unfold commandOf
  split
  case h_26 => exact if_neg (by rw [List.contains_iff_mem]; exact unknown)
  case h_27 => exact (‹([] : List Byte) = [] → False› rfl).elim
  all_goals exact (other ‹_› (by decide)).elim

theorem commandOf_known (straps : Straps) {b : Byte} (known : b ∈ commandCodes) :
    commandOf straps b [] ≠ some (.unknown b) := by
  have contains : commandCodes.contains b = true := List.contains_iff_mem.mpr known
  unfold commandOf
  split
  case h_26 =>
    intro never
    have never := (if_pos contains).symm.trans never
    cases never
  case h_21 empty => cases empty
  all_goals
    intro never
    cases never

theorem wordAt_bytesOf_four (v : Position) : wordAt 32 [byteOf v 0, byteOf v 1, byteOf v 2, byteOf v 3] 0 4 = v :=
  wordAt_of_bytes (by decide) rfl

theorem segmentTaken_of_length {l : List Byte} (length : l.length = takenLength l) : segmentTaken l = true :=
  beq_iff_eq.mpr length

/-- Settles O55. -/
theorem configurationReadsBackAsWritten : Obligations.ConfigurationReadsBackAsWritten := by
  refine ⟨fun c period window base rate limits => ⟨rfl, configOfBytes_bytes period window base rate limits⟩,
    configOfBytes_isSome, segmentOfBytes_iff, fun c b g => ?_, fun straps b0 b1 b2 b3 b4 b5 v l => ?_⟩
  · rw [validSegment_iff, targetAllowed_eq_true]
  · have word := wordAt_bytesOf_four v
    have emits : commandOf straps 0x40 ([b0, b1] ++ bytesOf 4 v) =
        some (.emitMark b0 b1 (wordAt 32 [byteOf v 0, byteOf v 1, byteOf v 2, byteOf v 3] 0 4)) := rfl
    have watches : commandOf straps 0x50 ([b0, b1, b2, b3] ++ bytesOf 4 v ++ [b4, b5]) =
        some (.setWatch b0 b1 b2 b3 (wordAt 32 [byteOf v 0, byteOf v 1, byteOf v 2, byteOf v 3] 0 4) b4 b5) := rfl
    rw [word] at emits watches
    exact ⟨fun length => if_pos length, rfl, rfl, rfl, rfl,
      fun length => ⟨if_pos (segmentTaken_of_length length), if_pos (segmentTaken_of_length length)⟩,
      rfl, rfl, rfl, rfl, rfl, rfl, rfl, emits, rfl, rfl, rfl, watches, rfl, rfl, rfl, rfl, rfl, rfl,
      commandOf_unknown straps, commandOf_known straps, byteOfBits_bitsOfByte b0, rfl⟩

end Sys2Proof.Machine
